-- ==== Sys2Proof/Word.lean ====
section
/-!
DEFINITION. Sys2Proof/Word.lean: the words of the machine, by the names the spec uses for their widths.
-/
namespace Sys2Proof

/-- A byte of memory (R8). -/
abbrev Byte := BitVec 8

/-- A 32-bit word: a v register, a constant bank word. -/
abbrev W32 := BitVec 32

/-- A 64-bit word: an s register, an address, the widest operand of R33. -/
abbrev W64 := BitVec 64

/-- An instruction word (R27). -/
abbrev W96 := BitVec 96

end Sys2Proof
end

