-- ==== Sys2Proof/Machine/Maps.lean ====
section
/-!
DEFINITION. Sys2Proof/Machine/Maps.lean: finite maps from numbers, in one canonical form: equal maps are equal data.
-/
namespace Sys2Proof.Machine

/-- Whether keys rise strictly from a bound. -/
def risingFrom {α : Type} : Nat → List (Nat × α) → Bool
  | _, [] => true
  | b, (k, _) :: rest => decide (b ≤ k) && risingFrom (k + 1) rest

/-- A finite map from numbers: entries in strictly rising order of key. -/
structure KMap (α : Type) where
  entries : List (Nat × α)
  rising  : risingFrom 0 entries = true
deriving DecidableEq, Repr

/-- The entry of a key in an association list. -/
def findK {α : Type} (k : Nat) : List (Nat × α) → Option α
  | [] => none
  | (j, x) :: rest => if j = k then some x else findK k rest

/-- Insert or replace, keeping keys in rising order. -/
def insertK {α : Type} (k : Nat) (x : α) : List (Nat × α) → List (Nat × α)
  | [] => [(k, x)]
  | (j, y) :: rest => if k < j then (k, x) :: (j, y) :: rest else if j = k then (k, x) :: rest else (j, y) :: insertK k x rest

/-- Remove a key. -/
def eraseK {α : Type} (k : Nat) : List (Nat × α) → List (Nat × α)
  | [] => []
  | (j, y) :: rest => if j = k then rest else (j, y) :: eraseK k rest

-- ---------------------------------------------------------------------------------------------
-- The canonical form is kept

theorem risingFrom_mono {α : Type} {a b : Nat} (h : a ≤ b) {m : List (Nat × α)} (r : risingFrom b m = true) : risingFrom a m = true := by
  cases m with
  | nil => rfl
  | cons e rest =>
    simp only [risingFrom, Bool.and_eq_true, decide_eq_true_eq] at *
    exact ⟨by omega, r.2⟩

theorem risingFrom_insertK {α : Type} (b k : Nat) (x : α) (m : List (Nat × α)) (h : b ≤ k) (r : risingFrom b m = true) :
    risingFrom b (insertK k x m) = true := by
  induction m generalizing b with
  | nil => simp [insertK, risingFrom, h]
  | cons e rest ih =>
    obtain ⟨n, y⟩ := e
    simp only [risingFrom, Bool.and_eq_true, decide_eq_true_eq] at r
    simp only [insertK]
    split
    · simp only [risingFrom, Bool.and_eq_true, decide_eq_true_eq]
      exact ⟨h, by omega, r.2⟩
    · split
      · subst_vars
        simp only [risingFrom, Bool.and_eq_true, decide_eq_true_eq]
        exact ⟨h, r.2⟩
      · simp only [risingFrom, Bool.and_eq_true, decide_eq_true_eq]
        exact ⟨r.1, ih (n + 1) (by omega) r.2⟩

theorem risingFrom_eraseK {α : Type} (b k : Nat) (m : List (Nat × α)) (r : risingFrom b m = true) : risingFrom b (eraseK k m) = true := by
  induction m generalizing b with
  | nil => rfl
  | cons e rest ih =>
    obtain ⟨n, y⟩ := e
    simp only [risingFrom, Bool.and_eq_true, decide_eq_true_eq] at r
    simp only [eraseK]
    split
    · exact risingFrom_mono (by omega) r.2
    · simp only [risingFrom, Bool.and_eq_true, decide_eq_true_eq]
      exact ⟨r.1, ih _ r.2⟩

theorem risingFrom_filter {α : Type} (p : Nat × α → Bool) (b : Nat) (m : List (Nat × α)) (r : risingFrom b m = true) :
    risingFrom b (m.filter p) = true := by
  induction m generalizing b with
  | nil => rfl
  | cons e rest ih =>
    obtain ⟨n, y⟩ := e
    simp only [risingFrom, Bool.and_eq_true, decide_eq_true_eq] at r
    simp only [List.filter_cons]
    split
    · simp only [risingFrom, Bool.and_eq_true, decide_eq_true_eq]
      exact ⟨r.1, ih _ r.2⟩
    · exact ih _ (risingFrom_mono (by omega) r.2)

theorem risingFrom_map {α β : Type} (f : Nat → α → β) (b : Nat) (m : List (Nat × α)) (r : risingFrom b m = true) :
    risingFrom b (m.map fun e => (e.1, f e.1 e.2)) = true := by
  induction m generalizing b with
  | nil => rfl
  | cons e rest ih =>
    obtain ⟨n, y⟩ := e
    simp only [risingFrom, Bool.and_eq_true, decide_eq_true_eq, List.map_cons] at *
    exact ⟨r.1, ih _ r.2⟩

-- ---------------------------------------------------------------------------------------------
-- Maps

/-- The map with no entry. -/
def KMap.empty {α : Type} : KMap α := ⟨[], rfl⟩

def KMap.get? {α : Type} (m : KMap α) (k : Nat) : Option α := findK k m.entries
def KMap.getD {α : Type} (m : KMap α) (k : Nat) (d : α) : α := (m.get? k).getD d
def KMap.set {α : Type} (m : KMap α) (k : Nat) (x : α) : KMap α :=
  ⟨insertK k x m.entries, risingFrom_insertK 0 k x m.entries (Nat.zero_le k) m.rising⟩
def KMap.erase {α : Type} (m : KMap α) (k : Nat) : KMap α := ⟨eraseK k m.entries, risingFrom_eraseK 0 k m.entries m.rising⟩
def KMap.keys {α : Type} (m : KMap α) : List Nat := m.entries.map (·.1)
def KMap.has {α : Type} (m : KMap α) (k : Nat) : Bool := (m.get? k).isSome
def KMap.filter {α : Type} (m : KMap α) (p : Nat → α → Bool) : KMap α :=
  ⟨m.entries.filter fun e => p e.1 e.2, risingFrom_filter _ 0 m.entries m.rising⟩
def KMap.mapV {α β : Type} (m : KMap α) (f : Nat → α → β) : KMap β :=
  ⟨m.entries.map fun e => (e.1, f e.1 e.2), risingFrom_map f 0 m.entries m.rising⟩

/-- The map of some entries; the first of two with one key stays. -/
def KMap.ofList {α : Type} (l : List (Nat × α)) : KMap α := l.foldr (fun e m => m.set e.1 e.2) .empty

/-- The map of one entry. -/
def KMap.single {α : Type} (k : Nat) (x : α) : KMap α := KMap.empty.set k x

end Sys2Proof.Machine
end

