-- ==== Sys2Proof/Syntax.lean ====
section
/-!
DEFINITION. Sys2Proof/Syntax.lean: the instructions and events of the part as plain data (R28, R29, R32, R37, R38).
The fields keep the spec's own shape: a class and an index for an operand, a type code, three modifier bits, eight option bits and the hints.
-/
namespace Sys2Proof

/-- The type codes 0 to 20 of R37. -/
inductive Ty where
  | none | i8 | i16 | i32 | i64 | n8 | n16 | n32 | n64 | b32 | b64
  | f64 | f32 | f16 | bf16 | f8e4 | f8e5 | f4 | q8 | q4 | xa320
deriving DecidableEq, Repr, Inhabited

/-- The code of a type (R37). -/
def Ty.code : Ty → Nat
  | .none => 0 | .i8 => 1 | .i16 => 2 | .i32 => 3 | .i64 => 4 | .n8 => 5 | .n16 => 6 | .n32 => 7
  | .n64 => 8 | .b32 => 9 | .b64 => 10 | .f64 => 11 | .f32 => 12 | .f16 => 13 | .bf16 => 14
  | .f8e4 => 15 | .f8e5 => 16 | .f4 => 17 | .q8 => 18 | .q4 => 19 | .xa320 => 20

/-- The type of a code. Codes 21 to 31 are illegal (R37). -/
def Ty.ofCode : Nat → Option Ty
  | 0 => some .none | 1 => some .i8 | 2 => some .i16 | 3 => some .i32 | 4 => some .i64
  | 5 => some .n8 | 6 => some .n16 | 7 => some .n32 | 8 => some .n64 | 9 => some .b32
  | 10 => some .b64 | 11 => some .f64 | 12 => some .f32 | 13 => some .f16 | 14 => some .bf16
  | 15 => some .f8e4 | 16 => some .f8e5 | 17 => some .f4 | 18 => some .q8 | 19 => some .q4
  | 20 => some .xa320 | _ => Option.none

/-- The eight operand classes of R32. A racking-only instruction reads `v` as an e register,
`s` as a walker and `k` as a counted barrier (R48). -/
inductive Cls where
  | v | s | latch | pred | k | sys | cbank | imm
deriving DecidableEq, Repr, Inhabited

/-- The three bits of a class (R32). -/
def Cls.code : Cls → BitVec 3
  | .v => 0 | .s => 1 | .latch => 2 | .pred => 3 | .k => 4 | .sys => 5 | .cbank => 6 | .imm => 7

/-- The class of three bits (R32): every code names one. -/
def Cls.ofCode (c : BitVec 3) : Cls :=
  if c = 0 then .v else if c = 1 then .s else if c = 2 then .latch else if c = 3 then .pred
  else if c = 4 then .k else if c = 5 then .sys else if c = 6 then .cbank else .imm

/-- A source field: class and 9-bit index (R28). -/
structure Src where
  cls : Cls
  idx : BitVec 9
deriving DecidableEq, Repr, Inhabited

/-- The DST field: the write-back suppression bit N, a class and an 8-bit index (R28). -/
structure Dst where
  n   : Bool
  cls : Cls
  idx : BitVec 8
deriving DecidableEq, Repr, Inhabited

/-- The hint field (R38). Its reserved bits are zero in every legal word, so they have no place here. -/
structure Hint where
  run   : BitVec 2
  stall : BitVec 4
  yld   : Bool
  land  : Bool
deriving DecidableEq, Repr, Inhabited

/-- The fields of a register form (R28). `z` is MOD[72:70]: RND and FLG, a scope or a condition (R37). -/
structure Args where
  grd : BitVec 4
  dst : Dst
  sa  : Src
  sb  : Src
  sc  : Src
  ty  : Ty
  z   : BitVec 3
  opt : BitVec 8
  hnt : Hint
deriving DecidableEq, Repr, Inhabited

/-- The fields of an immediate form (R29): a 32-bit immediate stands in place of SB, SC and OPT. -/
structure ArgsI where
  grd : BitVec 4
  dst : Dst
  sa  : Src
  imm : BitVec 32
  ty  : Ty
  z   : BitVec 3
  hnt : Hint
deriving DecidableEq, Repr, Inhabited

/-- What stands in the SB position: a source field, or the immediate of an I-form (R29). -/
inductive BOp where
  | src (s : Src)
  | imm (x : BitVec 32)
deriving DecidableEq, Repr, Inhabited

/-- One view of both forms, so that a mnemonic has one meaning over its two encodings. -/
structure View where
  grd : BitVec 4
  dst : Dst
  sa  : Src
  sb  : BOp
  sc  : Src
  ty  : Ty
  z   : BitVec 3
  opt : BitVec 8
  hnt : Hint
deriving DecidableEq, Repr, Inhabited

/-- The zero source field: an unused field holds zero in every bit (R32). -/
def Src.zero : Src := ⟨.v, 0⟩

/-- The zero destination field (R32). -/
def Dst.zero : Dst := ⟨false, .v, 0⟩

/-- A register form as a view. -/
def Args.view (a : Args) : View :=
  ⟨a.grd, a.dst, a.sa, .src a.sb, a.sc, a.ty, a.z, a.opt, a.hnt⟩

/-- An immediate form as a view: the fields it does not have are zero. -/
def ArgsI.view (a : ArgsI) : View :=
  ⟨a.grd, a.dst, a.sa, .imm a.imm, Src.zero, a.ty, a.z, 0, a.hnt⟩

/-- The two builds of the family (R2). -/
inductive Build where
  | gzC | gzX
deriving DecidableEq, Repr, Inhabited

/-- MetaValue of a CXL.mem request (R406): the host state afterwards (R412). -/
inductive MetaValue where
  | invalid | shared | any
deriving DecidableEq, Repr, Inhabited

/-- A port of the package (R24): a host port, or fabric port `n` of a die. -/
inductive PortRef where
  | host (n : Nat)
  | fabric (die n : Nat)
deriving DecidableEq, Repr, Inhabited

/-- A register written by the event REGISTER_WRITE: a CSR (R356), a VF's LQSEL or LQERR (R374), or a mailbox argument word (R370). -/
inductive RegRef where
  | csr (addr : BitVec 32)
  | lqsel (vf : Nat)
  | lqerr (vf : Nat)
  | arg (func word : Nat)
deriving DecidableEq, Repr, Inhabited

/-- A vat key without its pool-side function, which the binding gives (R435). -/
structure VatKey where
  coll : BitVec 32
  vidx : BitVec 16
deriving DecidableEq, Repr, Inhabited

/-- What another package asks of a home in this package (R309, R433): kinds of access and their operands. -/
inductive ReqKind where
  | read | readOwn | readSite | write | atomic (op tycode : Nat) | writeBack | own | disown
deriving DecidableEq, Repr, Inhabited

/-- A CXL.mem request of package `pkg`, function `func`, at a device-physical or guest-physical address of this package. -/
structure MemReq where
  pkg  : BitVec 16
  /-- The package that it is for: a pool package's crossbar passes on what is for another (R428). -/
  dst  : BitVec 16
  func : Nat
  kind : ReqKind
  /-- The class of the page at the sender (R433). -/
  coh  : Bool
  addr : BitVec 64
  data : BitVec 512
  mask : BitVec 64
  b    : BitVec 64
  c    : BitVec 64
  poison : Bool
deriving DecidableEq, Repr, Inhabited

/-- The answer of the fabric to an operation of a chunk graph (R437 to R444). -/
inductive FabRes where
  | ack
  | nack
  | values (vs : List (BitVec 32))
  | lost (ident : BitVec 16)
  | aborted (ident : BitVec 16)
  | refused (ident : BitVec 16)
  | mismatch (ident : BitVec 16)
deriving DecidableEq, Repr, Inhabited

/-- Where an uncorrectable error strikes (R225, R234, R255, R332, R348, R394). -/
inductive ErrSite where
  | scratchpad (core block word : Nat)
  | barrier (core cb : Nat)
  | pressCell (core bank row col : Nat)
  | l1Word (core func : Nat) (gpa : BitVec 64)
  | l2Word (func : Nat) (gpa : BitVec 64)
  | directory (func : Nat) (gpa : BitVec 64)
  | memory (addr : BitVec 64)
  | constBank (launch word : Nat)
  | correctedScratchpad (core : Nat)
  | correctedL1 (core : Nat)
  | correctedL2 (die : Nat)
  | correctedMem (die : Nat)
deriving DecidableEq, Repr, Inhabited

/-- The signed configuration record (R459), as the boot firmware reads it from flash. -/
structure CfgRecord where
  hdmSize : Nat
  plim    : Nat
  fmin    : Nat
  retire  : List (BitVec 34)
  bytes   : List (BitVec 8)
deriving DecidableEq, Repr, Inhabited

/-- A message through DOE on the physical function (R409, R458). -/
inductive DoeMsg where
  | measurements
  | ideKeys (port : PortRef)
deriving DecidableEq, Repr, Inhabited

/-- A snoop of CXL.cache (R420): of the host, or of the pool package `src` on a link to it (R427). -/
structure SnpReq where
  src  : Option (BitVec 16)
  addr : BitVec 64
deriving DecidableEq, Repr, Inhabited

/-- The sender and the destination of a SENDP sector (R428, R444). -/
structure PodEnds where
  src : BitVec 16
  dst : BitVec 16
deriving DecidableEq, Repr, Inhabited

/-- A firmware image pushed through DOE in recovery, and the port that it comes through (R458). -/
structure ImagePush where
  port  : PortRef
  image : List (BitVec 8)
deriving DecidableEq, Repr, Inhabited

/-- A message of DOE, and the port that it comes through (R409). -/
structure DoeReq where
  port : PortRef
  msg  : DoeMsg
deriving DecidableEq, Repr, Inhabited

/-- THE instructions and events of spec/opcode_table.json, one constructor per row: first the 216 instruction rows
(a register form carries `Args`, an I-form `ArgsI`), then the 87 rows of events of the hardware and its host interface. -/
inductive Instr where
  /-- ADD (R120), opcode 0x000. -/
  | add (a : Args)
  /-- ADD_I (R120), opcode 0x040. -/
  | addI (a : ArgsI)
  /-- SUB (R120), opcode 0x001. -/
  | sub (a : Args)
  /-- SUB_I (R120), opcode 0x041. -/
  | subI (a : ArgsI)
  /-- MUL (R120), opcode 0x002. -/
  | mul (a : Args)
  /-- MUL_I (R120), opcode 0x042. -/
  | mulI (a : ArgsI)
  /-- MULHI (R120), opcode 0x003. -/
  | mulhi (a : Args)
  /-- MAD (R120), opcode 0x004. -/
  | mad (a : Args)
  /-- NEG (R120), opcode 0x005. -/
  | neg (a : Args)
  /-- ABS (R120), opcode 0x006. -/
  | abs (a : Args)
  /-- MIN (R120), opcode 0x007. -/
  | min (a : Args)
  /-- MIN_I (R120), opcode 0x047. -/
  | minI (a : ArgsI)
  /-- MAX (R120), opcode 0x008. -/
  | max (a : Args)
  /-- MAX_I (R120), opcode 0x048. -/
  | maxI (a : ArgsI)
  /-- DIV (R121), opcode 0x009. -/
  | div (a : Args)
  /-- REM (R121), opcode 0x00A. -/
  | rem (a : Args)
  /-- AND (R120), opcode 0x00B. -/
  | and (a : Args)
  /-- AND_I (R120), opcode 0x04B. -/
  | andI (a : ArgsI)
  /-- OR (R120), opcode 0x00C. -/
  | or (a : Args)
  /-- OR_I (R120), opcode 0x04C. -/
  | orI (a : ArgsI)
  /-- XOR (R120), opcode 0x00D. -/
  | xor (a : Args)
  /-- XOR_I (R120), opcode 0x04D. -/
  | xorI (a : ArgsI)
  /-- NOT (R120), opcode 0x00E. -/
  | not (a : Args)
  /-- ANDN (R120), opcode 0x00F. -/
  | andn (a : Args)
  /-- ANDN_I (R120), opcode 0x04F. -/
  | andnI (a : ArgsI)
  /-- SHL (R122), opcode 0x010. -/
  | shl (a : Args)
  /-- SHL_I (R122), opcode 0x050. -/
  | shlI (a : ArgsI)
  /-- SHR (R122), opcode 0x011. -/
  | shr (a : Args)
  /-- SHR_I (R122), opcode 0x051. -/
  | shrI (a : ArgsI)
  /-- SAR (R122), opcode 0x012. -/
  | sar (a : Args)
  /-- SAR_I (R122), opcode 0x052. -/
  | sarI (a : ArgsI)
  /-- ROL (R122), opcode 0x013. -/
  | rol (a : Args)
  /-- ROL_I (R122), opcode 0x053. -/
  | rolI (a : ArgsI)
  /-- BFX (R123), opcode 0x014. -/
  | bfx (a : Args)
  /-- BFI (R123), opcode 0x015. -/
  | bfi (a : Args)
  /-- POPC (R124), opcode 0x016. -/
  | popc (a : Args)
  /-- CLZ (R124), opcode 0x017. -/
  | clz (a : Args)
  /-- BREV (R124), opcode 0x018. -/
  | brev (a : Args)
  /-- SEL (R127), opcode 0x019. -/
  | sel (a : Args)
  /-- CMP (R125), opcode 0x01A. -/
  | cmp (a : Args)
  /-- CMP_I (R125), opcode 0x05A. -/
  | cmpI (a : ArgsI)
  /-- PLOP (R126), opcode 0x01B. -/
  | plop (a : Args)
  /-- MOV (R128), opcode 0x01C. -/
  | mov (a : Args)
  /-- MOVI (R128), opcode 0x05C. -/
  | movi (a : ArgsI)
  /-- LEA (R129), opcode 0x01D. -/
  | lea (a : Args)
  /-- LEA_I (R129), opcode 0x05D. -/
  | leaI (a : ArgsI)
  /-- ICVT (R130), opcode 0x01E. -/
  | icvt (a : Args)
  /-- FADD (R132), opcode 0x080. -/
  | fadd (a : Args)
  /-- FADD_I (R132), opcode 0x0C0. -/
  | faddI (a : ArgsI)
  /-- FSUB (R132), opcode 0x081. -/
  | fsub (a : Args)
  /-- FSUB_I (R132), opcode 0x0C1. -/
  | fsubI (a : ArgsI)
  /-- FMUL (R132), opcode 0x082. -/
  | fmul (a : Args)
  /-- FMUL_I (R132), opcode 0x0C2. -/
  | fmulI (a : ArgsI)
  /-- FFMA (R132), opcode 0x083. -/
  | ffma (a : Args)
  /-- FMIN (R133), opcode 0x084. -/
  | fmin (a : Args)
  /-- FMIN_I (R133), opcode 0x0C4. -/
  | fminI (a : ArgsI)
  /-- FMAX (R133), opcode 0x085. -/
  | fmax (a : Args)
  /-- FMAX_I (R133), opcode 0x0C5. -/
  | fmaxI (a : ArgsI)
  /-- FCMP (R134), opcode 0x086. -/
  | fcmp (a : Args)
  /-- FCMP_I (R134), opcode 0x0C6. -/
  | fcmpI (a : ArgsI)
  /-- FCLASS (R135), opcode 0x087. -/
  | fclass (a : Args)
  /-- FRCP (R136), opcode 0x088. -/
  | frcp (a : Args)
  /-- FRSQ (R136), opcode 0x089. -/
  | frsq (a : Args)
  /-- FSQRT (R136), opcode 0x08A. -/
  | fsqrt (a : Args)
  /-- FEX2 (R136), opcode 0x08B. -/
  | fex2 (a : Args)
  /-- FLG2 (R136), opcode 0x08C. -/
  | flg2 (a : Args)
  /-- FSIN (R136), opcode 0x08D. -/
  | fsin (a : Args)
  /-- FCOS (R136), opcode 0x08E. -/
  | fcos (a : Args)
  /-- FCVT (R137), opcode 0x08F. -/
  | fcvt (a : Args)
  /-- F2I (R138), opcode 0x090. -/
  | f2i (a : Args)
  /-- I2F (R138), opcode 0x091. -/
  | i2f (a : Args)
  /-- FRND (R132), opcode 0x092. -/
  | frnd (a : Args)
  /-- FSCL (R132), opcode 0x093. -/
  | fscl (a : Args)
  /-- HVADD (R139), opcode 0x094. -/
  | hvadd (a : Args)
  /-- HVMUL (R139), opcode 0x095. -/
  | hvmul (a : Args)
  /-- HVFMA (R139), opcode 0x096. -/
  | hvfma (a : Args)
  /-- HVMIN (R139), opcode 0x097. -/
  | hvmin (a : Args)
  /-- HVMAX (R139), opcode 0x098. -/
  | hvmax (a : Args)
  /-- DP8 (R141), opcode 0x100. -/
  | dp8 (a : Args)
  /-- DP4 (R141), opcode 0x101. -/
  | dp4 (a : Args)
  /-- FDP8 (R142), opcode 0x102. -/
  | fdp8 (a : Args)
  /-- FDP4 (R142), opcode 0x103. -/
  | fdp4 (a : Args)
  /-- PACK (R143), opcode 0x104. -/
  | pack (a : Args)
  /-- UNPK (R144), opcode 0x105. -/
  | unpk (a : Args)
  /-- XSCL (R145), opcode 0x106. -/
  | xscl (a : Args)
  /-- XACC (R147), opcode 0x107. -/
  | xacc (a : Args)
  /-- XADD (R148), opcode 0x108. -/
  | xadd (a : Args)
  /-- XRND (R149), opcode 0x109. -/
  | xrnd (a : Args)
  /-- XCLR (R150), opcode 0x10A. -/
  | xclr (a : Args)
  /-- BRA (R154), opcode 0x1C0. -/
  | bra (a : ArgsI)
  /-- BRX (R154), opcode 0x181. -/
  | brx (a : Args)
  /-- CALL (R154), opcode 0x1C2. -/
  | call (a : ArgsI)
  /-- CALLX (R154), opcode 0x183. -/
  | callx (a : Args)
  /-- RET (R154), opcode 0x184. -/
  | ret (a : Args)
  /-- EXIT (R157), opcode 0x185. -/
  | exit (a : Args)
  /-- TRAP (R158), opcode 0x186. -/
  | trap (a : Args)
  /-- RTT (R156), opcode 0x187. -/
  | rtt (a : Args)
  /-- YIELD (R159), opcode 0x188. -/
  | yield (a : Args)
  /-- SLEEP (R159), opcode 0x189. -/
  | sleep (a : Args)
  /-- BKPT (R158), opcode 0x18A. -/
  | bkpt (a : Args)
  /-- NOP (R159), opcode 0x18B. -/
  | nop (a : Args)
  /-- EADD (R271), opcode 0x1A0. -/
  | eadd (a : Args)
  /-- EADD_I (R271), opcode 0x1E0. -/
  | eaddI (a : ArgsI)
  /-- ESUB (R271), opcode 0x1A1. -/
  | esub (a : Args)
  /-- ESUB_I (R271), opcode 0x1E1. -/
  | esubI (a : ArgsI)
  /-- EMUL (R271), opcode 0x1A2. -/
  | emul (a : Args)
  /-- EAND (R271), opcode 0x1A3. -/
  | eand (a : Args)
  /-- EAND_I (R271), opcode 0x1E3. -/
  | eandI (a : ArgsI)
  /-- EOR (R271), opcode 0x1A4. -/
  | eor (a : Args)
  /-- EOR_I (R271), opcode 0x1E4. -/
  | eorI (a : ArgsI)
  /-- EXOR (R271), opcode 0x1A5. -/
  | exor (a : Args)
  /-- EXOR_I (R271), opcode 0x1E5. -/
  | exorI (a : ArgsI)
  /-- ESHL (R271), opcode 0x1A6. -/
  | eshl (a : Args)
  /-- ESHL_I (R271), opcode 0x1E6. -/
  | eshlI (a : ArgsI)
  /-- ESHR (R271), opcode 0x1A7. -/
  | eshr (a : Args)
  /-- ESHR_I (R271), opcode 0x1E7. -/
  | eshrI (a : ArgsI)
  /-- ECMP (R271), opcode 0x1A8. -/
  | ecmp (a : Args)
  /-- ECMP_I (R271), opcode 0x1E8. -/
  | ecmpI (a : ArgsI)
  /-- EMOV (R271), opcode 0x1A9. -/
  | emov (a : Args)
  /-- EMOVI (R271), opcode 0x1E9. -/
  | emovi (a : ArgsI)
  /-- EBR (R272), opcode 0x1AA. -/
  | ebr (a : Args)
  /-- EBR_I (R272), opcode 0x1EA. -/
  | ebrI (a : ArgsI)
  /-- EJMP (R272), opcode 0x1AB. -/
  | ejmp (a : Args)
  /-- EJMP_I (R272), opcode 0x1EB. -/
  | ejmpI (a : ArgsI)
  /-- ELOOP (R272), opcode 0x1AC. -/
  | eloop (a : Args)
  /-- ELOOP_I (R272), opcode 0x1EC. -/
  | eloopI (a : ArgsI)
  /-- ELD (R273), opcode 0x1AD. -/
  | eld (a : Args)
  /-- ELD_I (R273), opcode 0x1ED. -/
  | eldI (a : ArgsI)
  /-- EST (R273), opcode 0x1AE. -/
  | est (a : Args)
  /-- WSET_LD (R277), opcode 0x1AF. -/
  | wsetLd (a : Args)
  /-- WSET (R277), opcode 0x1AF. -/
  | wset (a : Args)
  /-- WSTEP (R277), opcode 0x1B0. -/
  | wstep (a : Args)
  /-- TCOPY (R283), opcode 0x1B1. -/
  | tcopy (a : Args)
  /-- TEXP (R284), opcode 0x1B2. -/
  | texp (a : Args)
  /-- TPACK (R286), opcode 0x1B3. -/
  | tpack (a : Args)
  /-- TGATH (R287), opcode 0x1B4. -/
  | tgath (a : Args)
  /-- TSCAT (R288), opcode 0x1B5. -/
  | tscat (a : Args)
  /-- TREG (R289), opcode 0x1B6. -/
  | treg (a : Args)
  /-- ECBADD (R290), opcode 0x1B7. -/
  | ecbadd (a : Args)
  /-- ECBWAIT (R291), opcode 0x1B8. -/
  | ecbwait (a : Args)
  /-- EFENCE (R292), opcode 0x1B9. -/
  | efence (a : Args)
  /-- EEND (R293), opcode 0x1BA. -/
  | eend (a : Args)
  /-- LD (R167), opcode 0x200. -/
  | ld (a : Args)
  /-- LD_I (R167), opcode 0x240. -/
  | ldI (a : ArgsI)
  /-- ST (R168), opcode 0x201. -/
  | st (a : Args)
  /-- LDS (R170), opcode 0x202. -/
  | lds (a : Args)
  /-- LDS_I (R170), opcode 0x242. -/
  | ldsI (a : ArgsI)
  /-- STS (R170), opcode 0x203. -/
  | sts (a : Args)
  /-- LDC (R171), opcode 0x204. -/
  | ldc (a : Args)
  /-- LDC_I (R171), opcode 0x244. -/
  | ldcI (a : ArgsI)
  /-- LDT (R172), opcode 0x205. -/
  | ldt (a : Args)
  /-- ATOM (R174), opcode 0x206. -/
  | atom (a : Args)
  /-- ATOMS (R174), opcode 0x207. -/
  | atoms (a : Args)
  /-- RED (R174), opcode 0x208. -/
  | red (a : Args)
  /-- FENCE (R177), opcode 0x209. -/
  | fence (a : Args)
  /-- CWB (R178), opcode 0x20A. -/
  | cwb (a : Args)
  /-- CINV (R178), opcode 0x20B. -/
  | cinv (a : Args)
  /-- CDISC (R179), opcode 0x20C. -/
  | cdisc (a : Args)
  /-- PREF (R180), opcode 0x20D. -/
  | pref (a : Args)
  /-- PREF_I (R180), opcode 0x24D. -/
  | prefI (a : ArgsI)
  /-- MONW (R181), opcode 0x20E. -/
  | monw (a : Args)
  /-- RST (R182), opcode 0x20F. -/
  | rst (a : Args)
  /-- WCFL (R183), opcode 0x210. -/
  | wcfl (a : Args)
  /-- PTST (R184), opcode 0x211. -/
  | ptst (a : Args)
  /-- REPLAY (R185), opcode 0x212. -/
  | replay (a : Args)
  /-- VOTE (R203), opcode 0x280. -/
  | vote (a : Args)
  /-- SHFL (R204), opcode 0x281. -/
  | shfl (a : Args)
  /-- MATCH (R205), opcode 0x282. -/
  | matchV (a : Args)
  /-- FREDUX (R206), opcode 0x283. -/
  | fredux (a : Args)
  /-- KMOV (R207), opcode 0x284. -/
  | kmov (a : Args)
  /-- KMOV_I (R207), opcode 0x2C4. -/
  | kmovI (a : ArgsI)
  /-- KLOP (R208), opcode 0x285. -/
  | klop (a : Args)
  /-- KPOPC (R209), opcode 0x286. -/
  | kpopc (a : Args)
  /-- KFIND (R209), opcode 0x287. -/
  | kfind (a : Args)
  /-- RCV (R210), opcode 0x288. -/
  | rcv (a : Args)
  /-- ALLOC (R216), opcode 0x289. -/
  | alloc (a : Args)
  /-- FREE (R218), opcode 0x28A. -/
  | free (a : Args)
  /-- BAR (R227), opcode 0x290. -/
  | bar (a : Args)
  /-- CBARM (R237), opcode 0x291. -/
  | cbarm (a : Args)
  /-- CBARM_I (R237), opcode 0x2D1. -/
  | cbarmI (a : ArgsI)
  /-- CBADD (R238), opcode 0x292. -/
  | cbadd (a : Args)
  /-- CBADD_I (R238), opcode 0x2D2. -/
  | cbaddI (a : ArgsI)
  /-- CBWAIT (R239), opcode 0x293. -/
  | cbwait (a : Args)
  /-- CBACQ (R240), opcode 0x294. -/
  | cbacq (a : Args)
  /-- CBREAD (R241), opcode 0x295. -/
  | cbread (a : Args)
  /-- CBAR (R306), opcode 0x298. -/
  | cbar (a : Args)
  /-- MXACQ (R245), opcode 0x300. -/
  | mxacq (a : Args)
  /-- MXREL (R259), opcode 0x301. -/
  | mxrel (a : Args)
  /-- MMA (R254), opcode 0x302. -/
  | mma (a : Args)
  /-- MMAS (R254), opcode 0x303. -/
  | mmas (a : Args)
  /-- MXZERO (R256), opcode 0x304. -/
  | mxzero (a : Args)
  /-- MXLDZ (R256), opcode 0x305. -/
  | mxldz (a : Args)
  /-- MXSTZ (R257), opcode 0x306. -/
  | mxstz (a : Args)
  /-- MXSTZ_REG (R258), opcode 0x306. -/
  | mxstzReg (a : Args)
  /-- MXWAIT (R259), opcode 0x307. -/
  | mxwait (a : Args)
  /-- RFORK (R266), opcode 0x310. -/
  | rfork (a : Args)
  /-- RJOIN (R267), opcode 0x311. -/
  | rjoin (a : Args)
  /-- RSTAT (R268), opcode 0x312. -/
  | rstat (a : Args)
  /-- PMFLIP_H (R417), opcode 0x320. -/
  | pmflipH (a : Args)
  /-- PMFLIP_D (R418), opcode 0x320. -/
  | pmflipD (a : Args)
  /-- CGLOAD (R450), opcode 0x321. -/
  | cgload (a : Args)
  /-- CGLOAD_FREE (R450), opcode 0x321. -/
  | cgloadFree (a : Args)
  /-- CGRUN (R450), opcode 0x322. -/
  | cgrun (a : Args)
  /-- TSHIP (R453), opcode 0x323. -/
  | tship (a : Args)
  /-- TSREG (R451), opcode 0x324. -/
  | tsreg (a : Args)
  /-- CSRR (R360), opcode 0x380. -/
  | csrr (a : Args)
  /-- CSRW (R360), opcode 0x381. -/
  | csrw (a : Args)
  /-- TLBINV (R361), opcode 0x382. -/
  | tlbinv (a : Args)
  /-- LQPOP (R362), opcode 0x383. -/
  | lqpop (a : Args)
  /-- LQDONE (R363), opcode 0x384. -/
  | lqdone (a : Args)
  /-- CTXSAVE (R385), opcode 0x388. -/
  | ctxsave (a : Args)
  /-- CTXSAVE_DROP (R385), opcode 0x388. -/
  | ctxsaveDrop (a : Args)
  /-- CTXLOAD (R389), opcode 0x389. -/
  | ctxload (a : Args)
  /-- CTXLOAD_RES (R389), opcode 0x389. -/
  | ctxloadRes (a : Args)
  /-- TGPOST (R403), opcode 0x38A. -/
  | tgpost (a : Args)
  /-- TGDONE (R404), opcode 0x38B. -/
  | tgdone (a : Args)
  /-- UNALLOCATED_OPCODE (R52). -/
  | unallocatedOpcode (word : BitVec 96)
  /-- LOAD_LANDING (R167): the record `id` of flight `fid` of core `core` lands. -/
  | loadLanding (core fid id : Nat)
  /-- LONG_OP_COMPLETE (R115): the pending arithmetic result `id` lands. -/
  | longOpComplete (core fid id : Nat)
  /-- STORE_FAILURE (R169): the failure at place `i` of the list of failures after issue. -/
  | storeFailure (i : Nat)
  /-- SLEEP_EXPIRY (R159). -/
  | sleepExpiry (core fid lane : Nat)
  /-- MONW_WAKE (R181). -/
  | monwWake (core fid lane : Nat)
  /-- MONW_TIMEOUT (R181). -/
  | monwTimeout (core fid lane : Nat)
  /-- FLIGHT_OVERDUE (R190). -/
  | flightOverdue (core fid : Nat)
  /-- THREAD_AGED (R195). -/
  | threadAged (core fid lane : Nat)
  /-- BLOCK_ADMIT (R215): the next block or cluster group of launch `launch` (its key in the table of launches). -/
  | blockAdmit (launch : Nat)
  /-- ALLOC_GRANT (R217). -/
  | allocGrant (core : Nat)
  /-- SCRATCHPAD_RELEASE (R218). -/
  | scratchpadRelease (core block : Nat)
  /-- REMOTE_ARRIVAL (R234): the amount is signed, as SIGNAL and AMOUNT give it. -/
  | remoteArrival (core cb ctx launch : Nat) (amount : BitVec 32)
  /-- ARRIVAL_RETRY (R234): the held arrival at place `i`. -/
  | arrivalRetry (i : Nat)
  /-- PRESS_GRANT (R245). -/
  | pressGrant (core : Nat)
  /-- PAIR_CLAIM_GRANT (R246). -/
  | pairClaimGrant (core : Nat)
  /-- PRESS_INSTR_PERFORM (R253). -/
  | pressInstrPerform (core : Nat)
  /-- PRESS_REG_LANDING (R258). -/
  | pressRegLanding (core : Nat)
  /-- PIECE_LAND (R279): piece `k` of the transfer in slot `slot`. -/
  | pieceLand (core eng slot k : Nat)
  /-- WCB_DRAIN_TIMEOUT (R182). -/
  | wcbDrainTimeout (core i : Nat)
  /-- LAUNCH_COMPLETE (R21). -/
  | launchComplete (launch : Nat)
  /-- NODE_DISPATCH (R398). -/
  | nodeDispatch (part : Nat)
  /-- ROOT_PROGRAM_START (R392). -/
  | rootProgramStart (part : Nat)
  /-- SLICE_EXPIRY (R382). -/
  | sliceExpiry (part : Nat)
  /-- EVENT_SLOT_FREED (R381). -/
  | eventSlotFreed (ring : Nat)
  /-- EVENT_RING_RETRY (R381). -/
  | eventRingRetry (ring : Nat)
  /-- PART_SET (R371). -/
  | partSet (index : Nat) (arg : BitVec 512)
  /-- VF_SET (R371). -/
  | vfSet (index : Nat) (arg : BitVec 512)
  /-- EXT_ADD (R346). -/
  | extAdd (index : Nat) (arg : BitVec 512)
  /-- EXT_DEL (R343). -/
  | extDel (index : Nat) (arg : BitVec 512)
  /-- PF_EVT_SET (R371). -/
  | pfEvtSet (arg : BitVec 512)
  /-- CTX_KILL (R371). -/
  | ctxKill (index : Nat)
  /-- MAILBOX_UNKNOWN_CODE (R371). -/
  | mailboxUnknownCode (func code index : Nat)
  /-- CTX_OPEN (R373). -/
  | ctxOpen (vf : Nat)
  /-- CTX_CLOSE (R373). -/
  | ctxClose (vf index : Nat)
  /-- VF_EVT_SET (R373). -/
  | vfEvtSet (vf : Nat) (arg : BitVec 512)
  /-- WAY_MASK_WRITE (R372). -/
  | wayMaskWrite (vf : Nat) (mask : BitVec 32)
  /-- VF_LQPOP (R374). -/
  | vfLqpop (vf : Nat)
  /-- VF_LQDONE (R374). -/
  | vfLqdone (vf : Nat) (handle : BitVec 64)
  /-- VF_LQRFS (R374). -/
  | vfLqrfs (vf : Nat) (handle : BitVec 64)
  /-- CORE_SRAM_WRITE (R220). -/
  | coreSramWrite (core : Nat) (value : BitVec 64)
  /-- CTX_TRANSLATION_WRITE (R340). -/
  | ctxTranslationWrite (ctx reg : Nat) (value : BitVec 64)
  /-- DIE_RETIRE_WRITE (R464). -/
  | dieRetireWrite (die : Nat) (value : BitVec 64)
  /-- DIE_GOV_WRITE (R461). -/
  | dieGovWrite (die : Nat) (value : BitVec 64)
  /-- REGISTER_WRITE (R360). -/
  | registerWrite (reg : RegRef) (value : BitVec 64)
  /-- HOST_MEMRD (R412). -/
  | hostMemrd (port : Nat) (addr : BitVec 64) (mv : MetaValue)
  /-- HOST_MEMWR (R412). -/
  | hostMemwr (port : Nat) (addr : BitVec 64) (data : BitVec 512) (mask : BitVec 64) (mv : MetaValue) (poison : Bool)
  /-- HOST_MEMINV (R412). -/
  | hostMeminv (port : Nat) (addr : BitVec 64) (mv : MetaValue)
  /-- BISNP_RESPONSE (R414). -/
  | bisnpResponse (i : Nat) (data : BitVec 512) (mask : BitVec 64)
  /-- BISNP_TIMEOUT (R414). -/
  | bisnpTimeout (i : Nat)
  /-- SNPINV (R420). -/
  | snpinv (req : SnpReq)
  /-- SNPDATA (R420). -/
  | snpdata (req : SnpReq)
  /-- SNPCUR (R420). -/
  | snpcur (req : SnpReq)
  /-- CXL_CACHE_RESPONSE (R419). -/
  | cxlCacheResponse (i port : Nat) (data : BitVec 512) (poison : Bool)
  /-- VIRAL_RECEIVED (R423). -/
  | viralReceived (port : PortRef)
  /-- LINK_DOWN (R408). -/
  | linkDown (port : PortRef)
  /-- LINK_TRAIN (R407). -/
  | linkTrain (port : PortRef) (peer : BitVec 16) (lanes : Nat) (slow ide : Bool)
  /-- LANE_FAIL (R463). -/
  | laneFail (port : PortRef)
  /-- LANE_RETRAIN_DONE (R463). -/
  | laneRetrainDone (port : PortRef)
  /-- PEER_REQUEST_TIMEOUT (R430). -/
  | peerRequestTimeout (i : Nat)
  /-- HOLD_NOTICE_TIMER (R430). -/
  | holdNoticeTimer (i : Nat)
  /-- HOLD_NOTICE (R430). -/
  | holdNotice (i : Nat)
  /-- POOL_MEM_REQUEST (R433). -/
  | poolMemRequest (req : MemReq)
  /-- ADD_DYNAMIC_CAPACITY (R431). -/
  | addDynamicCapacity (func index : Nat) (arg : BitVec 512) (tag : Nat)
  /-- RELEASE_DYNAMIC_CAPACITY (R432). -/
  | releaseDynamicCapacity (func index : Nat)
  /-- VAT_CONTRIBUTION (R437). -/
  | vatContribution (port : Nat) (pkg : BitVec 16) (func : Nat) (key : VatKey) (fmt ncon nfet count : Nat) (vals : List (BitVec 32))
  /-- VAT_FETCH (R438). -/
  | vatFetch (pkg : BitVec 16) (func : Nat) (key : VatKey) (fmt : Nat)
  /-- VAT_ABORT (R439). -/
  | vatAbort (pkg : BitVec 16) (func : Nat) (key : VatKey)
  /-- VAT_ABORT_EXPIRY (R435). -/
  | vatAbortExpiry (i : Nat)
  /-- CONTRIB_RETRY (R436). -/
  | contribRetry (die slot op : Nat) (res : FabRes)
  /-- CG_OP_COMPLETE (R446). -/
  | cgOpComplete (die slot op : Nat) (res : FabRes)
  /-- CG_TIMEOUT (R446). -/
  | cgTimeout (die slot op : Nat)
  /-- SENDP_SECTOR (R444). -/
  | sendpSector (ends : PodEnds) (addr : BitVec 64) (data : BitVec 512) (poison : Bool) (cbv : Bool) (cb core ctx launch : Nat)
  /-- TASK_PACKET_RECEIVE (R453). -/
  | taskPacketReceive (link : Nat) (pkg : BitVec 16) (ctx : Nat) (func : Nat) (handle : BitVec 64) (desc : BitVec 512) (args : List (BitVec 32)) (seq : Nat) (tag : BitVec 256)
  /-- TASK_PACKET_COMPLETE (R453). -/
  | taskPacketComplete (i : Nat) (code : Nat)
  /-- CORE_LOST (R307). -/
  | coreLost (core : Nat)
  /-- UNCORRECTABLE_ERROR (R332). -/
  | uncorrectableError (site : ErrSite)
  /-- ROW_REMAP (R462). -/
  | rowRemap (chan row : Nat)
  /-- GOVERNOR_STEP (R460). -/
  | governorStep (die : Nat) (power : BitVec 16)
  /-- RESET (R458): the module flash as it was programmed outside, where it was. -/
  | reset (build : Build) (image : Option (List (BitVec 8))) (cfg : CfgRecord)
  /-- RECOVERY_IMAGE_PUSH (R458). -/
  | recoveryImagePush (push : ImagePush)
  /-- ENGINE_LOAD_LANDING (R273). -/
  | engineLoadLanding (core eng : Nat)
  /-- HDM_DECODER_COMMIT (R410). -/
  | hdmDecoderCommit (hb : BitVec 64)
  /-- PEER_MEM_REQUEST (R309). -/
  | peerMemRequest (req : MemReq)
  /-- TASK_IMAGE_RECEIVE (R451). -/
  | taskImageReceive (link : Nat) (pkg : BitVec 16) (func : Nat) (image : List (BitVec 8))
  /-- DOE_REQUEST (R409). -/
  | doeRequest (req : DoeReq)
  /-- BICONFLICT (R406). -/
  | biconflict (i : Nat)
deriving DecidableEq, Repr

end Sys2Proof
end

