-- ==== Sys2Proof/Machine/State.lean ====
section
/-!
DEFINITION. Sys2Proof/Machine/State.lean: the whole state of one package as plain data (R15), its faults and refusals, and the state at reset.
Containers are sparse: an association list in rising order of key, an absent key reading as the default that its field's comment names.
-/
namespace Sys2Proof.Machine

open Sys2Proof

/-- A 57-bit program counter or guest-physical address (R95, R334). -/
abbrev W57 := BitVec 57

/-- An operand or latch value: 64 bits with a poison bit for each half (R33, R128). -/
structure Val where
  bits : W64
  plo  : Bool
  phi  : Bool
deriving DecidableEq, Repr

/-- A v register: 32 bits, its poison bit and its pending bit (R45, R95). -/
structure VReg where
  val  : W32
  psn  : Bool
  pend : Bool
deriving DecidableEq, Repr

/-- A staged register write of a run (R42). -/
inductive SWrite where
  | v (i : Nat) (x : W32) (p : Bool)
  | s (i : Nat) (x : W64)
  | p (i : Nat) (b : Bool)
  | k (i : Nat) (m : W32)
  | sp (x : W64)
deriving DecidableEq, Repr

/-- A thread's share of a run that waits at its last member: what commits when it passes (R42, R239). -/
structure Pass where
  /-- Key of the flight's shared staged writes in `Flight.heldRuns`. -/
  run    : Nat
  writes : List SWrite
  /-- The pending bits that earlier members of the run set, by lane (R116). -/
  pend   : List (Nat × SWrite)
  next   : W57
deriving DecidableEq, Repr

/-- What holds a thread (R189). -/
inductive Hold where
  | none
  | rcv (id : Nat) (mask : W32)
  | bar (id : Nat)
  | cbar (id : Nat)
  | cbWait (cb : Nat) (p : Pass)
  | cbAcq (cb : Nat) (amount : Nat) (p : Pass)
  | sleep (start count : Nat) (p : Pass)
  | monw (addr : W64) (scope : Nat) (acq wide : Bool) (cmp : W64) (limit start : Nat) (dst : Dst) (lpc : W57) (issue : Nat) (p : Pass)
  | alloc (p : Pass)
  | mxacq (pair : Bool) (p : Pass)
  | rjoin (fork : Nat) (p : Pass)
  /-- Its run has issued and commits when the last member's pending latency ends (R42, R116). -/
  | commit (id : Nat)
deriving DecidableEq, Repr

/-- The state of one thread (R95). Latches belong to the run that is in progress. -/
structure Thread where
  live      : Bool
  pc        : W57
  sp        : W64
  v         : KMap VReg
  preds     : BitVec 7
  trapcause : W32
  trapaddr  : W64
  poisontok : W32
  depth     : Nat
  hold      : Hold
  /-- Aged counter (R195) and the mark that THREAD_AGED sets. -/
  agedCount : Nat
  aged      : Bool
  /-- Clock before which the last issue's STALL asks not to issue (R38). -/
  stallTo   : Nat
  /-- Loads with acquire that have not landed: the thread's later accesses wait for them (R167). -/
  acqLoads  : Nat
  /-- The next run is the one that trap entry starts, at the vector taken then (R105, R358). -/
  entering  : Option W64
deriving DecidableEq, Repr

/-- State of a token table entry with respect to its lantern record (R353). -/
inductive Resolved where
  | open | retry | refused
deriving DecidableEq, Repr

/-- A token table entry (R100). REFS is computed from the registers that carry the token. -/
structure Tok where
  kind  : Nat
  lpc   : W57
  dest  : Nat
  lanes : W32
  lrec  : Option Nat
  res   : Resolved
  /-- The issue of the load that took it (R101). -/
  issue : Nat
deriving DecidableEq, Repr

/-- What a pending load delivers to one thread when it lands. -/
inductive LRes where
  | words (ws : List (W32 × Bool))
  | tok (k : Nat)
  /-- A failure found after issue: KIND, STAGE, MALF, virtual and guest-physical address (R101, R338, R342). -/
  | late (kind stage : Nat) (malf : Bool) (va gpa : W64)
  /-- An atomic that was refused, or whose home is unreachable, after issue (R176). -/
  | failed
deriving DecidableEq, Repr

/-- A load, LDS, LDT, LDC, CBREAD, atomic or MONW result that has been read and not landed (R45, R167). -/
structure PLoad where
  lpc   : W57
  dst   : Nat
  n     : Nat
  sup   : Bool
  /-- Scope of an acquire that takes effect at landing. -/
  acq   : Option Nat
  res   : List (Nat × LRes)
  /-- The issue of the load, by which its lanes share their tokens (R101). -/
  issue : Nat
  /-- Requests to other packages that it waits for: lane, package, virtual and guest-physical address (R430). -/
  remote : List (Nat × Nat × W64 × Nat)
deriving DecidableEq, Repr

/-- A run whose last member has a pending latency and that waits to commit (R42, R115, R116): writes of each lane, and of the flight. -/
structure PLong where
  writes  : List (Nat × List SWrite)
  fwrites : List SWrite
  /-- The pending bits that its run set, by lane. -/
  pend    : List (Nat × SWrite)
deriving DecidableEq, Repr

/-- A run in progress (R40 to R44): its threads as they stood at issue, the latches and the staged writes. -/
structure Run where
  exec    : W32
  start   : W57
  pos     : Nat
  len     : Nat
  snap    : KMap Thread
  snapS   : KMap W64
  snapK   : KMap W32
  lat     : KMap (List Val)
  staged  : KMap (List SWrite)
  fstaged : List SWrite
  /-- The pending bits that its members set, by lane (R116). -/
  pend    : List (Nat × SWrite)
  /-- The words of the members, fetched before the run issued (R40). -/
  words   : List W96
  /-- The member in progress waits for the device (CTXSAVE, CTXLOAD, PMFLIP): it goes on at a later turn of its slot (assumption 4, DESIGN CHOICE). -/
  waiting : Bool
deriving DecidableEq, Repr

/-- Execution classes (R190). -/
inductive ExClass where
  | integer | fp | special | loadStore | scratchpad | press | racking
deriving DecidableEq, Repr

/-- One flight (R187). Absent s, k and v entries read as zero. -/
structure Flight where
  ctx       : Nat
  /-- Key of its launch and linear number of its block. -/
  launch    : Nat
  block     : Nat
  idx       : Nat
  stage     : Nat
  s         : KMap W64
  sPend     : BitVec 64
  k         : KMap W32
  kPend     : BitVec 8
  threads   : KMap Thread
  allot     : Nat
  freed     : Bool
  /-- RCV arrival masks of ids 0 to 7 (R210). -/
  arrive    : KMap W32
  toks      : KMap Tok
  slot      : Nat
  /-- Cycles since its last issue in which it had a ready thread (R190), and the mark that FLIGHT_OVERDUE sets. -/
  waited    : Nat
  overdue   : Bool
  yielded   : Bool
  /-- The pc at which a flight-wide bundle waits for its threads (R198). -/
  wideAt    : Option Nat
  run       : Option Run
  heldRuns  : KMap (List SWrite)
  loads     : KMap PLoad
  longs     : KMap PLong
  /-- Next key for `heldRuns`, `loads` and `longs`. -/
  nextId    : Nat
deriving DecidableEq, Repr

/-- A scratchpad word: its value and poison bit (R225). -/
structure SpWord where
  val : W32
  psn : Bool
deriving DecidableEq, Repr

/-- A resident block at its home core (R213 to R228, R299 to R303). -/
structure Block where
  ctx      : Nat
  launch   : Nat
  sysBlock : Nat
  /-- Cores of the spread, lowest position (the home core) first. -/
  cores    : List Nat
  /-- Keys of its flights as pairs of core and key. -/
  flights  : List (Nat × Nat)
  /-- Scratchpad granted, the seed of its undefined content, whether that content is zero instead (R221), its words, and whether flights may still use it. -/
  granted  : Bool
  seed     : Nat
  zeroed   : Bool
  spad     : KMap SpWord
  spadOpen : Bool
  /-- Bytes of scratchpad still held at the home core, and register units reserved on each core by the grant. -/
  spadHeld : Nat
  reserve  : KMap Nat
  /-- BAR arrivals: id to the arrived threads, named flight index * 32 + lane (R227). -/
  bars     : KMap (List Nat)
  /-- Cluster group: key of the group and member index (R300). -/
  group    : Nat
  member   : Nat
  ended    : Bool
deriving DecidableEq, Repr

/-- A cluster group (R300, R306): its blocks as pairs of home core and block key, in order of member index from `first` on; every core that they were admitted to; and its CBAR
arrivals. A member whose block has ended and gone keeps its place. -/
structure Group where
  launch  : Nat
  first   : Nat
  members : List (Nat × Nat)
  cores   : List Nat
  cbars   : KMap (List Nat)
deriving DecidableEq, Repr

/-- A counted barrier (R230) and its queue of threads held by CBACQ: core-local flight key, lane and amount. -/
structure CBar where
  count : Int
  armed : Bool
  scope : Nat
  sat   : Bool
  queue : List (Nat × Nat × Nat)
deriving DecidableEq, Repr

/-- Type of an accumulator bank (R244). -/
inductive BankTy where
  | f32 | i32
deriving DecidableEq, Repr

/-- An accumulator bank: absent cells are zero and not poisoned. Key of cell (i, j) is 384 * i + j. -/
structure Bank where
  ty    : BankTy
  cells : KMap SpWord
deriving DecidableEq, Repr

/-- A press instruction in the queue, with its uniform operands (R253). -/
inductive PressOp where
  | mma (sparse : Bool) (bank a b : Nat) (fa fb n : Nat)
  | zero (bank : Nat) (ty : BankTy)
  | ldz (bank base pitch first count : Nat)
  | stz (bank base pitch first count ofmt : Nat) (sat : Bool)
  | stzReg (bank dst col0 row0 : Nat) (sup : Bool)
deriving DecidableEq, Repr

/-- Register values read by the press and not yet landed: the flight, first register, whether the write is suppressed, and the cells of each lane. -/
structure PressLand where
  flight : Nat
  dst    : Nat
  sup    : Bool
  vals   : List (Nat × List (W32 × Bool))
deriving DecidableEq, Repr

/-- The press of a core (R244). -/
structure Press where
  z0      : Bank
  z1      : Bank
  /-- Owner: the flight's key on this core. In a slaved odd press `slaved` is set and the owner is on the even core. -/
  owner   : Option Nat
  pair    : Bool
  slaved  : Bool
  waiting : List (Nat × Bool)
  /-- Flights whose MXACQ found the queue full, each with the pc that it waits to issue at (R245). -/
  asked   : List (Nat × W57)
  claim   : Bool
  queue   : List PressOp
  lands   : List PressLand
  /-- A release is due once the queue is empty (R247). -/
  closing : Bool
  /-- MXACQ granted but not complete: the owner waits for the odd press (R246). -/
  acquiring : Bool
deriving DecidableEq, Repr

/-- A byte that a piece writes: its offset, its value, the bits that are written (255, or one nibble of it: R276) and its poison. In a TREG it is an element: its number and
its 32-bit value. -/
structure PByte where
  pos  : Nat
  val  : Nat
  mask : Nat
  psn  : Bool
deriving DecidableEq, Repr

/-- A piece whose sources have been read and which has not landed (R278): its space, the sector's guest-physical address and class, or the home core
and key of the block whose scratchpad it writes; the bytes it counts; and what it writes. A piece that a refused read leaves without effect writes nothing (R296). -/
structure Cap where
  space : Nat
  gpa   : Nat
  cls   : Bool
  core  : Nat
  block : Nat
  count : Nat
  bytes : List PByte
deriving DecidableEq, Repr

/-- An outstanding transfer of an engine thread (R278): the instruction, its captured walkers and its progress. -/
structure Transfer where
  /-- 0 TCOPY, 1 TEXP, 2 TPACK, 3 TGATH, 4 TSCAT, 5 TREG. -/
  op      : Nat
  args    : Args
  wa      : BitVec 512
  wb      : BitVec 512
  wc      : BitVec 512
  /-- Captured scalar operand: TEXP base or TREG target. -/
  scal    : W64
  /-- Its place in the thread's order of issue. -/
  seq     : Nat
  /-- The cause that a check of the whole transfer gives at its first piece (R294). -/
  bad     : Option Nat
  /-- Pieces below `next` have been read; those of them in `flight` have not landed. -/
  next    : Nat
  flight  : KMap Cap
  /-- Indices read so far by a gather or scatter (R287, R288). -/
  rows    : List Nat
  /-- Table elements read in the current window of a gather, or the brick or block in progress of TEXP and TPACK, each with the bytes of it that are poisoned; and which
  window, brick or block. -/
  window  : KMap (List (Nat × Nat))
  winNo   : Nat
  /-- The sector that each piece still to land will write and that the transfer owns, by piece (R281). -/
  owned   : KMap Nat
  /-- Every piece has been read. -/
  done    : Bool
deriving DecidableEq, Repr

/-- Run state of an engine thread (R262, R268). -/
inductive EngRun where
  | idle
  | running
  | heldCb (cb : Nat)
  | paused (cause : Nat)
  | ended (terminal : Bool) (cause : Nat)
deriving DecidableEq, Repr

/-- An engine load whose data has not arrived: its destination and the word or descriptor (R273, R277). -/
inductive EngLoad where
  | reg (dst : Nat) (x : W64)
  | walker (dst : Nat) (x : BitVec 512)
deriving DecidableEq, Repr

/-- An engine thread (R262). -/
structure Eng where
  run    : EngRun
  gen    : Nat
  pc     : W57
  e      : KMap W64
  w      : KMap (BitVec 512)
  slots  : KMap Transfer
  ctx    : Nat
  launch : Nat
  /-- Home core and key of its block, and sys.flight of the forking flight. -/
  home   : Nat
  block  : Nat
  flight : Nat
  /-- sys.launch and the process-group table of the launch, which the thread may outlive (R269, R293, R401). -/
  sysLaunch : Nat
  pgt    : W64
  lrec   : Option Nat
  load   : Option EngLoad
deriving DecidableEq, Repr

/-- A cached sector: data, the bytes held, the dirty bytes, the poisoned words (R313, R332). -/
structure Sector where
  data  : BitVec 512
  valid : BitVec 64
  dirty : BitVec 64
  psn   : BitVec 16
  coh   : Bool
  stamp : Nat
deriving DecidableEq, Repr

/-- Who owns a sector (R281, R313): a transfer of an engine thread, a sequencer operation or vat delivery, a transfer of another package (R434). -/
inductive Owner where
  | engine (core eng slot : Nat)
  | seq (die slot op : Nat)
  | peer (pkg : Nat)
deriving DecidableEq, Repr

/-- Host state of a sector in the back-invalidation filter (R414), and of a package in the pool's filter (R433). -/
inductive HSt where
  | i | s | a
deriving DecidableEq, Repr

/-- The home of a sector: the L2's copy and its directory (R313). `host` is the host's state at the filter (R414); for a sector of another package's coherent memory it is this
package's own state there, where `a` says that it owns the sector (R433). -/
structure Home where
  copy    : Option Sector
  reg     : KMap Nat
  sharers : List Nat
  owner   : Option Owner
  host    : HSt
deriving DecidableEq, Repr

/-- A write-combining entry (R182). -/
structure Wcb where
  ctx   : Nat
  func  : Nat
  line  : Nat
  /-- The class of the page that the stores came through (R337). -/
  cls   : Bool
  mask  : BitVec 256
  data  : BitVec 2048
  start : Nat
deriving DecidableEq, Repr

/-- A cached leaf translation (R339): context, base and size of the page in bits, its target and permissions. -/
structure TlbE where
  ctx  : Nat
  va   : W64
  bits : Nat
  pa   : W57
  rd   : Bool
  wr   : Bool
  ex   : Bool
  coh  : Bool
deriving DecidableEq, Repr

/-- One core (R15, R220, R357). -/
structure Core where
  spk      : Nat
  busy     : Bool
  errc     : W64
  /-- Launch that holds the core, and the last context that used its scratchpad (R221). -/
  launch   : Option Nat
  lastCtx  : Option Nat
  /-- The scratchpad part has been zeroed and no grant has gone back since (R221). -/
  zeroed   : Bool
  flights  : KMap Flight
  blocks   : KMap Block
  nextKey  : Nat
  /-- Grant queue: home core and block keys in order of admission (R217). -/
  grantQ   : List (Nat × Nat)
  cbs      : KMap CBar
  press    : Press
  engs     : KMap Eng
  nextFork : Nat
  /-- Home core and key of the block that made each fork of the launch (R264, R267). -/
  forks    : KMap (Nat × Nat)
  /-- Outcome of the last fork of each engine thread is in `engs`; the rotation of R263. -/
  engTurn  : Nat
  l1       : KMap Sector
  wcb      : List Wcb
  tlb      : List TlbE
  /-- Instruction words cached by the core's instruction caches: context * 2^57 + address to word (R263, R465). -/
  icache   : KMap W32
  lost     : Bool
  /-- Idle time of the execution classes: clock of the last issue of each class by each slot (R190). -/
  lastClass : KMap Nat
deriving DecidableEq, Repr

/-- Context states (R377). -/
inductive CtxSt where
  | free | idle | resident | halted | saved
deriving DecidableEq, Repr

/-- A context: its registers and its standing (R357, R377, R379, R385). -/
structure Ctx where
  st       : CtxSt
  func     : Nat
  hbase    : W64
  hlimit   : W64
  hoffset  : W64
  tvec     : W64
  lbase    : W64
  ptroot   : W64
  lsize    : Nat
  lhead    : Nat
  ltail    : Nat
  saveCnt  : Nat
  loadable : Bool
  /-- Generation of the image key: a new key at each open (R375). -/
  key      : Nat
  cause    : Nat
  heldCause : Option (Nat × W64)
  /-- Launches dispatched so far, for sys.launch (R394). -/
  launches : Nat
  /-- Core and flight whose CTXSAVE or CTXLOAD of the context is in progress, and the cores that CTXLOAD waits for. -/
  saving   : Option (Nat × Nat)
  claims   : List Nat
deriving DecidableEq, Repr

/-- An extent table entry as installed (R341), with its key identifier. -/
structure Extent where
  rd    : Bool
  wr    : Bool
  coh   : Bool
  tgt   : Nat
  gbase : Nat
  len   : Nat
  pbase : Nat
  keyId : Nat
  pkg   : Nat
  /-- Which of the keys that the controller has ever generated stands under the identifier (R345, R346). -/
  key   : Nat
deriving DecidableEq, Repr

/-- A virtual function (R371, R372, R374, R381). -/
structure Vf where
  part   : Option Nat
  en     : Bool
  ways   : W32
  lqsel  : Nat
  lqerr  : Bool
deriving DecidableEq, Repr

/-- A mailbox (R370): its argument words, its last result, and the command in progress, which keeps BUSY set: its code, index and argument. -/
structure Mailbox where
  result : Nat
  arg    : BitVec 512
  code   : Nat
  index  : Nat
  pending : Option (Nat × Nat × BitVec 512)
deriving DecidableEq, Repr

/-- An event ring (R381): base, size, next ESEQ, held records and the loss mark. -/
structure Ring where
  func   : Nat
  base   : Nat
  size   : Nat
  eseq   : Nat
  held   : List (BitVec 128)
  loss   : Bool
  broken : Bool
deriving DecidableEq, Repr

/-- Node states (R395). -/
inductive NodeSt where
  | waiting | ready | running
deriving DecidableEq, Repr

/-- A posted node (R393, R403): its record, its captured descriptor, its share of the grid. -/
structure Node where
  recd   : BitVec 2048
  desc   : BitVec 512
  st     : NodeSt
  nc     : Nat
  r      : Nat
  order  : Nat
  launch : Option Nat
deriving DecidableEq, Repr

/-- A partition (R368, R395): its descriptor, node table, counts, slice and root program. -/
structure Part where
  desc    : BitVec 512
  nodes   : KMap Node
  counts  : KMap Int
  serving : Nat
  rootUp  : Bool
  /-- Clock at which the present slice began (R382). -/
  since   : Nat
  /-- Code handles that the steward registered for a kernel descriptor (R454). -/
  handles : KMap W64
  /-- Firmware found ROOT's descriptor invalid: the partition runs nothing until PART_SET (R68). -/
  badRoot : Bool
deriving DecidableEq, Repr

/-- A live launch (R394, R399, R401). -/
structure Launch where
  ctx      : Nat
  id       : Nat
  node     : Option (Nat × Nat)
  desc     : BitVec 512
  grid     : Nat × Nat × Nat
  stackSz  : Nat
  stackBase : W64
  cbank    : KMap W32
  /-- The held copy of the constant bank was lost and has not been read again (R394). -/
  bankBad  : Bool
  pgt      : W64
  spread   : Nat
  group    : Nat
  solo     : Bool
  pair     : Bool
  spkReq   : Nat
  next     : Nat
  stop     : Nat
  live     : Nat
  cores    : List Nat
  prio     : Nat
  homeDie  : Nat
  /-- Index of the task packet it runs, on a pool package (R453). -/
  packet   : Option Nat
deriving DecidableEq, Repr

/-- A chunk-graph operation's place in its run (R446). A contribution that got a NACK is `retrying` (R436); sectors below `n` of a FETCHV or SENDP have landed. -/
inductive OpSt where
  | waiting | started | retrying | completed | failed
  | landing (n : Nat)
deriving DecidableEq, Repr

/-- A run of a chunk graph (R446, R450). -/
structure CgRun where
  bases  : List W64
  coll   : W32
  core   : Nat
  /-- sys.launch of the launch, for the arrivals of R234. -/
  launch : Nat
  /-- GEN and the healthy pool members of the table as CGRUN read it (R445). -/
  gen    : Nat
  pools  : List Nat
  /-- The address of that table, which gives the routes of the run's traffic (R401, R444). -/
  pgt    : W64
  cnts   : KMap Int
  sts    : KMap OpSt
  /-- Clock at which an operation started or last sent its contribution. -/
  began  : KMap Nat
  /-- The values of a contribution that has been sent, or of a fetch that has been answered. -/
  sent   : KMap (List (BitVec 32))
  status : Option (Nat × Nat × BitVec 16)
  stopping : Bool
  /-- The ABORTs of a stop have been sent (R442). -/
  aborted : Bool
deriving DecidableEq, Repr

/-- A loaded chunk graph (R442, R443). -/
structure Graph where
  ctx  : Nat
  gen  : Nat
  hdr  : BitVec 512
  ops  : List (BitVec 256)
  run  : Option CgRun
deriving DecidableEq, Repr

/-- A port of a die (R425, R429). -/
structure Port where
  up     : Bool
  viral  : Bool
  lost   : Bool
  ide    : Bool
  spares : Nat
  slow   : Bool
  peer   : BitVec 16
  /-- HREFUSED and POISONRX of a host port, TMOCNT of a fabric port. -/
  c1     : Nat
  c2     : Nat
  retrain : Bool
deriving DecidableEq, Repr

/-- One die (R357, R442, R461, R464). -/
structure Die where
  errc    : W64
  retire  : BitVec 34
  map0    : Option Nat
  map1    : Option Nat
  hostPort : Option Port
  fports  : KMap Port
  graphs  : KMap Graph
  nextGen : Nat
deriving DecidableEq, Repr

/-- The power governor (R460, R461). -/
structure Gov where
  freq  : Nat
  fmin  : Nat
  pwr   : Nat
  plim  : Nat
  throt : Bool
deriving DecidableEq, Repr

/-- A page mode table entry (R411). -/
structure PageMode where
  mode : Nat
  func : Nat
  gpn  : Nat
deriving DecidableEq, Repr

/-- A back-invalidation snoop without its answer (R414): invalidating or data, of which sector of which function. -/
structure Snoop where
  inv   : Bool
  func  : Nat
  sec   : Nat
  addr  : Nat
  start : Nat
  /-- The package that it goes to, from a pool package's snoop filter (R433); none for the host. -/
  pkg   : Option Nat
deriving DecidableEq, Repr

/-- Evictions of the coherence agent (R406, R419). -/
inductive EvictReq where
  | dirtyEvict | cleanEvict | cleanEvictNoData
deriving DecidableEq, Repr

/-- CXL.cache requests of the coherence agent (R419). -/
inductive CacheReq where
  | rdShared | rdCurr | rdOwn | rdOwnNoData
deriving DecidableEq, Repr

/-- A host line held by the coherence agent for one function (R419): shared or exclusive, and a current value delivered by RdCurr. -/
structure HostLine where
  func : Nat
  gsec : Nat
  excl : Bool
  curr : Option (BitVec 512 × Bool)
deriving DecidableEq, Repr

/-- A request of the coherence agent to the host that is outstanding (R419, R423): what it asks of which sector of which function, the host address, the host port that
carries it, and the flight or engine thread whose access waits for it. `failed` marks one whose port went viral. -/
structure CReq where
  r      : CacheReq
  func   : Nat
  sec    : Nat
  addr   : Nat
  port   : Nat
  ctx    : Nat
  core   : Nat
  fid    : Nat
  engine : Bool
  failed : Bool
  /-- It went out to the host; otherwise it waits for the answer to another agent's request for the line. -/
  sent   : Bool
deriving DecidableEq, Repr

/-- A page flip in progress (R417, R418): the flight that executes it, the page, its function and guest page, the direction, the next sector and whether a snoop went
unanswered. -/
structure Flip where
  core : Nat
  fid  : Nat
  page : Nat
  func : Nat
  gpn  : Nat
  toDev : Bool
  next : Nat
  link : Bool
deriving DecidableEq, Repr

/-- States of a vat (R435). -/
inductive VatSt where
  | filling | full | aborted
deriving DecidableEq, Repr

/-- An allocated vat (R435): FREE vats are absent. Elements are slots of R86. -/
structure Vat where
  func  : Nat
  key   : VatKey
  st    : VatSt
  ncon  : Nat
  nfet  : Nat
  fmt   : Nat
  count : Nat
  got   : Nat
  fetched : Nat
  elems : KMap (BitVec 384)
  since : Nat
deriving DecidableEq, Repr

/-- A contribution that waits for the allocator of vats until its cycle ends (R436): its port, sender and contents. -/
structure VatReq where
  port  : Nat
  pkg   : BitVec 16
  func  : Nat
  key   : VatKey
  fmt   : Nat
  ncon  : Nat
  nfet  : Nat
  count : Nat
  vals  : List W32
deriving DecidableEq, Repr

/-- A code slot of a pool package (R451). -/
structure CodeSlot where
  gen   : Nat
  func  : Nat
  hash  : Nat
  image : List (BitVec 8)
deriving DecidableEq, Repr

/-- A code handle that a pool package holds for a function of this package (R451), with the hash of the image where it was registered here. -/
structure CodeRef where
  pkg    : Nat
  func   : Nat
  hash   : Option Nat
  handle : W64
deriving DecidableEq, Repr

/-- A request of another package that this one holds at a home, and the clock of its arrival or of the last notice of it (R430). -/
structure HeldReq where
  req   : MemReq
  since : Nat
deriving DecidableEq, Repr

/-- A task packet (R453): at a pool package one that it runs, at a compute package one that it has sent. -/
structure Packet where
  pkg    : BitVec 16
  sctx   : Nat
  func   : Nat
  link   : Nat
  desc   : BitVec 512
  launch : Option Nat
  ctx    : Nat
  /-- The node that a compute package shipped as this packet, by partition and id (R454). -/
  node   : Option (Nat × Nat)
  /-- It was sent from here; otherwise it runs here. -/
  sent   : Bool
  /-- The pool package was lost first: the sending port writes the LOST completion. -/
  lost   : Bool
deriving DecidableEq, Repr

/-- An arrival held for a saved-out context (R234). -/
structure Arrival where
  core   : Nat
  cb     : Nat
  ctx    : Nat
  launch : Nat
  amount : Int
deriving DecidableEq, Repr

/-- A failure after issue that waits to be reported (R169, R176): the context, core, flight index and the record's fields. -/
structure Failure where
  ctx    : Nat
  core   : Nat
  flight : Nat
  lost   : Bool
  stage  : Nat
  kind   : Nat
  va     : W64
  gpa    : W64
  wrt    : Bool
deriving DecidableEq, Repr

/-- What the saved image of one core holds (R385). -/
structure SavedCore where
  core    : Nat
  spk     : Nat
  launch  : Option Nat
  flights : KMap Flight
  blocks  : KMap Block
  nextKey : Nat
  grantQ  : List (Nat × Nat)
  cbs     : KMap CBar
  press   : Press
  engs    : KMap Eng
  nextFork : Nat
  /-- Home core and key of the block that made each fork of the launch (R264, R267). -/
  forks    : KMap (Nat × Nat)
deriving DecidableEq, Repr

/-- A save image that the device has issued: whose key it was made under, its authenticated bytes and what it restores.
The encryption is taken as ideal: only an image issued under the same key, unchanged, authenticates (assumption 10, DESIGN CHOICE). -/
structure Image where
  ctx    : Nat
  key    : Nat
  bytes  : List (BitVec 8)
  cores  : List SavedCore
  groups : KMap Group
deriving DecidableEq, Repr

/-- A message that leaves the package: answers to the host and other packages, requests, signals (R409, R412, R419, R430, R444, R453). -/
inductive Msg where
  | hostData (addr : W64) (data : BitVec 512) (poison : Bool)
  | hostDone (addr : W64)
  | bisnp (inv : Bool) (addr : Nat)
  | biConflictAck (addr : Nat)
  | cacheReq (r : CacheReq) (addr : Nat)
  | evict (r : EvictReq) (addr : Nat) (data : BitVec 512) (poison : Bool)
  | snpData (addr : W64) (data : BitVec 512) (mask : BitVec 64) (poison : Bool)
  | msix (func : Nat)
  | machineCheck (code : Nat)
  | holdNotice (i : Nat)
  | viral (port : Nat)
  | doe (tag : Nat) (data : List (BitVec 8))
  | remoteWrite (pkg : Nat) (addr : Nat) (data : BitVec 512) (mask : BitVec 64) (poison : Bool)
  /-- A request to a package that homes a sector: its ownership, or the end of it (R433, R434). -/
  | memReq (pkg : Nat) (kind : ReqKind) (addr : Nat)
  /-- A request that the crossbar passes on to the port of its destination, as it came (R428): of memory, or a sector of a SENDP. -/
  | forward (port : PortRef) (req : MemReq)
  | forwardSector (port : PortRef) (src dst : BitVec 16) (addr : W64) (data : BitVec 512) (poison cbv : Bool) (cb core ctx launch : Nat)
  | memData (pkg : BitVec 16) (addr : W64) (data : BitVec 512) (poison : Bool)
  | memAck (pkg : BitVec 16) (addr : W64) (ok : Bool)
  | contrib (pkg : BitVec 16) (func : Nat) (key : VatKey) (fmt ncon nfet count : Nat) (vals : List W32)
  | fetch (pkg : BitVec 16) (func : Nat) (key : VatKey) (fmt : Nat)
  | abort (pkg : BitVec 16) (func : Nat) (key : VatKey)
  | vatAnswer (pkg : BitVec 16) (r : FabRes)
  | sendp (pkg : Nat) (addr : Nat) (data : BitVec 512) (poison : Bool) (cbv : Bool) (cb core : Nat)
  | image (pkg : BitVec 16) (bytes : List (BitVec 8))
  | imageAnswer (pkg : BitVec 16) (status : W64)
  | packet (handle : W64) (desc : BitVec 512) (args : List W32) (seq : Nat) (tag : BitVec 256)
  /-- The answer to an arrival from outside the core (R234). -/
  | arrivalAck (core cb ctx launch : Nat) (ok : Bool)
  | capacity (func index tag : Nat) (ok : Bool)
  | packetDone (pkg : BitVec 16) (ctx : Nat) (addr val : W64) (cbv : Bool) (cb core : Nat) (amount : W32)
deriving DecidableEq, Repr

/-- What waits for the answer to a request: a lane of a load; a write, with the address, bytes, mask and poison that it replaced; an operation of a chunk graph. -/
inductive ReqOf where
  | load (load lane : Nat)
  | write (at_ : Nat) (old : BitVec 512) (mask : BitVec 64) (psn : Bool)
  | op (die slot op : Nat)
deriving DecidableEq, Repr

def ReqOf.isWrite : ReqOf → Bool
  | .write _ _ _ _ => true
  | _ => false

/-- A request to another package that is outstanding (R423, R430): its destination, the package at the other end of the link that it left on, and who made it. -/
structure Request where
  pkg   : Nat
  via   : Nat
  port  : PortRef
  ctx   : Nat
  since : Nat
  core  : Nat
  fid   : Nat
  va    : W64
  gpa   : Nat
  what  : ReqOf
deriving DecidableEq, Repr

/-- Whether a request is of a pending load of its flight. -/
def Request.isLoad (q : Request) (id : Nat) : Bool := match q.what with
  | .load j _ => j == id
  | _ => false

/-- One turn: which agent acts next. The host's interface and the unpromised interleaving of agents are this list (assumption 2, DESIGN CHOICE). -/
inductive Turn where
  | issue (core slot : Nat)
  | engine (core eng : Nat)
  | event (e : Instr)
  | tick (n : Nat)
  | evictL1 (core : Nat) (key : Nat)
  | evictL2 (key : Nat)
  /-- The back-invalidation filter, or a pool package's snoop filter, needs the entry of a sector (R414, R433). -/
  | evictFilter (key : Nat)
  /-- The answer to an outstanding write arrives (R322, R430). -/
  | ack (i : Nat)
  | fabricStore (pkg : Nat) (addr : Nat) (bytes : List (BitVec 8))
  /-- The pool package's hypervisor binds a package and function to a pool-side function, or trusts a public key's hash for one (R427, R451). -/
  | bind (pkg : BitVec 16) (func poolFunc : Nat)
  | trust (poolFunc hash : Nat)
  /-- Another package releases a range of its memory, or grants it again (R432). -/
  | fabricRange (pkg addr len : Nat) (granted : Bool)
  /-- A pool package registers a code handle for a function of this package on behalf of another, or frees one (R451). -/
  | codeSlot (pkg func : Nat) (handle : W64) (on : Bool)
  /-- The bounds of a dynamic capacity region of a logical device (R431). -/
  | dcRegion (func n base len : Nat)
deriving DecidableEq, Repr, Inhabited

/-- Whose instruction executes: flight `fid` or engine thread `fid` of core `core`. -/
structure Cursor where
  core   : Nat
  fid    : Nat
  engine : Bool
deriving DecidableEq, Repr

/-- The state of the package. -/
structure State where
  build    : Build
  /-- A step of the boot of R458 has failed: only CXL.io answers. -/
  recovery : Bool
  booted   : Bool
  flash    : List (BitVec 8)
  /-- The signed configuration record (R459). -/
  cfg      : List (BitVec 8)
  clock    : Nat
  cores    : KMap Core
  groups   : KMap Group
  nextGroup : Nat
  dies     : KMap Die
  gov      : Gov
  /-- L2 homes, keyed function * 2^51 + sector of the guest-physical address. -/
  l2       : KMap Home
  /-- The way of each line that the L2 holds, keyed function * 2^49 + line of the guest-physical address (R310, R312). -/
  l2Ways   : KMap Nat
  /-- Device memory by device-physical address, canonical: rising, no zero byte. -/
  mem      : List Host.Cell
  /-- Memory of other packages by package * 2^64 + address, canonical. -/
  fab      : List Host.Cell
  /-- Sectors written since their grant, with the key that enciphered them: the others are fresh (R345, R347). -/
  written  : KMap Nat
  /-- Poisoned sectors of device memory (R348). -/
  memPsn   : List Nat
  fabPsn   : List Nat
  /-- Remapped rows of each channel: channel * 2^32 + row (R462). -/
  remap    : List Nat
  ctxs     : KMap Ctx
  vfs      : KMap Vf
  exts     : KMap Extent
  /-- Extents that are being removed: new accesses to them are held at their homes (R343, R432). Keys are those of `exts`. -/
  leaving  : List Nat
  /-- Ranges of a pool package's own functions that have been released: function, guest-physical base and bytes (R432, R457). -/
  released : List (Nat × Nat × Nat)
  keyFree  : Nat
  keyUsed  : List Nat
  parts    : KMap Part
  rings    : KMap Ring
  mail     : KMap Mailbox
  launches : KMap Launch
  nextLaunch : Nat
  nextOrder : Nat
  nextKeyGen : Nat
  images   : List Image
  failures : List Failure
  arrivals : List Arrival
  /-- Host attachment (R410 to R425): HDMSIZE, the committed decoder base, page modes, snoops, host lines. -/
  hdmSize  : Nat
  hb       : Option W64
  pages    : KMap PageMode
  snoops   : List Snoop
  lines    : KMap HostLine
  creqs    : List CReq
  flips    : List Flip
  reqs     : List Request
  /-- Requests of other packages that wait at a home here (R430). -/
  heldReqs : List HeldReq
  /-- Ranges that other packages have released: package, address and bytes (R432). -/
  gone     : List (Nat × Nat × Nat)
  /-- The route to each peer that the agent at work has read from its process-group table in this turn (R401): a pool member, or none healthy. -/
  via      : KMap (Option Nat)
  lostPkgs : List Nat
  /-- This package's identity in the pod (R24). -/
  ident    : BitVec 16
  /-- The device identity key, which firmware derives from the PUF (R458). -/
  idKey    : Option Nat
  /-- Pool package (R427 to R453): bindings of package and function to a pool-side function, its snoop filter, vats, code slots. -/
  binds    : List ((BitVec 16 × Nat) × Nat)
  pfilter  : KMap (List (Nat × HSt))
  vats     : KMap Vat
  /-- The rotating port pointer q of R436, and the contributions of this cycle that ask for a vat. -/
  vatPort  : Nat
  vatQ     : List VatReq
  code     : KMap CodeSlot
  trusted  : List (Nat × Nat)
  codes    : List CodeRef
  packets  : KMap Packet
  /-- The contexts that a pool package keeps for sending contexts (R453): package, context and pool-side function, and the number here. -/
  pctxs    : List ((BitVec 16 × Nat × Nat) × Nat)
  /-- The memory that a pool package allots to such a context, as an extent of its function. -/
  allots   : KMap (Nat × Extent)
  /-- Tags of dynamic capacity extents (R431), keyed as extents are. -/
  tags     : KMap Nat
  /-- The dynamic capacity regions of a logical device, keyed function * 8 + region: base and bytes (R431). -/
  regions  : KMap (Nat × Nat)
  lastSeq  : KMap Nat
  sendSeq  : KMap Nat
  out      : List Msg
  turns    : List Turn
  cur      : Cursor
  /-- The model's own counter of free choices (assumption 2, DESIGN CHOICE). -/
  free     : Nat
deriving DecidableEq, Repr

/-- Reasons for which a step stops with a fault. -/
inductive Fault where
  /-- Raised by `exec` when the cursor names no resident flight or engine thread. No turn that `step` takes reaches it, so it is safe. -/
  | noAgent
deriving DecidableEq, Repr

/-- Reasons for which a step is refused. -/
inductive Refusal where
  /-- Raised by an arm of `exec` that has no meaning yet. Safe: nothing can be proved of the refused instruction. -/
  | notModelled (mnemonic : String)
deriving DecidableEq, Repr

-- ---------------------------------------------------------------------------------------------
-- Reset values

/-- A thread at block admission, before its pc and stack top are set (R95). -/
def Thread.fresh : Thread :=
  { live := true, pc := 0, sp := 0, v := .empty, preds := 0, trapcause := 0, trapaddr := 0, poisontok := 0, depth := 0,
    hold := .none, agedCount := 0, aged := false, stallTo := 0, acqLoads := 0, entering := none }

/-- A flight at admission, before its threads are set (R187). -/
def Flight.fresh : Flight :=
  { ctx := 0, launch := 0, block := 0, idx := 0, stage := 0, s := .empty, sPend := 0, k := .empty, kPend := 0, threads := .empty,
    allot := 16, freed := false, arrive := .empty, toks := .empty, slot := 0, waited := 0, overdue := false, yielded := false, wideAt := none,
    run := none, heldRuns := .empty, loads := .empty, longs := .empty, nextId := 0 }

/-- A counted barrier at reset (R230): SCOPE is .bk. -/
def CBar.reset : CBar := ⟨0, false, 2, false, []⟩

/-- An accumulator bank as a grant leaves it: F32 +0 without poison (R245). -/
def Bank.cleared : Bank := ⟨.f32, .empty⟩

/-- A press without owner (R244). -/
def Press.reset : Press :=
  { z0 := .cleared, z1 := .cleared, owner := none, pair := false, slaved := false, waiting := [], asked := [], claim := false, queue := [],
    lands := [], closing := false, acquiring := false }

/-- An engine thread that has never been forked (R262). -/
def Eng.reset : Eng :=
  { run := .idle, gen := 0, pc := 0, e := .empty, w := .empty, slots := .empty, ctx := 0, launch := 0, home := 0, block := 0,
    flight := 0, sysLaunch := 0, pgt := 0, lrec := none, load := none }

/-- A core at reset (R220, R357): no scratchpad, nothing resident. -/
def Core.reset : Core :=
  { spk := 0, busy := false, errc := 0, launch := none, lastCtx := none, zeroed := false, flights := .empty, blocks := .empty, nextKey := 0,
    grantQ := [], cbs := .empty, press := .reset, engs := .empty, nextFork := 0, forks := .empty, engTurn := 0, l1 := .empty, wcb := [], tlb := [],
    icache := .empty, lost := false, lastClass := .empty }

/-- A home with nothing cached (R313). -/
def Home.reset : Home := { copy := none, reg := .empty, sharers := [], owner := none, host := .i }

/-- A context number at reset (R357, R367): tenant numbers are FREE, those of firmware and the stewards IDLE. -/
def Ctx.reset (c : Nat) : Ctx :=
  { st := if c ≤ 20 then .idle else .free, func := 128, hbase := 0, hlimit := 0, hoffset := 0, tvec := 0, lbase := 0, ptroot := 0,
    lsize := 4, lhead := 0, ltail := 0, saveCnt := 0, loadable := false, key := 0, cause := 0, heldCause := none, launches := 0,
    saving := none, claims := [] }

/-- A virtual function at reset: mapped to no partition, disabled (R371, R372). -/
def Vf.reset : Vf := ⟨none, false, 0, 0, false⟩

/-- A mailbox at reset (R370). -/
def Mailbox.reset : Mailbox := ⟨0, 0, 0, 0, none⟩

/-- A partition at reset: off, STEWFN 128, every other field zero (R368). -/
def Part.reset : Part :=
  { desc := 128#512 <<< 256, nodes := .empty, counts := .empty, serving := 0, rootUp := false, since := 0, handles := .empty, badRoot := false }

/-- An event ring at reset: size 0, not written (R381). -/
def Ring.reset : Ring := ⟨128, 0, 0, 0, [], false, false⟩

/-- A port at reset: not trained (R425, R429). -/
def Port.reset : Port := ⟨false, false, false, false, 0, false, 0, 0, 0, false⟩

/-- Die d at reset (R24, R357): dies 0 and 1 have a host port in the GZ-C build. -/
def Die.reset (d : Nat) : Die :=
  { errc := 0, retire := 0, map0 := none, map1 := none, hostPort := if d < 2 then some Port.reset else none, fports := .empty,
    graphs := .empty, nextGen := 0 }

/-- The governor at reset (R461). -/
def Gov.reset : Gov := ⟨36, 12, 0, 4600, false⟩

/-- The package at power-on, before the boot of R458 that the event RESET performs (assumption 13, DESIGN CHOICE). -/
def State.reset : State :=
  { build := .gzC, recovery := false, booted := false, flash := [], cfg := [], clock := 0, cores := .empty, groups := .empty, nextGroup := 0,
    dies := .empty, gov := .reset, l2 := .empty, l2Ways := .empty, mem := [], fab := [], written := .empty, memPsn := [], fabPsn := [], remap := [],
    ctxs := .empty, vfs := .empty, exts := .empty, leaving := [], released := [], keyFree := 2048, keyUsed := [], parts := .empty, rings := .empty, mail := .empty,
    launches := .empty, nextLaunch := 0, nextOrder := 0, nextKeyGen := 1, images := [], failures := [], arrivals := [],
    hdmSize := 0, hb := none, pages := .empty, snoops := [], lines := .empty, creqs := [], flips := [], reqs := [], heldReqs := [], gone := [], via := .empty, lostPkgs := [],
    ident := 0, idKey := none, binds := [], pfilter := .empty, vats := .empty, vatPort := 0, vatQ := [], code := .empty, trusted := [], codes := [], packets := .empty, pctxs := [], allots := .empty, tags := .empty, regions := .empty,
    lastSeq := .empty, sendSeq := .empty, out := [], turns := [], cur := ⟨0, 0, false⟩, free := 0 }

end Sys2Proof.Machine
end

