-- ==== Sys2Proof/Config.lean ====
section
/-!
DEFINITION. Sys2Proof/Config.lean: what the spec leaves to the device or leaves open. Each is an opaque constant with no body, so a
statement that holds of the model holds for every value of it.
-/
namespace Sys2Proof.Config

/-- The free choices of R13, "unpromised" orders and undefined values: one number for each value of the counter
`State.free` (assumption 2, DESIGN CHOICE). -/
opaque freeNat : Nat → Nat

/-- The unpublished bits of a special function within its bound (R136): function and input pattern (assumption 9, DEDUCED). -/
opaque freeSpecial : Nat → Nat → Nat

/-- The content of scratchpad that nothing has written since its grant (R219, R224): grant number and word
(assumption 8, DEDUCED). -/
opaque freeSpad : Nat → Nat → BitVec 32

/-- The bits of a poisoned accumulator cell, which R255 leaves unspecified: choice and cell (assumption 19, DEDUCED). -/
opaque freeCell : Nat → Nat → BitVec 32

/-- The ciphertext and tag of save images (R386): image and byte (assumption 10, DESIGN CHOICE). -/
opaque freeCipher : Nat → Nat → BitVec 8

/-- KMAC256 under the session key of a link (R453): link and the fields in order (assumption 11, DESIGN CHOICE). -/
opaque kmac : Nat → List Nat → BitVec 256

/-- The hash of a measurement (R458) and SHAKE256 of a public key or image (R451): the bytes in order (assumption 11, DESIGN CHOICE). -/
opaque digest : List Nat → BitVec 256

/-- XMSS-SHAKE_20_256 (R451, R458): whether a signature over bytes verifies under a public key (assumption 11, DESIGN CHOICE). -/
opaque xmssOk : List Nat → List Nat → List Nat → Bool

/-- Whether the boot ROM accepts a firmware image, and the boot firmware a configuration record (R458): the layout of both is not the spec's (assumption 11, DESIGN CHOICE). -/
opaque imageOk : List Nat → Bool
opaque recordOk : List Nat → Bool

/-- The device identity key that firmware derives from the PUF (R458). -/
opaque pufKey : Nat

/-- What a sector enciphered under one key reads as under another (R345): sector, its key and the reader's (assumption 85, DEDUCED). -/
opaque otherKey : Nat → Nat → Nat → BitVec 512

/-- The set of the L2 that a line takes in its slice (R310): the hash is not published (assumption 83, DESIGN CHOICE). -/
opaque l2Set : Nat → Nat

/-- The turn that comes when the list of turns is empty: any agent may act, any event may come (assumption 2, DESIGN CHOICE). -/
opaque freeTurn : Nat → Machine.Turn

end Sys2Proof.Config
end

