-- ==== Sys2Proof/Machine/NumFmt.lean ====
section
/-!
DEFINITION. Sys2Proof/Machine/NumFmt.lean: number formats and rounding (R72 to R94). Patterns are natural numbers
below 2^64; exact values are signed multiples of powers of two, so every rounding is exact integer arithmetic.
-/
namespace Sys2Proof

/-- A floating-point format of R72: field widths, bias, and how its top exponent is used. -/
structure Fmt where
  ebits : Nat
  fbits : Nat
  bias  : Nat
  /-- Whether an all-ones exponent encodes infinities and NaNs. -/
  ieee  : Bool
  /-- The magnitude pattern of the largest finite value. -/
  maxMag : Nat
  /-- The canonical NaN, zero for F4 (R72, R77). -/
  cnan  : Nat
deriving DecidableEq, Repr, Inhabited

def fmtF64  : Fmt := ⟨11, 52, 1023, true, 0x7FEFFFFFFFFFFFFF, 0x7FF8000000000000⟩
def fmtF32  : Fmt := ⟨8, 23, 127, true, 0x7F7FFFFF, 0x7FC00000⟩
def fmtF16  : Fmt := ⟨5, 10, 15, true, 0x7BFF, 0x7E00⟩
def fmtBF16 : Fmt := ⟨8, 7, 127, true, 0x7F7F, 0x7FC0⟩
def fmtF8E4 : Fmt := ⟨4, 3, 7, false, 0x7E, 0x7F⟩
def fmtF8E5 : Fmt := ⟨5, 2, 15, true, 0x7B, 0x7E⟩
def fmtF4   : Fmt := ⟨2, 1, 1, false, 0x7, 0x0⟩

/-- The format of a floating-point type; other types take F32, which no caller asks for. -/
def Ty.fmt : Ty → Fmt
  | .f64 => fmtF64 | .f16 => fmtF16 | .bf16 => fmtBF16 | .f8e4 => fmtF8E4 | .f8e5 => fmtF8E5
  | .f4 => fmtF4 | _ => fmtF32

/-- The width of a format in bits. -/
def Fmt.width (f : Fmt) : Nat := 1 + f.ebits + f.fbits

/-- The bit above the magnitude: the sign. -/
def Fmt.signBit (f : Fmt) : Nat := 2 ^ (f.ebits + f.fbits)

/-- The exponent of the smallest subnormal. -/
def Fmt.emin (f : Fmt) : Int := 1 - (f.bias : Int) - f.fbits

/-- The magnitude pattern of infinity, where the format has one. -/
def Fmt.infMag (f : Fmt) : Nat := (2 ^ f.ebits - 1) * 2 ^ f.fbits

/-- An exact value: NaN, an infinity, or (-1)^neg * m * 2^e, where m = 0 is a signed zero (R79). -/
inductive FVal where
  | nan
  | inf (neg : Bool)
  | fin (neg : Bool) (m : Nat) (e : Int)
deriving DecidableEq, Repr, Inhabited

/-- Whether a pattern of the format is a NaN (R73). -/
def Fmt.isNaN (f : Fmt) (b : Nat) : Bool :=
  let mag := b % f.signBit
  if f.ieee then decide (mag > f.infMag) else f.fbits == 3 && mag == 0x7F

/-- `value_of` of R79: the exact value of a pattern, with subnormals read as zero under ftz. -/
def valueOf (f : Fmt) (b : Nat) (ftz : Bool) : FVal :=
  let neg := decide (b / f.signBit % 2 = 1)
  let mag := b % f.signBit
  if f.isNaN b then .nan
  else if f.ieee && mag == f.infMag then .inf neg
  else
    let ex := mag / 2 ^ f.fbits
    let fr := mag % 2 ^ f.fbits
    if ex = 0 then
      if ftz then .fin neg 0 0 else .fin neg fr f.emin
    else .fin neg (2 ^ f.fbits + fr) (f.emin + (ex - 1 : Nat))

/-- The rounding modes of R75. -/
inductive Rnd where
  | rne | rz | rd | ru
deriving DecidableEq, Repr, Inhabited

/-- The mode of MOD[72:71] (R37). -/
def Rnd.ofZ (z : BitVec 3) : Rnd :=
  match (z.extractLsb' 1 2).toNat with
  | 0 => .rne | 1 => .rz | 2 => .rd | _ => .ru

/-- `encode` with a sign: the pattern of a magnitude. -/
def Fmt.pat (f : Fmt) (neg : Bool) (mag : Nat) : Nat := (if neg then f.signBit else 0) + mag

/-- `overflow_result` of R79. An infinite source under .SAT gives max in every format, as this pseudocode has it; the prose of R77 names the infinity for F8E5 (assumption 91,
DEDUCED). -/
def overflowResult (f : Fmt) (neg : Bool) (m : Rnd) (sat infinite : Bool) : Nat :=
  let big := infinite || m == .rne || (m == .ru && !neg) || (m == .rd && neg)
  if sat || !big || (!f.ieee && f.fbits == 1) then f.pat neg f.maxMag
  else if !f.ieee then f.cnan
  else f.pat neg f.infMag

/-- Round m * 2^d (or, with `sticky`, a value strictly between m * 2^d and (m + 1) * 2^d) to a multiple of 2^k more,
in units of 2^(d + k): the shift of a significand by k bits under a mode. -/
def roundShift (m k : Nat) (sticky : Bool) (mode : Rnd) (neg : Bool) : Nat :=
  let q := m / 2 ^ k
  let r := m % 2 ^ k
  let inexact := sticky || decide (r ≠ 0)
  let up : Bool :=
    match mode with
    | .rz => false
    | .rd => neg && inexact
    | .ru => !neg && inexact
    | .rne =>
      if k = 0 then false
      else
        let h := 2 ^ (k - 1)
        decide (r > h) || (r == h && (sticky || q % 2 == 1))
  if up then q + 1 else q

/-- The magnitude pattern of a rounded nonzero value, exponent unbounded above (`round_to_grid` of R79).
With `sticky` the value lies strictly above m * 2^e and below (m + 1) * 2^e, and m has more bits than the format. -/
def roundMag (f : Fmt) (m : Nat) (e : Int) (sticky : Bool) (mode : Rnd) (neg : Bool) : Nat :=
  let top : Int := (Nat.log2 m : Int) + e
  let q : Int := max (top - f.fbits) f.emin
  let y := if q ≤ e then m * 2 ^ (e - q).toNat else roundShift m (q - e).toNat sticky mode neg
  (q - f.emin).toNat * 2 ^ f.fbits + y

/-- `round_mode` of R79 for a value that may carry a sticky part below its last bit. -/
def roundModeS (f : Fmt) (x : FVal) (sticky : Bool) (mode : Rnd) (ftz sat : Bool) : Nat :=
  match x with
  | .nan => f.cnan
  | .inf neg => overflowResult f neg mode sat true
  | .fin neg m e =>
    if m = 0 then f.pat neg 0
    else
      let mag := roundMag f m e sticky mode neg
      if mag > f.maxMag then overflowResult f neg mode sat false
      else if ftz && decide (mag < 2 ^ f.fbits) then f.pat neg 0
      else f.pat neg mag

/-- `round_mode` of R79. -/
def roundMode (f : Fmt) (x : FVal) (mode : Rnd) (ftz sat : Bool) : Nat :=
  roundModeS f x false mode ftz sat

/-- `round_rne` of R79. -/
def roundRne (f : Fmt) (x : FVal) : Nat := roundMode f x .rne false false

/-- The negation of an exact value. -/
def FVal.neg : FVal → FVal
  | .nan => .nan
  | .inf n => .inf (!n)
  | .fin n m e => .fin (!n) m e

def FVal.isNaN : FVal → Bool
  | .nan => true
  | _ => false

def FVal.isZero : FVal → Bool
  | .fin _ m _ => m == 0
  | _ => false

/-- A finite value as a signed integer in units of 2^e, for an e at or below its own. -/
def FVal.units (e0 : Int) : FVal → Int
  | .fin n m e => if n then -((m * 2 ^ (e - e0).toNat : Nat) : Int) else ((m * 2 ^ (e - e0).toNat : Nat) : Int)
  | _ => 0

/-- A signed integer in units of 2^e as an exact value; zero takes the given sign. -/
def FVal.ofUnits (n : Int) (e : Int) (zeroNeg : Bool) : FVal :=
  if n = 0 then .fin zeroNeg 0 0 else .fin (decide (n < 0)) n.natAbs e

/-- The exact sum with the zero rules of R78. -/
def FVal.add (a b : FVal) (mode : Rnd) : FVal :=
  match a, b with
  | .nan, _ => .nan
  | _, .nan => .nan
  | .inf x, .inf y => if x = y then .inf x else .nan
  | .inf x, .fin _ _ _ => .inf x
  | .fin _ _ _, .inf y => .inf y
  | .fin na ma ea, .fin nb mb eb =>
    let e0 := min ea eb
    let s := (FVal.fin na ma ea).units e0 + (FVal.fin nb mb eb).units e0
    let bothNegZero := ma == 0 && mb == 0 && na && nb
    let bothPosZero := ma == 0 && mb == 0 && !na && !nb
    FVal.ofUnits s e0 (bothNegZero || (mode == .rd && !bothPosZero))

/-- The exact product; a zero takes the exclusive-or of the signs (R78). -/
def FVal.mul (a b : FVal) : FVal :=
  match a, b with
  | .nan, _ => .nan
  | _, .nan => .nan
  | .inf x, .inf y => .inf (x != y)
  | .inf x, .fin n m _ => if m = 0 then .nan else .inf (x != n)
  | .fin n m _, .inf y => if m = 0 then .nan else .inf (n != y)
  | .fin na ma ea, .fin nb mb eb => .fin (na != nb) (ma * mb) (ea + eb)

/-- The order of two values that are not NaN, with -0 equal to +0: -1, 0 or 1. -/
def FVal.cmp (a b : FVal) : Int :=
  match a, b with
  | .inf x, .inf y => if x = y then 0 else if x then -1 else 1
  | .inf x, _ => if x then -1 else 1
  | _, .inf y => if y then 1 else -1
  | .fin na ma ea, .fin nb mb eb =>
    let e0 := min ea eb
    let d := (FVal.fin na ma ea).units e0 - (FVal.fin nb mb eb).units e0
    if d < 0 then -1 else if d = 0 then 0 else 1
  | _, _ => 0

/-- The sign of a value. -/
def FVal.isNeg : FVal → Bool
  | .inf n => n
  | .fin n _ _ => n
  | .nan => false

/-- Whether a is below b when -0 lies below +0 (R133). -/
def FVal.ltz (a b : FVal) : Bool :=
  let c := a.cmp b
  decide (c < 0) || (decide (c = 0) && a.isNeg && !b.isNeg)

/-- The integer nearest a finite magnitude m * 2^e under a mode (R75). -/
def roundIntMag (neg : Bool) (m : Nat) (e : Int) (mode : Rnd) : Nat :=
  if 0 ≤ e then m * 2 ^ e.toNat else roundShift m (-e).toNat false mode neg

-- ---------------------------------------------------------------------------------------------
-- Integers (R82, R84)

/-- The width of a type in bits. -/
def Ty.width : Ty → Nat
  | .i8 | .n8 | .f8e4 | .f8e5 | .q8 => 8
  | .i16 | .n16 | .f16 | .bf16 => 16
  | .i32 | .n32 | .b32 | .f32 => 32
  | .i64 | .n64 | .b64 | .f64 => 64
  | .f4 | .q4 => 4
  | .xa320 => 384
  | .none => 0

/-- Whether a type is two's complement (R82). -/
def Ty.signed : Ty → Bool
  | .i8 | .i16 | .i32 | .i64 => true
  | _ => false

/-- Whether the type is one of the 64-bit types. -/
def Ty.wide : Ty → Bool
  | .i64 | .n64 | .b64 | .f64 => true
  | _ => false

/-- The natural number of the low w bits of an integer. -/
def lowBits (x : Int) (w : Nat) : Nat := (x % (2 ^ w : Nat)).toNat

/-- A bit pattern of width w read as two's complement. -/
def asSigned (n w : Nat) : Int := if n < 2 ^ (w - 1) then (n : Int) else (n : Int) - (2 ^ w : Nat)

/-- A source pattern taken as a type (R82). -/
def intOf (ty : Ty) (b : W64) : Int :=
  let n := b.toNat % 2 ^ ty.width
  if ty.signed then asSigned n ty.width else (n : Int)

/-- The least value of an integer type. -/
def Ty.minInt (ty : Ty) : Int := if ty.signed then -((2 ^ (ty.width - 1) : Nat) : Int) else 0

/-- The greatest value of an integer type. -/
def Ty.maxInt (ty : Ty) : Int :=
  if ty.signed then ((2 ^ (ty.width - 1) : Nat) : Int) - 1 else ((2 ^ ty.width : Nat) : Int) - 1

/-- `wrap_int` of R84. -/
def wrapInt (x : Int) (ty : Ty) : Int :=
  if ty.signed then asSigned (lowBits x ty.width) ty.width else (lowBits x ty.width : Int)

/-- `sat_int` of R84. -/
def satInt (x : Int) (ty : Ty) : Int := min (max x ty.minInt) ty.maxInt

/-- How a result of an integer type stands in its register: extended to 32 bits for narrow types, all 64 bits for wide
ones (R82). -/
def placeInt (x : Int) (ty : Ty) : W64 := BitVec.ofNat 64 (lowBits x (if ty.wide then 64 else 32))

/-- `round_int` of R84. -/
def roundInt (x : FVal) (ty : Ty) (mode : Rnd) : Int :=
  match x with
  | .nan => 0
  | .inf false => ty.maxInt
  | .inf true => ty.minInt
  | .fin neg m e =>
    let k := roundIntMag neg m e mode
    satInt (if neg then -(k : Int) else (k : Int)) ty

-- ---------------------------------------------------------------------------------------------
-- XA320 (R85 to R90)

/-- An XA320 value (R85, R86). -/
structure XA where
  val  : Int
  nan  : Bool
  pinf : Bool
  ninf : Bool
  ovf  : Bool
  con  : Nat
deriving DecidableEq, Repr, Inhabited

/-- The reset slot (R86, R150). -/
def XA.zero : XA := ⟨0, false, false, false, false, 0⟩

/-- The slot bits [383:0] (R86). -/
def XA.toNat (a : XA) : Nat :=
  lowBits a.val 320 +
    2 ^ 320 * ((if a.nan then 1 else 0) + (if a.pinf then 2 else 0) + (if a.ninf then 4 else 0)
      + (if a.ovf then 8 else 0) + 16 * (a.con % 4))

/-- The value of slot bits; reserved bits and padding are ignored, CON 11 reads as 10 (R86). -/
def XA.ofNat (n : Nat) : XA :=
  let f := n / 2 ^ 320
  { val := asSigned (n % 2 ^ 320) 320
    nan := f % 2 == 1, pinf := f / 2 % 2 == 1, ninf := f / 4 % 2 == 1, ovf := f / 8 % 2 == 1
    con := min (f / 16 % 4) 2 }

/-- `xa_set` of R87. -/
def XA.set (a : XA) (n : Int) : XA :=
  if n > (2 ^ 319 : Nat) - 1 then { a with ovf := true, val := (2 ^ 319 : Nat) - 1 }
  else if n < -((2 ^ 319 : Nat) : Int) then { a with ovf := true, val := -((2 ^ 319 : Nat) : Int) }
  else { a with val := n }

/-- `xa_add` of R87. -/
def XA.add (a : XA) (x : FVal) : XA :=
  let a := { a with con := match x with
                           | .fin true 0 _ => max a.con 1
                           | _ => 2 }
  match x with
  | .nan => { a with nan := true }
  | .inf false => { a with pinf := true }
  | .inf true => { a with ninf := true }
  | .fin n m e => a.set (a.val + (FVal.fin n m e).units (-149))

/-- `xa_merge` of R87. -/
def XA.merge (a b : XA) : XA :=
  let r : XA := { val := 0, nan := a.nan || b.nan, pinf := a.pinf || b.pinf, ninf := a.ninf || b.ninf,
                  ovf := a.ovf || b.ovf, con := max a.con b.con }
  r.set (a.val + b.val)

/-- `xa_round` of R89. -/
def XA.round (a : XA) (f : Fmt) : Nat :=
  if a.nan || (a.pinf && a.ninf) then f.cnan
  else if a.pinf then f.pat false f.infMag
  else if a.ninf then f.pat true f.infMag
  else if a.ovf then f.pat (decide (a.val < 0)) f.infMag
  else if a.val = 0 then f.pat (a.con == 1) 0
  else roundRne f (FVal.ofUnits a.val (-149) false)

-- ---------------------------------------------------------------------------------------------
-- Press chunks (R91)

/-- One exact product of a chunk. -/
abbrev Prod := FVal

/-- `chunk_sum` of R91 over the products of one chunk. -/
def chunkSum (ps : List FVal) : FVal :=
  let pinf := ps.any (· == FVal.inf false)
  let ninf := ps.any (· == FVal.inf true)
  if ps.any FVal.isNaN || (pinf && ninf) then .nan
  else if pinf then .inf false
  else if ninf then .inf true
  else
    let nz := ps.filterMap fun p => match p with
      | .fin n m e => if m = 0 then none else some (n, m, e)
      | _ => none
    match nz with
    | [] => .fin false 0 0
    | (_, m0, e0) :: rest =>
      let top : Int := rest.foldl (fun t p => max t ((Nat.log2 p.2.1 : Int) + p.2.2)) ((Nat.log2 m0 : Int) + e0)
      let q : Int := top - 73
      let s : Int := nz.foldl (fun acc p =>
        let k : Nat := if q ≤ p.2.2 then p.2.1 * 2 ^ (p.2.2 - q).toNat else p.2.1 / 2 ^ (q - p.2.2).toNat
        if p.1 then acc - (k : Int) else acc + (k : Int)) 0
      FVal.ofUnits s q false

/-- An E8M0 scale: 2^(e - 127), or NaN for 0xFF (R80). -/
def e8m0 (e : Nat) : FVal := if e = 255 then .nan else .fin false 1 ((e : Int) - 127)

end Sys2Proof
end

