-- ==== Sys2Proof/Machine/Base.lean ====
section
/-!
DEFINITION. Sys2Proof/Machine/Base.lean: rising lists, bit and byte helpers, memory as cells, and the readers and writers of each part of the state.
-/
namespace Sys2Proof.Machine

open Sys2Proof

-- ---------------------------------------------------------------------------------------------
-- Rising lists

/-- Insert a number in a rising list, once. -/
def insertN (k : Nat) : List Nat → List Nat
  | [] => [k]
  | j :: rest => if k < j then k :: j :: rest else if j = k then j :: rest else j :: insertN k rest

/-- The numbers of a list, once each, rising. -/
def uniqN (l : List Nat) : List Nat := l.foldr insertN []

-- ---------------------------------------------------------------------------------------------
-- Bits and bytes

/-- The bits lo .. lo + n - 1 of a natural number. -/
def bitsN (x lo n : Nat) : Nat := x / 2 ^ lo % 2 ^ n

/-- Sign extension of the low n bits, as an integer. -/
def sextN (x n : Nat) : Int := asSigned (x % 2 ^ n) n

/-- A number of bytes, least significant first. -/
def bytesN (x n : Nat) : List Byte := (List.range n).map fun k => BitVec.ofNat 8 (x / 2 ^ (8 * k))

/-- The number that bytes give, least significant first (R8). -/
def numOfBytes : List Byte → Nat
  | [] => 0
  | b :: bs => b.toNat + 256 * numOfBytes bs

/-- The 512-bit mask of a byte mask: eight bits for each of its 64. -/
def expandMask (m : BitVec 64) : BitVec 512 :=
  (List.range 64).foldr (fun k acc => if m.getLsbD k then acc ||| (0xFF#512 <<< (8 * k)) else acc) 0

/-- The byte mask of n bytes from offset o. -/
def maskOf (o n : Nat) : BitVec 64 := BitVec.ofNat 64 ((2 ^ n - 1) * 2 ^ o)

/-- Old data with the bytes of a mask taken from new data. -/
def mergeBytes (old new : BitVec 512) (m : BitVec 64) : BitVec 512 :=
  if m = 0 then old else if m = BitVec.allOnes 64 then new
  else (old &&& ~~~expandMask m) ||| (new &&& expandMask m)

/-- The words (of 4 bytes) that a byte mask touches, and those it covers. -/
def wordsTouched (m : BitVec 64) : BitVec 16 :=
  (List.range 16).foldr (fun w acc => if m.extractLsb' (4 * w) 4 ≠ 0 then acc ||| (1#16 <<< w) else acc) 0
def wordsCovered (m : BitVec 64) : BitVec 16 :=
  (List.range 16).foldr (fun w acc => if m.extractLsb' (4 * w) 4 = 15 then acc ||| (1#16 <<< w) else acc) 0

/-- The byte mask of a set of words. -/
def wordMask (ws : BitVec 16) : BitVec 64 :=
  (List.range 16).foldr (fun w acc => if ws.getLsbD w then acc ||| (15#64 <<< (4 * w)) else acc) 0

/-- n bytes of a sector from offset o, as a number. -/
def secNum (d : BitVec 512) (o n : Nat) : Nat := bitsN d.toNat (8 * o) (8 * n)

/-- A sector with a number placed at offset o. -/
def numSec (x o : Nat) : BitVec 512 := BitVec.ofNat 512 (x * 2 ^ (8 * o))

/-- The number of ones of a word. -/
def popCount (x : Nat) : Nat → Nat
  | 0 => 0
  | n + 1 => x % 2 + popCount (x / 2) n

/-- The lanes of a mask, lowest first. -/
def lanesOf (m : W32) : List Nat := (List.range 32).filter fun l => m.getLsbD l

/-- One lane as a mask. -/
def laneBit (l : Nat) : W32 := 1#32 <<< l

/-- A counter of 16 bits that saturates (R359), one step up. -/
def satInc (x : Nat) : Nat := if x ≥ 0xFFFF then 0xFFFF else x + 1

/-- One field of a 64-bit counter register raised by one, saturating (R359). -/
def bumpField (r : W64) (lo : Nat) : W64 :=
  let v := bitsN r.toNat lo 16
  BitVec.ofNat 64 (r.toNat - v * 2 ^ lo + satInc v * 2 ^ lo)

-- ---------------------------------------------------------------------------------------------
-- Cells: memory in canonical form

/-- The byte at an address; an unlisted address reads as zero (assumption 6, DESIGN CHOICE). -/
def cellAt (a : Nat) : List Host.Cell → Byte
  | [] => 0
  | (b, x) :: rest => if b = a then x else cellAt a rest

/-- Write one byte: a zero removes the entry, so equal memories are equal lists. -/
def setCell (a : Nat) (x : Byte) : List Host.Cell → List Host.Cell
  | [] => if x = 0 then [] else [(a, x)]
  | (b, y) :: rest =>
    if a < b then (if x = 0 then (b, y) :: rest else (a, x) :: (b, y) :: rest)
    else if b = a then (if x = 0 then rest else (a, x) :: rest)
    else (b, y) :: setCell a x rest

/-- Write bytes in rising order from an address. -/
def setCells (a : Nat) : List Byte → List Host.Cell → List Host.Cell
  | [], m => m
  | x :: xs, m => setCells (a + 1) xs (setCell a x m)

/-- The number in n bytes from an address, least significant first (R8). -/
def cellsNum (m : List Host.Cell) (a : Nat) : Nat → Nat
  | 0 => 0
  | n + 1 => (cellAt a m).toNat + 256 * cellsNum m (a + 1) n

/-- The 64 bytes of a sector, from those cells that lie in it. -/
def cellsSector (m : List Host.Cell) (a : Nat) : BitVec 512 :=
  m.foldl (fun (acc : BitVec 512) (c : Host.Cell) =>
    if a ≤ c.1 ∧ c.1 < a + 64 then acc ||| BitVec.ofNat 512 (c.2.toNat * 2 ^ (8 * (c.1 - a))) else acc) 0

/-- Write the bytes of a mask of a sector. -/
def setSector (a : Nat) (d : BitVec 512) (m : BitVec 64) (cells : List Host.Cell) : List Host.Cell :=
  (List.range 64).foldl (fun cs k => if m.getLsbD k then setCell (a + k) (d.extractLsb' (8 * k) 8) cs else cs) cells

/-- The canonical form of memory: addresses strictly rising, no zero byte. -/
def cellsFrom : Nat → List Host.Cell → Bool
  | _, [] => true
  | b, (a, x) :: rest => decide (b ≤ a) && decide (x ≠ 0) && cellsFrom (a + 1) rest

/-- Canonical memory. -/
def Memory.wf (m : List Host.Cell) : Bool := cellsFrom 0 m

-- ---------------------------------------------------------------------------------------------
-- Parts of the state

def State.core (s : State) (c : Nat) : Core := s.cores.getD c Core.reset
def State.setCore (s : State) (c : Nat) (x : Core) : State := { s with cores := s.cores.set c x }
def State.flight? (s : State) (c f : Nat) : Option Flight := (s.core c).flights.get? f
def State.setFlight (s : State) (c f : Nat) (x : Flight) : State :=
  let k := s.core c
  s.setCore c { k with flights := k.flights.set f x }
def State.eng (s : State) (c e : Nat) : Eng := (s.core c).engs.getD e Eng.reset
def State.setEng (s : State) (c e : Nat) (x : Eng) : State :=
  let k := s.core c
  s.setCore c { k with engs := k.engs.set e x }
def State.block? (s : State) (c b : Nat) : Option Block := (s.core c).blocks.get? b
def State.setBlock (s : State) (c b : Nat) (x : Block) : State :=
  let k := s.core c
  s.setCore c { k with blocks := k.blocks.set b x }
def State.cb (s : State) (c b : Nat) : CBar := (s.core c).cbs.getD b CBar.reset
def State.setCb (s : State) (c b : Nat) (x : CBar) : State :=
  let k := s.core c
  s.setCore c { k with cbs := k.cbs.set b x }
def State.setPress (s : State) (c : Nat) (x : Press) : State :=
  let k := s.core c
  s.setCore c { k with press := x }
def State.ctx (s : State) (c : Nat) : Ctx := s.ctxs.getD c (Ctx.reset c)
def State.setCtx (s : State) (c : Nat) (x : Ctx) : State := { s with ctxs := s.ctxs.set c x }
def State.vf (s : State) (n : Nat) : Vf := s.vfs.getD n Vf.reset
def State.setVf (s : State) (n : Nat) (x : Vf) : State := { s with vfs := s.vfs.set n x }
def State.part (s : State) (n : Nat) : Part := s.parts.getD n Part.reset
def State.setPart (s : State) (n : Nat) (x : Part) : State := { s with parts := s.parts.set n x }
def State.ring (s : State) (n : Nat) : Ring := s.rings.getD n Ring.reset
def State.setRing (s : State) (n : Nat) (x : Ring) : State := { s with rings := s.rings.set n x }
def State.mailbox (s : State) (n : Nat) : Mailbox := s.mail.getD n Mailbox.reset
def State.die (s : State) (d : Nat) : Die := s.dies.getD d (Die.reset d)
def State.setDie (s : State) (d : Nat) (x : Die) : State := { s with dies := s.dies.set d x }
def State.launch? (s : State) (l : Nat) : Option Launch := s.launches.get? l
def State.emit (s : State) (m : Msg) : State := { s with out := s.out ++ [m] }

/-- A thread of a flight. -/
def Flight.thread (f : Flight) (l : Nat) : Thread := f.threads.getD l { Thread.fresh with live := false }
def Flight.setThread (f : Flight) (l : Nat) (t : Thread) : Flight := { f with threads := f.threads.set l t }

/-- The threads of a flight that have not exited. -/
def Flight.liveMask (f : Flight) : W32 :=
  f.threads.entries.foldl (fun m e => if e.2.live then m ||| laneBit e.1 else m) 0

/-- A free number below n (n at least 1), and the state with its counter advanced (assumption 2, DESIGN CHOICE). -/
def State.pick (s : State) (n : Nat) : Nat × State :=
  if n ≤ 1 then (0, s) else (Config.freeNat s.free % n, { s with free := s.free + 1 })

/-- A list in a free order (R13, R165). Fuel: its length. -/
def State.shuffle {α : Type} (s : State) : Nat → List α → List α × State
  | 0, xs => (xs, s)
  | n + 1, xs =>
    let (k, s) := s.pick xs.length
    match xs[k]? with
    | none => (xs, s)
    | some x =>
      let (rest, s) := s.shuffle n (xs.eraseIdx k)
      (x :: rest, s)

/-- Which partition a context lies in (R354): that of a steward, or of the VF that owns it. -/
def State.partOf (s : State) (c : Nat) : Option Nat :=
  if 1 ≤ c ∧ c ≤ 20 then some (c - 1)
  else if 21 ≤ c ∧ c ≤ 4095 then
    let x := s.ctx c
    if x.st = .free then none else if x.func < 128 then (s.vf x.func).part else none
  else none

/-- The function of a context; that of a steward follows its partition's STEWFN (R368). -/
def State.funcOf (s : State) (c : Nat) : Nat :=
  if 1 ≤ c ∧ c ≤ 20 then bitsN (s.part (c - 1)).desc.toNat 256 8 else if c = 0 then 128 else (s.ctx c).func

/-- Whether a core holds anything of a context. -/
def State.resident (s : State) (c : Nat) : Bool :=
  s.cores.entries.any fun e =>
    e.2.flights.entries.any (fun f => f.2.ctx == c) || e.2.blocks.entries.any (fun b => b.2.ctx == c)
      || e.2.engs.entries.any fun g => g.2.ctx == c && (match g.2.run with
          | .idle => false
          | .ended _ _ => false
          | _ => true)

end Sys2Proof.Machine
end

