-- ==== Sys2Proof/Machine/MemSys.lean ====
section
/-!
DEFINITION. Sys2Proof/Machine/MemSys.lean: extents and the second stage (R341, R342), the homes of sectors, the L1s, registration and recall (R313 to
R318), the sites of accesses (R320), releases and acquires (R322, R323), and memory poison (R332, R347, R348).
-/
namespace Sys2Proof.Machine

open Sys2Proof

/-- Where an extent sends an address (R341): device memory under the extent's key (R345), another package's memory, or host memory. -/
inductive Tgt where
  | dev (a key : Nat)
  | rem (pkg a : Nat)
  | host (a : Nat)
  /-- The L2 holds every byte of the sector, and no request leaves the caches (R342). -/
  | cached
deriving DecidableEq, Repr

/-- What an access waits for before it can be performed (assumption 4, DESIGN CHOICE). -/
inductive Need where
  | snoop (inv : Bool) (func sec addr : Nat)
  | cache (r : CacheReq) (func sec addr : Nat)
  | peer (inv : Bool) (func sec addr pkg : Nat)
  /-- A place in the waiting queue of a press, for a flight at a pc (R245). -/
  | pressPlace (core fid : Nat) (pc : W57)
  | held
deriving DecidableEq, Repr

/-- The result of an access: performed, failed after the caches (KIND and STAGE of R100 and R350), or not yet possible. -/
inductive Acc (α : Type) where
  | ok (s : State) (x : α)
  | bad (kind stage : Nat)
  | wait (n : Need)
deriving Repr

/-- Sequencing of accesses. -/
def Acc.bind {α β : Type} (x : Acc α) (f : State → α → Acc β) : Acc β :=
  match x with
  | .ok s a => f s a
  | .bad k st => .bad k st
  | .wait n => .wait n

/-- The key of a sector: function and sector number of the guest-physical address (R310). -/
def secKey (func sec : Nat) : Nat := func * 2 ^ 51 + sec

-- ---------------------------------------------------------------------------------------------
-- Extents and the second stage

/-- Whether an extent covers a guest-physical address. -/
def Extent.covers (e : Extent) (gpa : Nat) : Bool := e.gbase ≤ gpa && gpa < e.gbase + e.len * 2 ^ 16

/-- The extent of a function that applies to an address: the one with the lowest index (R341). Keys are function * 256 + index. Behind them stands the
memory that a pool package allots to packet contexts (R453). -/
def State.extent (s : State) (func gpa : Nat) : Option Extent :=
  ((s.exts.entries.find? fun e => e.1 / 256 == func && e.2.covers gpa).map (·.2)).orElse fun _ =>
    (s.allots.entries.find? fun e => e.2.1 == func && e.2.2.covers gpa).map (·.2.2)

/-- Whether a host port can carry traffic (R408, R423). GZ-X has none (R14). -/
def State.hostUp (s : State) : Bool :=
  s.build == .gzC && [0, 1].any fun d => match (s.die d).hostPort with
    | some p => p.up && !p.viral
    | none => false

/-- The home slice of an address's line (R311), and its die: slice m lies in die m div 32. -/
def lineSlice (gpa : Nat) : Nat := (List.range 7).foldl (fun (m : Nat) k => m ^^^ bitsN gpa (8 + 7 * k) 7) 0
def lineDie (gpa : Nat) : Nat := lineSlice gpa / 32

/-- The host port that carries traffic for a line (R408): that of its home die modulo 2, or the other where that one is down, viral or retrains (R463). -/
def State.hostPortFor (s : State) (gpa : Nat) : Nat :=
  let n := lineDie gpa % 2
  let ok (n : Nat) : Bool := match (s.die n).hostPort with
    | some p => p.up && !p.viral && !p.retrain
    | none => false
  if !ok n && ok (1 - n) then 1 - n else n

/-- Whether the access of the agent at the cursor waited for a host line on a port that went viral (R423). -/
def State.portFailed (s : State) (func sec : Nat) : Bool :=
  s.creqs.any fun q => q.failed && q.func == func && q.sec == sec && q.core == s.cur.core && q.fid == s.cur.fid && q.engine == s.cur.engine

/-- The agent at the cursor has taken the failure of its host requests. -/
def State.clearFailed (s : State) : State :=
  { s with creqs := s.creqs.filter fun q => !(q.failed && q.core == s.cur.core && q.fid == s.cur.fid && q.engine == s.cur.engine) }

/-- The context of the agent at the cursor; 4096 for an agent that is no context's. -/
def State.curCtx (s : State) : Nat :=
  if s.cur.engine then ((s.core s.cur.core).engs.get? s.cur.fid).elim 4096 (·.ctx)
  else (s.flight? s.cur.core s.cur.fid).elim 4096 (·.ctx)

/-- The fabric ports that can carry traffic: die, number and the package at the other end (R24, R423). -/
def State.livePorts (s : State) : List (Nat × Nat × Nat) :=
  s.dies.entries.flatMap fun d => (d.2.fports.entries.filter fun p => p.2.up && !p.2.viral).map fun p => (d.1, p.1, p.2.peer.toNat)

/-- Whether a link to a package can carry traffic and the package is not lost (R423, R430). -/
def State.linked (s : State) (pkg : Nat) : Bool := !s.lostPkgs.contains pkg && s.livePorts.any fun p => p.2.2 == pkg

/-- The packages whose crossbar may carry traffic to a peer: those at the other end of a link (R3, R428). -/
def State.relays (s : State) (pkg : Nat) : List Nat := uniqN ((s.livePorts.map (·.2.2)).filter fun q => s.linked q && q != pkg)

/-- Whether a package can be reached (R25, R342, R430): over a link to it, or through one pool package: the member that the process-group table of the agent at work gives
(R401), or any where that agent has no table (assumption 82, DESIGN CHOICE). -/
def State.reachable (s : State) (pkg : Nat) : Bool :=
  !s.lostPkgs.contains pkg && (s.linked pkg || match s.via.get? pkg with
    | some (some q) => s.linked q
    | some none => false
    | none => !(s.relays pkg).isEmpty)

/-- The fabric port that a request to a package leaves through (R24, R25): one of the die that homes its line and leads to the package or to the pool package on its route,
where that die has one. Answers the port, and the package at its other end. -/
def State.fabricPort (s : State) (pkg gpa : Nat) : (PortRef × Nat) × State :=
  let leads (q : Nat) := s.livePorts.filter fun x => x.2.2 == q
  let use := if s.linked pkg then leads pkg
    else match s.via.get? pkg with
      | some (some q) => leads q
      | some none => []
      | none => (s.relays pkg).flatMap leads
  let near := use.filter fun x => x.1 == lineDie gpa
  let xs := if near.isEmpty then use else near
  let (k, s) := s.pick xs.length
  match xs[k]? with
  | some x => ((.fabric x.1 x.2.1, x.2.2), s)
  | none => ((.fabric 0 0, pkg), s)

/-- The page mode entry of a device-physical address, absent pages being PRIV (R411). -/
def State.pageMode (s : State) (a : Nat) : PageMode := s.pages.getD (a / 4096) ⟨0, 0, 0⟩

/-- The second stage (R341, R342, R413): the target of an address and whether the access is coherent by extent, target or page mode;
or the KIND and STAGE of the failure. A range that its home has released is refused there (R432). -/
def State.second (s : State) (func gpa : Nat) (rd wr : Bool) : Except (Nat × Nat) (Tgt × Bool) :=
  match s.extent func gpa with
  | none => if s.released.any fun r => r.1 == func && decide (r.2.1 ≤ gpa ∧ gpa < r.2.1 + r.2.2) then .error (1, 3) else .error (0, 2)
  | some e =>
    if (rd && !e.rd) || (wr && !e.wr) then .error (1, 2)
    else
      let a := e.pbase + (gpa - e.gbase)
      if e.tgt = 0 then
        let m := s.pageMode a
        if m.mode = 0 then .ok (.dev a e.key, e.coh)
        else if m.func ≠ func ∨ m.gpn ≠ gpa / 4096 then .error (1, 2)
        else .ok (.dev a e.key, true)
      else if e.tgt = 3 then
        if s.hostUp then .ok (.host a, true) else .error (3, 3)
      else if !(if e.tgt = 2 then s.linked e.pkg else s.reachable e.pkg) then .error (3, 3)
      else if s.gone.any fun r => r.1 == e.pkg && decide (r.2.1 ≤ a ∧ a < r.2.1 + r.2.2) then .error (1, 3)
      else .ok (.rem e.pkg a, e.coh)

/-- Whether an address lies in an extent that is being removed (R343, R432). -/
def State.isLeaving (s : State) (func gpa : Nat) : Bool :=
  s.leaving.any fun k => k / 256 == func && ((s.exts.get? k).elim false fun e => e.covers gpa)

/-- The class of a page (R342, R413): its own, with the extent's COH, target and page mode. -/
def State.isCoherent (s : State) (func gpa : Nat) (cls : Bool) : Bool :=
  cls || match s.extent func gpa with
    | none => false
    | some e => e.coh || e.tgt == 3 || (e.tgt == 0 && (s.pageMode (e.pbase + (gpa - e.gbase))).mode != 0)

/-- Whether an address is homed outside the package (R314). -/
def State.isRemote (s : State) (func gpa : Nat) : Bool :=
  match s.extent func gpa with
  | some e => e.tgt == 1 || e.tgt == 2
  | none => false

-- ---------------------------------------------------------------------------------------------
-- Memory behind the caches

/-- The die whose controllers hold a device address (R369). -/
def State.dieOfAddr (s : State) (a : Nat) : Nat := (if s.build = .gzC then a / 2 ^ 38 else a / 2 ^ 41) % 4

/-- The bytes of a sector of device memory as a key deciphers them (R345): a fresh sector reads as zeros (R347); bytes that another key enciphered cannot be read, and come
out as a free value. -/
def State.devSector (s : State) (k key : Nat) : BitVec 512 :=
  match s.written.get? k with
  | none => 0
  | some w => if w = key then cellsSector s.mem (k * 64) else Config.otherKey k w key

/-- A read of a sector's memory: data and poisoned words. A poisoned read of local memory is counted in die.errc MPR (R348). -/
def State.fetchMem (s : State) (t : Tgt) : State × BitVec 512 × BitVec 16 :=
  match t with
  | .dev a key =>
    if s.memPsn.contains (a / 64) then
      let d := s.die (s.dieOfAddr a)
      (s.setDie (s.dieOfAddr a) { d with errc := bumpField d.errc 48 }, s.devSector (a / 64) key, BitVec.allOnes 16)
    else (s, s.devSector (a / 64) key, 0)
  | .rem pkg a =>
    let b := pkg * 2 ^ 64 + a / 64 * 64
    (s, cellsSector s.fab b, if s.fabPsn.contains (b / 64) then BitVec.allOnes 16 else 0)
  | .host _ => (s, 0, 0)
  | .cached => (s, 0, 0)

/-- A write that leaves for another package is outstanding until its acknowledgement (R322, R430). It keeps what it changes: a write that fails has no effect (R423). -/
def State.noteWrite (s : State) (pkg a gpa : Nat) (mask : BitVec 64) : State :=
  let b := pkg * 2 ^ 64 + a / 64 * 64
  let r := s.fabricPort pkg gpa
  let q : Request :=
    { pkg := pkg, via := r.1.2, port := r.1.1, ctx := s.curCtx, since := s.clock, core := s.cur.core, fid := s.cur.fid, va := 0, gpa := gpa
      what := .write b (cellsSector s.fab b) mask (s.fabPsn.contains (b / 64)) }
  { r.2 with reqs := s.reqs ++ [q] }

/-- A write to the memory of a sector with key k. `psn` poisons it; `clear` says that the write leaves no poisoned word (R332, R348).
The write ends the sector's freshness (R347). -/
def State.storeMem (s : State) (k : Nat) (t : Tgt) (data : BitVec 512) (mask : BitVec 64) (psn clear : Bool) : State :=
  match t with
  | .dev a key =>
    let j := a / 64
    let whole := mergeBytes (s.devSector j key) data mask
    { s with
      mem := if s.written.get? j = some key then setSector (j * 64) data mask s.mem else setSector (j * 64) whole (BitVec.allOnes 64) s.mem
      written := s.written.set j key
      memPsn := if psn then insertN j s.memPsn else if clear || mask = BitVec.allOnes 64 then s.memPsn.erase j else s.memPsn }
  | .rem pkg a =>
    let b := pkg * 2 ^ 64 + a / 64 * 64
    let s := s.noteWrite pkg a (k % 2 ^ 51 * 64) mask
    { s with
      fab := setSector b data mask s.fab
      fabPsn := if psn then insertN (b / 64) s.fabPsn
                else if clear || mask = BitVec.allOnes 64 then s.fabPsn.erase (b / 64) else s.fabPsn
      out := s.out ++ [.remoteWrite pkg (a / 64 * 64) data mask psn] }
  | .host a => { s with out := s.out ++ [.evict .dirtyEvict (a / 64 * 64) data psn] }
  | .cached => s

-- ---------------------------------------------------------------------------------------------
-- Homes, registration, recall

def State.home (s : State) (k : Nat) : Home := s.l2.getD k Home.reset
def State.setHome (s : State) (k : Nat) (h : Home) : State :=
  { s with l2 := if h = Home.reset then s.l2.erase k else s.l2.set k h }

def State.l1? (s : State) (c k : Nat) : Option Sector := (s.core c).l1.get? k
def State.setL1 (s : State) (c k : Nat) (x : Sector) : State :=
  let r := s.core c
  s.setCore c { r with l1 := if x.valid = 0 then r.l1.erase k else r.l1.set k x }
def State.dropL1 (s : State) (c k : Nat) : State :=
  let r := s.core c
  if r.l1.has k then s.setCore c { r with l1 := r.l1.erase k } else s

/-- The words of a sector registered to a core (R313). -/
def Home.wordsOf (h : Home) (c : Nat) : BitVec 16 :=
  h.reg.entries.foldl (fun (m : BitVec 16) e => if e.2 = c then m ||| (1#16 <<< e.1) else m) 0

/-- A sector with nothing in it. -/
def Sector.none (coh : Bool) : Sector := ⟨0, 0, 0, 0, coh, 0⟩

/-- Merge bytes and their poison into a sector: covered words take the new poison, words covered in part keep theirs too. -/
def Sector.merge (x : Sector) (data : BitVec 512) (mask : BitVec 64) (psn : BitVec 16) (dirty : Bool) : Sector :=
  let cov := wordsCovered mask
  let tch := wordsTouched mask
  { x with
    data := mergeBytes x.data data mask
    valid := x.valid ||| mask
    dirty := if dirty then x.dirty ||| mask else x.dirty
    psn := (x.psn &&& ~~~cov) ||| (psn &&& tch) }

/-- One core gives up its registered words among ws: their dirty bytes go to the L2's copy (R316). -/
def State.giveWords (s : State) (k : Nat) (ws : BitVec 16) (c : Nat) : State :=
  let h := s.home k
  let own := h.wordsOf c &&& ws
  if own = 0 then s
  else
    let reg' : KMap Nat := h.reg.filter fun w _ => !own.getLsbD w
    match s.l1? c k with
    | Option.none => s.setHome k { h with reg := reg' }
    | some x =>
      let bytes := x.dirty &&& wordMask own
      let cp := (h.copy.getD (Sector.none x.coh)).merge x.data bytes x.psn true
      let s := s.setHome k { h with reg := reg', copy := if bytes = 0 then h.copy else some cp }
      s.setL1 c k { x with dirty := x.dirty &&& ~~~bytes }

/-- The cores that have words of a sector registered. -/
def Home.regCores (h : Home) : List Nat := uniqN (h.reg.entries.map (·.2))

/-- Drop every L1 copy of a sector but that of one core, after their words have been recalled. -/
def State.dropOthers (s : State) (k : Nat) (keep : Option Nat) : State :=
  let s := s.cores.entries.foldl (fun s e => if some e.1 = keep then s else s.dropL1 e.1 k) s
  let h := s.home k
  s.setHome k { h with sharers := h.sharers.filter fun c => some c == keep }

/-- The bytes of a sector as its home sees them, with registered words merged in (R315, R320). -/
def State.mergedView (s : State) (k : Nat) (base : Sector) : Sector :=
  (s.home k).regCores.foldl (fun v c =>
    match s.l1? c k with
    | Option.none => v
    | some x => v.merge x.data (x.dirty &&& wordMask ((s.home k).wordsOf c)) x.psn false) base

/-- Whether a target is another package's memory. -/
def Tgt.isRem : Tgt → Bool
  | .rem _ _ => true
  | _ => false

/-- Write back the dirty bytes of the L2 copy (R332). A package's standing at a pool package's snoop filter then falls to I (R433). -/
def State.writeBack (s : State) (k : Nat) (t : Tgt) : State :=
  let h := s.home k
  match h.copy with
  | Option.none => s
  | some x =>
    if x.dirty = 0 then s
    else
      let s := s.storeMem k t x.data x.dirty (x.psn != 0) (x.psn = 0 && x.valid = BitVec.allOnes 64)
      s.setHome k { s.home k with copy := some { x with dirty := 0 }, host := if t.isRem then .i else h.host }

-- ---------------------------------------------------------------------------------------------
-- Ways and room (R220, R310, R312, R315)

/-- The ways that a function may allocate into (R372): function 128 all of them. -/
def State.waysOf (s : State) (func : Nat) : W32 := if func < 128 then (s.vf func).ways else BitVec.allOnes 32

/-- The sectors of a line by its key, which is that of its first sector divided by 4. -/
def lineSectors (line : Nat) : List Nat := (List.range 4).map fun j => line * 4 + j

/-- Whether two lines lie in one set of one slice (R310, R311). Which of the 768 sets of its slice a line takes is not published (assumption 83, DESIGN CHOICE). -/
def sameSet (x y : Nat) : Bool :=
  lineSlice (x * 4 % 2 ^ 51 * 64) == lineSlice (y * 4 % 2 ^ 51 * 64) && Config.l2Set x % 768 == Config.l2Set y % 768

/-- Whether the L2 holds a sector of a line. -/
def State.lineHeld (s : State) (line : Nat) : Bool := (lineSectors line).any fun k => (s.home k).copy.isSome

/-- The L2 evicts a sector that no transfer owns: what the L1s hold of it comes back, dirty bytes are written to memory, the host hears of the line that it gives up
(R419), and the copy goes (R332). Dirty bytes whose memory cannot be reached stay. -/
def State.evictL2 (s : State) (k : Nat) : State :=
  if (s.home k).owner.isSome || (s.home k).copy.isNone then s
  else
    let back (s : State) : State := (((s.home k).regCores).foldl (fun s c => s.giveWords k (BitVec.allOnes 16) c) s).dropOthers k Option.none
    let drop (s : State) : State := s.setHome k { s.home k with copy := Option.none }
    match s.second (k / 2 ^ 51) (k % 2 ^ 51 * 64) false false with
    | .error _ => if ((s.home k).copy.map (·.dirty)) = some 0 ∧ (s.home k).reg.entries = [] then drop (s.dropOthers k Option.none) else s
    | .ok (.host a, _) =>
      let s := back s
      match (s.home k).copy with
      | some x =>
        let (n, s) := if x.dirty = 0 then s.pick 2 else (0, s)
        let r : EvictReq := if x.dirty ≠ 0 then .dirtyEvict else if n = 0 then .cleanEvict else .cleanEvictNoData
        let s := s.emit (.evict r (a / 64 * 64) (if r = .cleanEvictNoData then 0 else x.data) (r != .cleanEvictNoData && x.psn != 0))
        { drop s with lines := s.lines.erase (a / 64) }
      | Option.none => s
    | .ok (t, _) => drop ((back s).writeBack k t)

/-- Whether a line may be evicted whole: no sector is owned, and dirty bytes can be written back. -/
def State.evictable (s : State) (line : Nat) : Bool :=
  (lineSectors line).all fun k =>
    (s.home k).owner.isNone && match s.second (k / 2 ^ 51) (k % 2 ^ 51 * 64) false false with
      | .ok _ => true
      | .error _ => (((s.home k).copy.map (·.dirty)).getD 0) == 0 && (s.home k).reg.entries.isEmpty

/-- A line takes a way of its set that the function's mask allows (R312): a free one, or that of a line that is evicted for it (R310: which is unpromised). Where no way can
be had the sector passes through the L2 without a way of its own (assumption 83, DESIGN CHOICE). -/
def State.roomL2 (s : State) (k : Nat) : State :=
  let line := k / 4
  if s.lineHeld line then s
  else
    let mask := s.waysOf (k / 2 ^ 51)
    let allowed := (List.range 32).filter fun w => mask.getLsbD w
    let peers := s.l2Ways.entries.filter fun e => e.1 != line && sameSet e.1 line && s.lineHeld e.1
    match allowed.find? fun w => !peers.any fun e => e.2 == w with
    | some w => { s with l2Ways := s.l2Ways.set line w }
    | Option.none =>
      let victims := peers.filter fun e => allowed.contains e.2 && s.evictable e.1
      let (n, s) := s.pick victims.length
      match victims[n]? with
      | Option.none => s
      | some v =>
        let s := (lineSectors v.1).foldl (fun (s : State) j => s.evictL2 j) s
        { s with l2Ways := (s.l2Ways.erase v.1).set line v.2 }

/-- One core gives up its registered words among ws to the L2, which makes room for them (R316). -/
def State.recallFrom (s : State) (k : Nat) (ws : BitVec 16) (c : Nat) : State :=
  if (s.home k).wordsOf c &&& ws = 0 then s else (s.roomL2 k).giveWords k ws c

/-- Recall words from every core that has them registered. -/
def State.recall (s : State) (k : Nat) (ws : BitVec 16) : State := (s.home k).regCores.foldl (fun s c => s.recallFrom k ws c) s

/-- A core's L1 evicts a sector: its dirty registered bytes go to the L2 (R315). -/
def State.evictL1 (s : State) (c k : Nat) : State :=
  let s := (s.recallFrom k (BitVec.allOnes 16) c).dropL1 c k
  let h := s.home k
  s.setHome k { h with sharers := h.sharers.filter fun x => x != c }

/-- The L1 of a core makes room for a line: it holds 2560 KiB less the scratchpad part (R220, R310). Which line goes is unpromised. -/
def State.roomL1 (s : State) (c k : Nat) : State :=
  let r := s.core c
  let lines := uniqN (r.l1.keys.map (· / 4))
  if lines.contains (k / 4) || lines.length < 10240 - 1024 * r.spk then s
  else
    let (n, s) := s.pick lines.length
    match lines[n]? with
    | Option.none => s
    | some v => (lineSectors v).foldl (fun (s : State) j => if (s.core c).l1.has j then s.evictL1 c j else s) s

/-- The L2 takes the whole sector from memory under the bytes that it holds. -/
def State.fillHome (s : State) (k : Nat) (t : Tgt) (coh : Bool) : State :=
  let s := s.roomL2 k
  let h := s.home k
  match h.copy with
  | some x =>
    if x.valid = BitVec.allOnes 64 then s
    else
      let (s, d, p) := s.fetchMem t
      s.setHome k { h with copy := some { x with data := mergeBytes d x.data x.valid, valid := BitVec.allOnes 64, coh := coh
                                                 psn := x.psn ||| (p &&& ~~~wordsCovered x.valid), stamp := s.clock } }
  | Option.none =>
    let (s, d, p) := s.fetchMem t
    s.setHome k { h with copy := some ⟨d, BitVec.allOnes 64, 0, p, coh, s.clock⟩ }

/-- A back-invalidation snoop that goes unanswered: the sector is poisoned and the host's state becomes I (R414). -/
def State.unanswered (s : State) (k : Nat) (t : Tgt) : State :=
  let s := { s.fillHome k t true with snoops := s.snoops.filter fun x => secKey x.func x.sec != k || x.pkg != none }
  let h := s.home k
  match h.copy with
  | some x => s.setHome k { h with host := .i, copy := some { x with psn := BitVec.allOnes 16, dirty := BitVec.allOnes 64 } }
  | Option.none => s.setHome k { h with host := .i }

/-- A package that must give up its copy of a sector of this pool package's memory before an access (R433): one in A, or for an exclusive access one in S or A; a lost
package holds nothing. `but` is the package that makes the access. -/
def State.holder (s : State) (a : Nat) (excl : Bool) (but : Option Nat) : Option Nat :=
  ((s.pfilter.getD (a / 64) []).find? fun x => some x.1 != but && (x.2 == .a || excl && x.2 == .s) && s.linked x.1).map (·.1)

/-- Whether the L2 holds every byte of a sector. -/
def State.wholeCopy (s : State) (k : Nat) : Bool :=
  match (s.home k).copy with
  | some x => x.valid == BitVec.allOnes 64
  | Option.none => false

/-- The class under which the L2 holds a sector. -/
def State.copyCoh (s : State) (k : Nat) : Bool :=
  match (s.home k).copy with
  | some x => x.coh
  | Option.none => false

/-- The home gets ready to serve an access: no owner (R281), no removal of its extent (R343), the host's copies back-invalidated (R414), a host line held as the access needs
(R419). `excl` says whether the access writes or is a site step. A read that hits a whole copy leaves the caches no more, and no second stage applies to it (R342). Answers the
target and class. -/
def State.readyHome (s : State) (func sec : Nat) (rd wr excl full : Bool) : Acc (Tgt × Bool) :=
  let k := secKey func sec
  match s.second func (sec * 64) rd wr with
  | .error (kind, stage) =>
    if !excl && s.wholeCopy k then (if (s.home k).owner.isSome then .wait .held else .ok s (.cached, s.copyCoh k)) else .bad kind stage
  | .ok (t, ecoh) =>
    if (s.home k).owner.isSome || s.isLeaving func (sec * 64) then .wait .held
    else
      match t with
      | .dev a _ =>
        let hs := (s.home k).host
        if (excl && hs != .i) || (!excl && hs == .a) then
          if s.hostUp then .wait (.snoop excl func sec a) else .ok (s.unanswered k t) (t, ecoh)
        else match s.holder a excl Option.none with
          | some q => .wait (.peer excl func sec a q)
          | Option.none => .ok s (t, ecoh)
      | .host a =>
        if s.portFailed func sec then .bad 3 3
        else match s.lines.get? (a / 64) with
        | some ln =>
          if ln.func = func ∧ ln.gsec = sec ∧ (ln.excl ∨ !excl) ∧ (s.wholeCopy k ∨ (full ∧ ln.excl)) then .ok s (t, true)
          else .wait (.cache (if excl then (if full then .rdOwnNoData else .rdOwn) else .rdShared) func sec a)
        | Option.none => .wait (.cache (if excl then (if full then .rdOwnNoData else .rdOwn) else .rdShared) func sec a)
      | t => .ok s (t, ecoh)

/-- A package that writes a coherent sector of another package's memory owns it first at that home (R317, R433, R434). -/
def State.ownRemote (s : State) (k : Nat) (t : Tgt) : State :=
  match t with
  | .rem pkg a =>
    let h := s.home k
    if h.host = .a then s else (s.setHome k { h with host := .a }).emit (.memReq pkg .readOwn (a / 64 * 64))
  | _ => s

-- ---------------------------------------------------------------------------------------------
-- Accesses at their sites

/-- Where an access is performed (R320). `l1 h multi` is the L1 of core h, `multi` when it serves more than one core. -/
inductive Site where
  | own
  | l1 (h : Nat)
  | home
  | ctl
  | agent
deriving DecidableEq, Repr

/-- The bytes and poisoned words of the L2's copy. -/
def State.copyOf (s : State) (k : Nat) : BitVec 512 × BitVec 16 :=
  match (s.home k).copy with
  | some x => (x.data, x.psn)
  | Option.none => (0, 0)

/-- Fill the L1 of a core from its home, keeping its own dirty bytes (R315, R317). -/
def State.fillL1 (s : State) (c k : Nat) (coh : Bool) : State :=
  let s := s.roomL1 c k
  let (d, p) := s.copyOf k
  let base : Sector := ⟨d, BitVec.allOnes 64, 0, p, coh, s.clock⟩
  let v := s.mergedView k base
  let x := (s.l1? c k).getD (Sector.none coh)
  s.setL1 c k { x with data := mergeBytes v.data x.data x.dirty, valid := BitVec.allOnes 64, coh := coh
                       psn := (v.psn &&& ~~~wordsCovered x.dirty) ||| (x.psn &&& wordsTouched x.dirty) }

/-- A read performed at the home: registered words are recalled first (R316). -/
def State.readAtHome (s : State) (func sec : Nat) (mask : BitVec 64) : Acc (BitVec 512 × BitVec 16) :=
  let k := secKey func sec
  (s.readyHome func sec true false false false).bind fun s (t, coh) =>
    let s := (s.fillHome k t coh).recall k (wordsTouched mask)
    .ok s (s.copyOf k)

/-- A read at the memory controller or the coherence agent (R320, R422): registrations recalled, dirty bytes written back, the L2's copy
dropped, then the read. The agent reads host memory once it holds the line exclusively (`own`) and no L1 copy of it remains; a read that the device makes for itself (R385)
allocates nothing and takes RdCurr where there is no copy (R419; assumption 84, DEDUCED). -/
def State.readAtCtl (s : State) (func sec : Nat) (own rmw : Bool) : Acc (BitVec 512 × BitVec 16) :=
  let k := secKey func sec
  match s.second func (sec * 64) true rmw with
  | .error (kind, stage) => .bad kind stage
  | .ok (.host a, _) =>
    if own then
      (s.readyHome func sec true rmw true false).bind fun s _ =>
        let s := (s.recall k (BitVec.allOnes 16)).dropOthers k Option.none
        .ok s (s.copyOf k)
    else if s.portFailed func sec then .bad 3 3
    else match s.lines.get? (a / 64) with
    | some ln =>
      if ln.func = func ∧ ln.gsec = sec ∧ s.wholeCopy k then
        if (s.home k).owner.isSome then .wait .held
        else
          let s := s.recall k (BitVec.allOnes 16)
          .ok s (s.copyOf k)
      else match if ln.func = func ∧ ln.gsec = sec then ln.curr else Option.none with
        | some (d, p) => .ok { s with lines := s.lines.erase (a / 64) } (d, if p then BitVec.allOnes 16 else 0)
        | Option.none => .wait (.cache .rdCurr func sec a)
    | Option.none => .wait (.cache .rdCurr func sec a)
  | .ok _ =>
    (s.readyHome func sec true rmw true false).bind fun s (t, _) =>
      let s := (s.recall k (BitVec.allOnes 16)).writeBack k t
      let h := s.home k
      let (s, d, p) := (s.setHome k { h with copy := Option.none }).fetchMem t
      .ok s (d, p)

/-- Bytes of an L1 copy that a core holds validly. -/
def State.l1Has (s : State) (c k : Nat) (mask : BitVec 64) : Bool :=
  match s.l1? c k with
  | some x => x.valid &&& mask == mask
  | Option.none => false

/-- A read of the bytes of a mask of a sector by core c, at a site. -/
def State.readSec (s : State) (c : Nat) (site : Site) (func sec : Nat) (mask : BitVec 64) :
    Acc (BitVec 512 × BitVec 16) :=
  let k := secKey func sec
  match site with
  | .own =>
    if s.l1Has c k mask then
      match s.l1? c k with
      | some x => .ok s (x.data, x.psn)
      | Option.none => .ok s (0, 0)
    else
      (s.readyHome func sec true false false false).bind fun s (t, ecoh) =>
        let coh := ecoh || (match s.l1? c k with
          | some x => x.coh
          | Option.none => false)
        let s := s.fillHome k t coh
        let s := s.fillL1 c k coh
        let h := s.home k
        let s := if coh then s.setHome k { h with sharers := insertN c h.sharers } else s
        match s.l1? c k with
        | some x => .ok s (x.data, x.psn)
        | Option.none => .ok s (0, 0)
  | .l1 g =>
    -- words registered to the site are served there, the others from the home with forwarding (R320)
    let reg := (s.home k).wordsOf g
    if wordsTouched mask &&& ~~~reg = 0 then
      match s.l1? g k with
      | some x => if x.valid &&& mask = mask then .ok s (x.data, x.psn) else forward k
      | Option.none => forward k
    else forward k
  | .home => s.readAtHome func sec mask
  | .ctl => s.readAtCtl func sec true false
  | .agent => s.readAtCtl func sec true false
where
  /-- A read served from the home with forwarding, filling no L1. -/
  forward (k : Nat) : Acc (BitVec 512 × BitVec 16) :=
    (s.readyHome func sec true false false false).bind fun s (t, coh) =>
      let s := s.fillHome k t coh
      let (d, p) := s.copyOf k
      let v := s.mergedView k ⟨d, BitVec.allOnes 64, 0, p, coh, 0⟩
      .ok s (v.data, v.psn)

/-- The core's own clean copy follows a write that it made elsewhere, so that it sees its own write (R325). -/
def State.updateOwn (s : State) (c k : Nat) (data : BitVec 512) (mask : BitVec 64) : State :=
  match s.l1? c k with
  | Option.none => s
  | some x =>
    let m := mask &&& x.valid
    if m = 0 then s else s.setL1 c k (x.merge data m 0 false)

/-- Whether a write at the home finds coherent copies to invalidate, whatever class it comes under (R317, R342). -/
def State.cohHere (s : State) (k : Nat) : Bool := s.copyCoh k || !(s.home k).sharers.isEmpty

/-- A write performed in the L2's copy, already ready: registered words recalled, L1 copies of other cores invalidated when coherent,
poison of covered words cleared (R316, R317, R332). -/
def State.writeCopy (s : State) (c : Option Nat) (k : Nat) (coh : Bool) (data : BitVec 512) (mask : BitVec 64) (psn : BitVec 16) : State :=
  let coh := coh || s.cohHere k
  let s := (s.roomL2 k).recall k (if coh then BitVec.allOnes 16 else wordsTouched mask)
  let s := if coh then s.dropOthers k c else s
  let h := s.home k
  let x := h.copy.getD (Sector.none coh)
  let s := s.setHome k { h with copy := some (x.merge data mask psn true) }
  match c with
  | some c => s.updateOwn c k data mask
  | Option.none => s

/-- A write at the home (R317, R320). -/
def State.writeAtHome (s : State) (c : Option Nat) (func sec : Nat) (rd cls : Bool) (data : BitVec 512) (mask : BitVec 64)
    (psn : BitVec 16) : Acc Unit :=
  let k := secKey func sec
  (s.readyHome func sec rd true true (mask = BitVec.allOnes 64)).bind fun s (t, ecoh) =>
    let coh := ecoh || cls
    let s := if coh then s.ownRemote k t else s
    -- the L2 needs the rest of a word that is written in part, for its poison
    let s := if mask = BitVec.allOnes 64 then s else s.fillHome k t coh
    .ok (s.writeCopy c k coh data mask psn) ()

/-- A write at the memory controller or the coherence agent (R320, R422). -/
def State.writeAtCtl (s : State) (c : Option Nat) (func sec : Nat) (rd cls : Bool) (data : BitVec 512) (mask : BitVec 64)
    (psn : BitVec 16) : Acc Unit :=
  let k := secKey func sec
  match s.second func (sec * 64) rd true with
  | .error (kind, stage) => .bad kind stage
  | .ok (.host _, _) => s.writeAtHome c func sec rd true data mask psn
  | .ok _ =>
    (s.readyHome func sec rd true true (mask = BitVec.allOnes 64)).bind fun s (t, ecoh) =>
      let s := (s.recall k (BitVec.allOnes 16)).writeBack k t
      let s := if ecoh || cls || s.cohHere k then s.dropOthers k c else s
      let h := s.home k
      let s := s.setHome k { h with copy := Option.none }
      let s := s.storeMem k t data mask (psn != 0) false
      .ok (match c with
        | some c => s.updateOwn c k data mask
        | Option.none => s) ()

/-- A plain store by core c into the L1 of core g (R315), which becomes registrant of the words it writes. Of a word that comes to g it keeps no older clean byte, since
another core may have written it (R325); and a word that is written in part keeps the poison that its home knows (R332). -/
def State.writeAtL1 (s : State) (c g func sec : Nat) (rd : Bool) (data : BitVec 512) (mask : BitVec 64) : Acc Unit :=
  let k := secKey func sec
  (s.readyHome func sec rd true true false).bind fun s (t, coh) =>
    if coh then s.writeAtHome (some c) func sec rd true data mask 0
    else
      let ws := wordsTouched mask
      let s := (s.home k).regCores.foldl (fun s d => if d = g then s else s.recallFrom k ws d) s
      let new := ws &&& ~~~(s.home k).wordsOf g
      let part := new &&& ~~~wordsCovered mask
      let s := (if part = 0 then s else s.fillHome k t false).roomL1 g k
      let h := s.home k
      let reg' := (List.range 16).foldl (fun (r : KMap Nat) w => if ws.getLsbD w then r.set w g else r) h.reg
      let s := s.setHome k { h with reg := reg' }
      let x := (s.l1? g k).getD (Sector.none false)
      let x := { x with valid := x.valid &&& ~~~wordMask new, psn := (x.psn &&& ~~~new) ||| ((s.copyOf k).2 &&& part) }
      let s := s.setL1 g k (x.merge data mask x.psn true)
      .ok (if c = g then s else s.updateOwn c k data mask) ()

/-- A write of the bytes of a mask of a sector by core c at a site. `rd` is set for atomics, which also need to read; `cls` is the page's
class (R337). -/
def State.writeSec (s : State) (c : Nat) (site : Site) (func sec : Nat) (rd cls : Bool) (data : BitVec 512) (mask : BitVec 64) :
    Acc Unit :=
  if s.isCoherent func (sec * 64) cls then
    match site with
    | .ctl => s.writeAtCtl (some c) func sec rd true data mask 0
    | .agent => s.writeAtCtl (some c) func sec rd true data mask 0
    | _ => s.writeAtHome (some c) func sec rd true data mask 0
  else
    match site with
    | .own => s.writeAtL1 c c func sec rd data mask
    | .l1 g => s.writeAtL1 c g func sec rd data mask
    | .home => s.writeAtHome (some c) func sec rd false data mask 0
    | .ctl => s.writeAtCtl (some c) func sec rd false data mask 0
    | .agent => s.writeAtCtl (some c) func sec rd false data mask 0

/-- A read with the class of its page: a coherent page is read in the L1, at the home, or at the .pl and .sy sites (R317, R320). -/
def State.readCls (s : State) (c : Nat) (site : Site) (func sec : Nat) (cls : Bool) (mask : BitVec 64) :
    Acc (BitVec 512 × BitVec 16) :=
  if s.isCoherent func (sec * 64) cls then
    match site with
    | .own => (s.readSec c .own func sec mask).bind fun s d =>
        -- the copy is kept under the coherent class, with the core among its sharers
        let k := secKey func sec
        match s.l1? c k with
        | some x =>
          if x.coh then .ok s d
          else
            let h := s.home k
            .ok ((s.setHome k { h with sharers := insertN c h.sharers }).setL1 c k { x with coh := true }) d
        | Option.none => .ok s d
    | .l1 _ => s.readSec c .home func sec mask
    | st => s.readSec c st func sec mask
  else s.readSec c site func sec mask

/-- n bytes at an address within one sector, as a number and whether a word of them is poisoned. -/
def State.readN (s : State) (c : Nat) (site : Site) (func gpa : Nat) (cls : Bool) (n : Nat) : Acc (Nat × Bool) :=
  let o := gpa % 64
  (s.readCls c site func (gpa / 64) cls (maskOf o n)).bind fun s (d, p) =>
    .ok s (secNum d o n, p &&& wordsTouched (maskOf o n) != 0)

/-- Write n bytes at an address within one sector. -/
def State.writeN (s : State) (c : Nat) (site : Site) (func gpa : Nat) (cls : Bool) (n x : Nat) : Acc Unit :=
  let o := gpa % 64
  s.writeSec c site func (gpa / 64) false cls (numSec (x % 2 ^ (8 * n)) o) (maskOf o n)

/-- An indivisible read-modify-write of n bytes at a site (R174): `f` gives the new value. A poisoned value stays. Answers the old value. -/
def State.rmwN (s : State) (c : Nat) (site : Site) (func gpa : Nat) (cls : Bool) (n : Nat) (f : Nat → Nat) : Acc (Nat × Bool) :=
  let o := gpa % 64
  let sec := gpa / 64
  let coh := s.isCoherent func gpa cls
  let read : Acc (BitVec 512 × BitVec 16) :=
    match site with
    | .ctl => s.readAtCtl func sec true true
    | .agent => s.readAtCtl func sec true true
    | _ =>
      if coh then (s.readyHome func sec true true true false).bind fun s (t, _) =>
        let s := (s.fillHome (secKey func sec) t true).recall (secKey func sec) (BitVec.allOnes 16)
        .ok s (s.copyOf (secKey func sec))
      else (s.readyHome func sec true true true false).bind fun s _ => s.readSec c site func sec (maskOf o n)
  read.bind fun s (d, p) =>
    let m := secNum d o n
    if p &&& wordsTouched (maskOf o n) != 0 then .ok s (m, true)
    else (s.writeSec c site func sec true cls (numSec (f m % 2 ^ (8 * n)) o) (maskOf o n)).bind fun s _ => .ok s (m, false)

-- ---------------------------------------------------------------------------------------------
-- The device's own reads

/-- A sector read at its home, filling no L1: the walker's, the fetch unit's and the device's own reads (R336, R465). -/
def State.lookSec (s : State) (func sec : Nat) : Acc (BitVec 512 × BitVec 16) :=
  let k := secKey func sec
  (s.readyHome func sec true false false false).bind fun s (t, coh) =>
    let s := s.fillHome k t coh
    let (d, p) := s.copyOf k
    let v := s.mergedView k ⟨d, BitVec.allOnes 64, 0, p, coh, 0⟩
    .ok s (v.data, v.psn)

/-- A write by an agent that is no core of the package: a transfer, a sequencer, a vat delivery, another package. It takes the sector: registered words are recalled and every
L1 copy goes, so that no stale copy can serve it (R281, R330). -/
def State.takeSector (s : State) (k : Nat) : State := (s.recall k (BitVec.allOnes 16)).dropOthers k Option.none

/-- The owner of a sector gives it up (R281), at the package that homes it too (R434). -/
def State.freeSector (s : State) (k : Nat) : State :=
  let s := s.setHome k { s.home k with owner := Option.none }
  match s.second (k / 2 ^ 51) (k % 2 ^ 51 * 64) false false with
  | .ok (.rem pkg a, _) => s.emit (.memReq pkg .disown (a / 64 * 64))
  | _ => s

/-- An owner gives up every sector that it owns. -/
def State.dropOwner (s : State) (o : Owner) : State :=
  ((s.l2.entries.filter fun e => e.2.owner == some o).map (·.1)).foldl (fun s k => s.freeSector k) s

/-- The keys of the sectors that this package caches of another package's memory, where a test of package and address holds. -/
def State.cachedOf (s : State) (p : Nat → Nat → Bool) : List Nat :=
  (uniqN (s.l2.keys ++ s.cores.entries.flatMap fun c => c.2.l1.keys)).filter fun k =>
    match s.second (k / 2 ^ 51) (k % 2 ^ 51 * 64) false false with
    | .ok (.rem q a, _) => p q a
    | _ => false

-- ---------------------------------------------------------------------------------------------
-- Releases and acquires

/-- Drain the write-combining entries of a context on a core (R182): each sector is one plain write at its home. A failure at the home
is kept for the event STORE_FAILURE (R169). -/
def State.drainEntry (s : State) (c : Nat) (w : Wcb) : Acc Unit :=
  (List.range 4).foldl (fun (acc : Acc Unit) (j : Nat) =>
    acc.bind fun s _ =>
      let mask := w.mask.extractLsb' (64 * j) 64
      if mask = 0 then .ok s ()
      else
        let sec := w.line * 4 + j
        match s.writeAtCtl (some c) w.func sec false w.cls (w.data.extractLsb' (512 * j) 512) mask 0 with
        | .ok s _ => .ok s ()
        | .bad kind stage =>
          .ok { s with failures := s.failures ++ [⟨w.ctx, c, 0, kind == 3, stage, kind, 0, BitVec.ofNat 64 (sec * 64), true⟩] } ()
        | .wait n => .wait n) (.ok s ())

/-- Drain every entry of a context on a core. -/
def State.drainWcb (s : State) (c ctx : Nat) : Acc Unit :=
  (s.core c).wcb.foldl (fun (acc : Acc Unit) w =>
    acc.bind fun s _ =>
      if w.ctx ≠ ctx then .ok s ()
      else (s.drainEntry c w).bind fun s _ =>
        let k := s.core c
        .ok (s.setCore c { k with wcb := k.wcb.erase w }) ()) (.ok s ())

/-- Drain the entry of a context that an access to an address would meet (R331). -/
def State.drainFor (s : State) (c ctx gpa : Nat) : Acc Unit :=
  match (s.core c).wcb.find? fun w => w.ctx == ctx && w.line == gpa / 256 with
  | Option.none => .ok s ()
  | some w =>
    (s.drainEntry c w).bind fun s _ =>
      let k := s.core c
      .ok (s.setCore c { k with wcb := k.wcb.erase w }) ()

/-- Write the dirty bytes of remote bulk memory that some cores hold, and that the L2 holds, back to their homes, for the functions of a predicate (R318, R322). -/
def State.flushRemote (s : State) (cores : List Nat) (p : Nat → Bool) : State :=
  let keys := uniqN (s.l2.keys ++ cores.flatMap fun c => (s.core c).l1.keys)
  keys.foldl (fun s k =>
    let func := k / 2 ^ 51
    let sec := k % 2 ^ 51
    if p func && s.isRemote func (sec * 64) then
      match s.second func (sec * 64) false true with
      | .ok (t, _) => (cores.foldl (fun s c => s.recallFrom k (BitVec.allOnes 16) c) s).writeBack k t
      | .error _ => s
    else s) s

/-- The cores whose L1 may hold what a core has written: its own, and the sites of its blocks and of their cluster groups (R320). -/
def State.siteCores (s : State) (c : Nat) : List Nat :=
  insertN c (uniqN ((s.cores.entries.flatMap fun e => (e.2.blocks.entries.filter fun b => b.2.cores.contains c).map fun _ => e.1)
    ++ (s.groups.entries.filter fun g => g.2.cores.contains c).flatMap fun g => (g.2.members.head?.map (·.1)).toList))

/-- The writes of a context on a core have been acknowledged (R322). -/
def State.acked (s : State) (c ctx : Nat) : State :=
  { s with reqs := s.reqs.filter fun q => !(q.what.isWrite && q.core == c && q.ctx == ctx) }

/-- The preparation of a release by a thread of context ctx on core c (R322). Earlier accesses of the thread have been performed when they
issued, so the scopes below .pl need nothing more. -/
def State.release (s : State) (c ctx scope : Nat) : Acc Unit :=
  if scope < 5 then .ok s ()
  else (s.drainWcb c ctx).bind fun s _ => .ok ((s.flushRemote (s.siteCores c) fun _ => true).acked c ctx) ()

/-- What an acquire at .pl or .sy does to the L2: bulk sectors of remote memory are fetched again (R318). -/
def State.acquireL2 (s : State) (scope : Nat) : State :=
  if scope < 5 then s
  else
    { s with l2 := s.l2.mapV fun key h =>
        if s.isRemote (key / 2 ^ 51) (key % 2 ^ 51 * 64) then
          match h.copy with
          | some x => if x.coh then h else { h with copy := if x.dirty = 0 then Option.none else some { x with valid := x.dirty } }
          | Option.none => h
        else h }

/-- The cache action of an acquire on core c (R323). `local1` says that the scope is .bk of a block on one core or below. -/
def State.acquire (s : State) (c scope : Nat) (local1 : Bool) : State :=
  if local1 then s
  else
    let k := s.core c
    let l1 := k.l1.mapV fun key x => if x.coh then x else { x with valid := x.valid &&& wordMask ((s.home key).wordsOf c) }
    (s.setCore c { k with l1 := l1.filter fun _ x => x.coh || x.valid != 0 }).acquireL2 scope

/-- The agent at the cursor's request to the host for a line (R419). -/
def State.hostReq (s : State) (r : CacheReq) (func sec a : Nat) (sent : Bool) : CReq :=
  { r := r, func := func, sec := sec, addr := a, port := s.hostPortFor (sec * 64), ctx := s.curCtx, core := s.cur.core, fid := s.cur.fid
    engine := s.cur.engine, failed := false, sent := sent }

/-- The agent holds a host line for one function at a time (R419): one held for another sector is evicted first. None while a transfer owns that sector. -/
def State.freeLine (s : State) (func sec a : Nat) : Option State :=
  match s.lines.get? (a / 64) with
  | none => some s
  | some ln =>
    let k := secKey ln.func ln.gsec
    if ln.func = func ∧ ln.gsec = sec then some s
    else if (s.home k).owner.isSome then none
    else
      let s := if ln.curr.isNone && (s.home k).copy.isNone then s.emit (.evict .cleanEvictNoData (a / 64 * 64) 0 false) else s.evictL2 k
      some { s with lines := s.lines.erase (a / 64) }

/-- Ask the host for a line, where it has not been asked. Another agent that needs the line for the same function waits for the same answer; one that needs it for another
function asks later (R419). -/
def State.askHost (s : State) (r : CacheReq) (func sec a : Nat) : State :=
  let asked := s.creqs.filter fun x => x.addr / 64 == a / 64 && !x.failed
  let mine (x : CReq) : Bool := x.core == s.cur.core && x.fid == s.cur.fid && x.engine == s.cur.engine
  if asked.isEmpty then
    match s.freeLine func sec a with
    | none => s
    | some s => { s with creqs := s.creqs ++ [s.hostReq r func sec a true], out := s.out ++ [.cacheReq r (a / 64 * 64)] }
  else if asked.all (fun x => x.func == func && x.sec == sec) && !asked.any mine then { s with creqs := s.creqs ++ [s.hostReq r func sec a false] }
  else s

/-- Make the requests that an access waits for, where they are not already outstanding (R414, R419). -/
def State.request (s : State) (n : Need) : State :=
  match n with
  | .held => s
  | .pressPlace c fid pc =>
    let p := (s.core c).press
    s.setCore c { s.core c with press := { p with asked := (p.asked.filter fun w => w.1 != fid) ++ [(fid, pc)] } }
  | .snoop inv func sec a =>
    if s.snoops.any fun x => x.func == func && x.sec == sec && x.pkg == none then s
    else { s with snoops := s.snoops ++ [⟨inv, func, sec, a, s.clock, none⟩], out := s.out ++ [.bisnp inv a] }
  | .peer inv func sec a pkg =>
    if s.snoops.any fun x => x.func == func && x.sec == sec && x.pkg == some pkg then s
    else { s with snoops := s.snoops ++ [⟨inv, func, sec, a, s.clock, some pkg⟩], out := s.out ++ [.bisnp inv a] }
  | .cache r func sec a => s.askHost r func sec a

end Sys2Proof.Machine
end

