-- ==== Sys2Proof/Machine/Translate.lean ====
section
/-!
DEFINITION. Sys2Proof/Machine/Translate.lean: the first stage (R334 to R339), the heap window, the page-table walk, the TLB, and instruction fetch (R465).
-/
namespace Sys2Proof.Machine

open Sys2Proof

/-- Kinds of access for translation (R335). -/
inductive Access where
  | read | write | rmw | fetch
deriving DecidableEq, Repr

/-- The result of a first-stage translation: an address with its page's class, or the fault's KIND, MALF, STAGE and GPA (R338, R350). -/
inductive Xl where
  | ok (gpa : Nat) (cls : Bool)
  | fault (kind : Nat) (malf : Bool) (stage gpa : Nat)
  | noncanon
  | wait (n : Need)
deriving DecidableEq, Repr

/-- Whether a 64-bit address is canonical (R162, R334). -/
def canonical (va : W64) : Bool :=
  let t := va.extractLsb' 56 8
  t == 0 || t == 0xFF#8

/-- Whether a leaf allows an access (R337). -/
def TlbE.allows (e : TlbE) : Access → Bool
  | .read => e.rd
  | .write => e.wr
  | .rmw => e.rd && e.wr
  | .fetch => e.ex

/-- Whether a leaf maps an address of its context. -/
def TlbE.hits (e : TlbE) (ctx : Nat) (va : W64) : Bool :=
  e.ctx == ctx && va >>> e.bits == e.va >>> e.bits

/-- The address a leaf gives. -/
def TlbE.gpa (e : TlbE) (va : W64) : Nat := e.pa.toNat + va.toNat % 2 ^ e.bits

/-- One outcome of a walk. -/
inductive WalkRes where
  | leaf (e : TlbE)
  | fault (kind : Nat) (malf : Bool) (stage gpa : Nat)
  | wait (n : Need)
deriving DecidableEq, Repr

/-- What a page-table entry at a level says (R337): malformed, not present, a table, or a leaf of 2^n bytes. -/
inductive Pte where
  | malformed
  | absent
  | table (addr : Nat)
  | leaf (bits : Nat) (e : Nat)
deriving DecidableEq, Repr

def classifyPte (lvl e : Nat) : Pte :=
  let addr := bitsN e 12 45 * 2 ^ 12
  let t := e.testBit 1
  let c := e.testBit 6
  if !e.testBit 0 then .absent
  else if bitsN e 7 5 ≠ 0 ∨ bitsN e 57 7 ≠ 0 then .malformed
  else if t then
    if lvl = 0 ∨ c then .malformed else .table addr
  else if lvl ≥ 3 then .malformed
  else if c ∧ lvl ≠ 0 then .malformed
  else
    let bits := if lvl = 0 then (if c then 16 else 12) else 12 + 9 * lvl
    if addr % 2 ^ bits ≠ 0 then .malformed else .leaf bits e

/-- The leaf translation that an entry gives. -/
def leafOf (ctx : Nat) (va : W64) (bits e : Nat) : TlbE :=
  { ctx := ctx, va := (va >>> bits) <<< bits, bits := bits, pa := BitVec.ofNat 57 (bitsN e 12 45 * 2 ^ 12)
    rd := e.testBit 2, wr := e.testBit 3, ex := e.testBit 4, coh := e.testBit 5 }

/-- One entry read through the second stage of the context's function (R338): the entry, a failure that makes it malformed, or a wait. -/
inductive EntryRd where
  | ok (e : Nat)
  | poisoned
  | bad (stage : Nat)
  | wait (n : Need)
deriving DecidableEq, Repr

/-- The outcome of a read of an entry at its home. -/
def entryOf (a : Nat) : Acc (BitVec 512 × BitVec 16) → EntryRd
  | .ok _ (d, p) => if p &&& wordsTouched (maskOf (a % 64) 8) != 0 then .poisoned else .ok (secNum d (a % 64) 8)
  | .bad _ stage => .bad stage
  | .wait n => .wait n

/-- The state that a read leaves: as it was where the read was not made. -/
def Acc.after {α : Type} (s : State) : Acc α → State
  | .ok s' _ => s'
  | _ => s

def State.readEntry (s : State) (func a : Nat) : State × EntryRd :=
  let r := s.lookSec func (a / 64)
  (r.after s, entryOf a r)

/-- The outcome of reading the entry of a level, given what the rest of the walk would be. -/
def State.walkEntry (s : State) (func ctx : Nat) (va : W64) (lvl a : Nat) (deeper : State → Nat → State × List WalkRes) : State × List WalkRes :=
  match s.readEntry func a with
  | (s, .wait n) => (s, [.wait n])
  | (s, .poisoned) => (s, [.fault 1 true 1 0])
  | (s, .bad stage) => (s, [.fault 1 true stage a])
  | (s, .ok e) =>
    match classifyPte lvl e with
    | .malformed => (s, [.fault 1 true 1 0])
    | .absent => (s, [.fault 0 false 1 0])
    | .table t => deeper s t
    | .leaf bits e => (s, [.leaf (leafOf ctx va bits e)])

/-- The translations that a level 0 table gives an address: its own entry, and any valid entry with C = 1 of its 64 KiB group where they
differ (R337). -/
def State.walkLast (s : State) (func ctx : Nat) (va : W64) (table : Nat) : State × List WalkRes :=
  let idx := bitsN va.toNat 12 9
  let own := s.walkEntry func ctx va 0 (table + 8 * idx) fun s _ => (s, [])
  let others := (List.range 16).filterMap fun j =>
    match (s.readEntry func (table + 8 * (idx / 16 * 16 + j))).2 with
    | .ok e =>
      if e.testBit 0 && e.testBit 6 then
        match classifyPte 0 e with
        | .leaf bits e => some (WalkRes.leaf (leafOf ctx va bits e))
        | _ => none
      else none
    | _ => none
  (own.1, own.2 ++ others.filter fun r => !own.2.contains r)

/-- The walk from a level down (R336). -/
def State.walk (s : State) (func ctx : Nat) (va : W64) : Nat → Nat → State × List WalkRes
  | 0, table => s.walkLast func ctx va table
  | lvl + 1, table =>
    s.walkEntry func ctx va (lvl + 1) (table + 8 * bitsN va.toNat (12 + 9 * (lvl + 1)) 9) fun s t => s.walk func ctx va lvl t

/-- The first stage for context ctx on core c (R335). Where a cached leaf or an entry of a C = 1 group gives another result than the walk, the choice
is free (R13, R339). -/
def State.translate (s : State) (c ctx : Nat) (va : W64) (acc : Access) : State × Xl :=
  let x := s.ctx ctx
  if !canonical va then (s, .noncanon)
  else if x.hlimit ≠ 0 ∧ x.hbase.toNat ≤ va.toNat ∧ va.toNat < x.hbase.toNat + x.hlimit.toNat then
    if acc = .fetch then (s, .fault 1 false 1 0) else (s, .ok ((va + x.hoffset).toNat % 2 ^ 57) false)
  else
    let (s, walked) := if x.ptroot = 0 then (s, [WalkRes.fault 0 false 1 0]) else s.walk (s.funcOf ctx) ctx va 4 (x.ptroot.toNat % 2 ^ 57)
    let cached := (s.core c).tlb.filter fun e => e.hits ctx va && e.allows acc
    let all := walked ++ (cached.map WalkRes.leaf).filter fun r => !walked.contains r
    let (k, s) := s.pick all.length
    match all[k]? with
    | some (.leaf e) =>
      if e.allows acc then
        let r := s.core c
        (if r.tlb.contains e then s else s.setCore c { r with tlb := e :: r.tlb }, .ok (e.gpa va) e.coh)
      else (s, .fault 1 false 1 0)
    | some (.fault kind malf stage gpa) => (s, .fault kind malf stage gpa)
    | some (.wait n) => (s, .wait n)
    | none => (s, .fault 0 false 1 0)

-- ---------------------------------------------------------------------------------------------
-- Instruction fetch

/-- The 64-bit address of a 57-bit pc: canonical (assumption 15, DEDUCED). -/
def pcVa (pc : W57) : W64 := pc.signExtend 64

/-- The result of fetching an instruction: a word, or the failure: KIND, MALF, STAGE, GPA and whether a record is written (R351). -/
inductive Fetch where
  | ok (w : W96)
  | fault (kind : Nat) (malf : Bool) (stage gpa : Nat) (va : W64)
  | wait (n : Need)
deriving DecidableEq, Repr

/-- One 4-byte word of code through the core's instruction cache: where the cached and the current word differ, either (R465). A word that the core has not yet cached is
fetched as it stands now, after any store to it in the running launch, where R465 permits the older word as well (assumption 18, DESIGN CHOICE). -/
def State.fetchWord (s : State) (c ctx func : Nat) (va : W64) (gpa : Nat) : State × Except Fetch (BitVec 32) :=
  match s.lookSec func (gpa / 64) with
  | .wait n => (s, .error (.wait n))
  | .bad kind stage => (s, .error (.fault kind false stage gpa va))
  | .ok s (d, p) =>
    if p &&& wordsTouched (maskOf (gpa % 64) 4) != 0 then (s, .error (.fault 2 false 3 gpa va))
    else
      let cur := BitVec.ofNat 32 (secNum d (gpa % 64) 4)
      let key := ctx * 2 ^ 64 + va.toNat
      let r := s.core c
      match r.icache.get? key with
      | none => (s.setCore c { r with icache := r.icache.set key cur }, .ok cur)
      | some old =>
        if old = cur then (s, .ok cur)
        else
          let (k, s) := s.pick 2
          (s, .ok (if k = 0 then old else cur))

/-- The twelve bytes of an instruction at a pc of a context (R27, R40). -/
def State.fetch (s : State) (c ctx : Nat) (pc : W57) : State × Fetch :=
  let func := s.funcOf ctx
  let step (acc : State × Except Fetch (Nat × Nat × Nat)) (j : Nat) : State × Except Fetch (Nat × Nat × Nat) :=
    match acc with
    | (s, .error e) => (s, .error e)
    | (s, .ok (w, page, base)) =>
      let va := pcVa (pc + BitVec.ofNat 57 (4 * j))
      let (s, g) : State × Xl :=
        if j > 0 ∧ va.toNat / 4096 = page then (s, .ok (base + va.toNat % 4096) false) else s.translate c ctx va .fetch
      match g with
      | .noncanon => (s, .error (.fault 1 false 0 0 va))
      | .fault kind malf stage gpa => (s, .error (.fault kind malf stage gpa va))
      | .wait n => (s, .error (.wait n))
      | .ok gpa _ =>
        match s.fetchWord c ctx func va gpa with
        | (s, .ok x) => (s, .ok (w + x.toNat * 2 ^ (32 * j), va.toNat / 4096, gpa - va.toNat % 4096))
        | (s, .error e) => (s, .error e)
  match (List.range 3).foldl step (s, .ok (0, 0, 0)) with
  | (s, .ok (w, _, _)) => (s, .ok (BitVec.ofNat 96 w))
  | (s, .error e) => (s, e)

end Sys2Proof.Machine
end

