-- ==== Sys2Proof/Machine/Routes.lean ====
section
/-!
DEFINITION. Sys2Proof/Machine/Routes.lean: what the dies read in a context's space for themselves, process-group tables (R400, R401), and the routes that they give to traffic
between compute packages (R25, R401, R428).
-/
namespace Sys2Proof.Machine

open Sys2Proof

/-- The first stage of a context at a die: no core's TLB takes part (R335, R339). -/
def State.dieTranslate (s : State) (ctx : Nat) (va : W64) (acc : Access) : State × Xl :=
  let r := s.translate 1000 ctx va acc
  (if s.cores.has 1000 then r.1 else { r.1 with cores := r.1.cores.erase 1000 }, r.2)

/-- The result of a read in a context's space. -/
inductive VaRd where
  | ok (x : Nat)
  | fault
  | poison
  | wait (n : Need)
deriving DecidableEq, Repr

/-- n bytes of a sector at its home (R320). -/
def State.readGpa (s : State) (func gpa n : Nat) : State × VaRd :=
  match s.lookSec func (gpa / 64) with
  | .wait w => (s, .wait w)
  | .bad _ _ => (s, .fault)
  | .ok s (d, p) => (s, if p &&& wordsTouched (maskOf (gpa % 64) n) != 0 then .poison else .ok (secNum d (gpa % 64) n))

/-- n bytes from a virtual address of a context, sector by sector in rising order. -/
def State.readVa (s : State) (ctx : Nat) : Nat → W64 → Nat → State × VaRd
  | 0, _, _ => (s, .ok 0)
  | fuel + 1, va, n =>
    if n = 0 then (s, .ok 0)
    else
      let k := min n (64 - va.toNat % 64)
      match s.dieTranslate ctx va .read with
      | (s, .noncanon) => (s, .fault)
      | (s, .fault _ _ _ _) => (s, .fault)
      | (s, .wait w) => (s, .wait w)
      | (s, .ok gpa _) =>
        match s.readGpa (s.funcOf ctx) gpa k with
        | (s, .ok x) =>
          match s.readVa ctx fuel (va + BitVec.ofNat 64 k) (n - k) with
          | (s, .ok y) => (s, .ok (x + y * 2 ^ (8 * k)))
          | r => r
        | r => r

/-- Reads of at most this many bytes. -/
def State.readBytes (s : State) (ctx : Nat) (va : W64) (n : Nat) : State × VaRd := s.readVa ctx (n / 64 + 2) va n

-- ---------------------------------------------------------------------------------------------
-- Process-group tables

/-- A table as read: its generation and its members with HEALTHY (R400). -/
structure Pgt where
  gen   : Nat
  comps : List (Nat × Bool)
  pools : List (Nat × Bool)
deriving DecidableEq, Repr

/-- The outcome of reading a table. -/
inductive PgtRd where
  | ok (t : Pgt)
  | bad
  | fault
  | poison
  | wait (n : Need)
deriving DecidableEq, Repr

def State.readPgt (s : State) (ctx : Nat) (va : W64) : State × PgtRd :=
  match s.readBytes ctx va 8 with
  | (s, .fault) => (s, .fault)
  | (s, .poison) => (s, .poison)
  | (s, .wait n) => (s, .wait n)
  | (s, .ok h) =>
    let nc := bitsN h 0 8
    let np := bitsN h 8 8
    if nc = 0 ∨ nc > 32 ∨ np > 16 then (s, .bad)
    else
      match s.readBytes ctx (va + 8) (8 * (nc + np)) with
      | (s, .fault) => (s, .fault)
      | (s, .poison) => (s, .poison)
      | (s, .wait n) => (s, .wait n)
      | (s, .ok m) =>
        let member (i : Nat) : Nat × Bool := (bitsN m (64 * i) 16, m.testBit (64 * i + 16))
        (s, .ok ⟨bitsN h 32 32, (List.range nc).map member, (List.range np).map fun i => member (nc + i)⟩)

/-- The healthy compute and pool members. -/
def Pgt.healthyComps (t : Pgt) : List Nat := (t.comps.filter (·.2)).map (·.1)
def Pgt.healthyPools (t : Pgt) : List Nat := (t.pools.filter (·.2)).map (·.1)

/-- nc, and the rank r of a package: none where it is not a healthy member (R401). -/
def Pgt.rank (t : Pgt) (ident : Nat) : Option Nat :=
  let hs := t.healthyComps
  if hs.contains ident then some (hs.findIdx (· == ident)) else none

/-- The blocks of a grid that rank r of nc runs (R401). -/
def shareOf (b r nc : Nat) : Nat × Nat := if nc = 0 then (0, b) else (b * r / nc, b * (r + 1) / nc)

-- ---------------------------------------------------------------------------------------------
-- Routes

/-- The package of a peer extent that an address lies in: traffic to it passes through a pool package (R25, R341). -/
def State.peerAt (s : State) (func gpa : Nat) : Option Nat :=
  match s.extent func gpa with
  | some e => if e.tgt = 1 then some e.pkg else none
  | none => none

/-- The route that a table gives between this package and another: healthy pool member (a + b) mod np (R401). The outer option is empty where the table ranks neither pair: then
it gives no route (assumption 82, DESIGN CHOICE). -/
def Pgt.route (t : Pgt) (here pkg : Nat) : Option (Option Nat) :=
  match t.rank here, t.rank pkg with
  | some a, some b => some (if t.healthyPools.length = 0 then none else t.healthyPools[(a + b) % t.healthyPools.length]?)
  | _, _ => none

/-- Before traffic to an address leaves, the agent of a launch reads its route to a peer afresh from its process-group table (R401); one without a table, and one whose table
cannot be read, has no route of its own (assumption 82, DESIGN CHOICE). -/
def State.takeRoute (s : State) (ctx : Nat) (pgt : W64) (gpa : Nat) : Acc Unit :=
  match s.peerAt (s.funcOf ctx) gpa with
  | none => .ok s ()
  | some pkg =>
    if pgt = 0 ∨ s.via.has pkg then .ok s ()
    else
      match s.readPgt ctx pgt with
      | (_, .wait n) => .wait n
      | (s, .ok t) => .ok (match t.route s.ident.toNat pkg with
        | some r => { s with via := s.via.set pkg r }
        | none => s) ()
      | (s, _) => .ok s ()

/-- The routes for a range of a context's space, page by page. An address that does not translate has none; its access fails by itself. -/
def State.routeRange (s : State) (ctx : Nat) (pgt va : W64) (n : Nat) : Acc Unit :=
  if pgt = 0 then .ok s ()
  else (List.range (n / 4096 + 2)).foldl (fun (acc : Acc Unit) k => acc.bind fun s _ =>
    match s.dieTranslate ctx (va + BitVec.ofNat 64 (min (4096 * k) (n - 1))) .read with
    | (_, .wait w) => .wait w
    | (s, .ok gpa _) => s.takeRoute ctx pgt gpa
    | (s, _) => .ok s ()) (.ok s ())

/-- A read of n bytes in a context's space on the routes of a table. -/
def State.readFar (s : State) (ctx : Nat) (pgt va : W64) (n : Nat) : State × VaRd :=
  match s.routeRange ctx pgt va n with
  | .ok s _ => s.readBytes ctx va n
  | .bad _ _ => (s, .fault)
  | .wait w => (s, .wait w)

/-- The table of a launch, 0 where it has none. -/
def State.tableOf (s : State) (launch : Nat) : W64 := ((s.launch? launch).map (·.pgt)).getD 0

/-- The route for an access of the agent at the cursor. -/
def State.routeHere (s : State) (ctx gpa : Nat) : Acc Unit :=
  s.takeRoute ctx (if s.cur.engine then (s.eng s.cur.core s.cur.fid).pgt else s.tableOf (((s.flight? s.cur.core s.cur.fid).map (·.launch)).getD 0)) gpa

end Sys2Proof.Machine
end

