-- ==== Sys2Proof/Machine/Land.lean ====
section
/-!
DEFINITION. Sys2Proof/Machine/Land.lean: what lands in registers, scratchpad and memory: places and scopes (R320), fault tokens (R100 to R102), committing register
writes (R42), scratchpad bytes (R222 to R225, R302, R303), barriers' releases of threads (R210, R227, R231, R306), and the pieces of engine transfers
(R279 to R282, R330).
-/
namespace Sys2Proof.Machine

open Sys2Proof

-- ---------------------------------------------------------------------------------------------
-- Privilege and places

/-- Firmware is context 0 (R367). -/
def isFirmware (ctx : Nat) : Bool := ctx == 0

/-- Steward or firmware privilege (R354, R367). -/
def isPrivileged (ctx : Nat) : Bool := ctx ≤ 20

/-- The home core and key of a flight's block, and the block. -/
def State.blockOf (s : State) (f : Flight) : Option (Nat × Block) :=
  let home := s.cores.entries.findSome? fun e =>
    match e.2.blocks.get? f.block with
    | some b => if b.launch == f.launch && !b.cores.isEmpty then some (e.1, b) else none
    | none => none
  home

/-- The group of a block, or none. -/
def State.groupOf (s : State) (b : Block) : Option Group := s.groups.get? b.group

/-- The home core of member 0 of a block's cluster group (R300). -/
def State.groupHome (s : State) (home : Nat) (b : Block) : Nat :=
  match s.groupOf b with
  | some g => (g.members.head?.map (·.1)).getD home
  | none => home

/-- Every core that was admitted blocks of a block's cluster group. -/
def State.groupCores (s : State) (b : Block) : List Nat :=
  match s.groupOf b with
  | some g => g.cores
  | none => b.cores

/-- Whether .bk of a flight's block is served by one core (R322, R323). -/
def State.oneCore (s : State) (f : Flight) : Bool :=
  match s.blockOf f with
  | some (_, b) => decide (b.cores.length ≤ 1)
  | none => true

/-- The site of a scope for a flight on core c (R320). -/
def State.siteOf (s : State) (_c : Nat) (f : Flight) (scope : Nat) : Site :=
  if scope = 0 then .own
  else if scope ≤ 2 then
    match s.blockOf f with
    | some (h, b) => if b.cores.length ≤ 1 then .own else .l1 h
    | none => .own
  else if scope = 3 then
    match s.blockOf f with
    | some (h, b) => if (s.groupCores b).length ≤ 1 then .own else .l1 (s.groupHome h b)
    | none => .own
  else if scope = 4 then .home
  else if scope = 5 then .ctl
  else .agent

/-- The acquire of a thread of a flight on core c (R323). -/
def State.acquireBy (s : State) (c : Nat) (f : Flight) (scope : Nat) : State :=
  s.acquire c scope (scope ≤ 1 || (scope == 2 && s.oneCore f))

-- ---------------------------------------------------------------------------------------------
-- Fault tokens

/-- The value poison(k) (R53). -/
def poisonBits (k : Nat) : W32 := 0x7FFFFFF0#32 ||| BitVec.ofNat 32 (k % 16)

/-- The token a poisoned value carries. -/
def tokenOf (x : W32) : Nat := x.toNat % 16

/-- REFS of a token entry (R102): the registers of live threads that carry it. -/
def Flight.refs (f : Flight) (k : Nat) : Nat :=
  f.threads.entries.foldl (fun n e =>
    if e.2.live then n + (e.2.v.entries.filter fun r => r.2.psn && tokenOf r.2.val == k).length else n) 0

/-- Whether a load that has not landed will deliver the token. -/
def Flight.tokWaits (f : Flight) (k : Nat) : Bool :=
  f.loads.entries.any fun l => l.2.res.any fun r => r.2 == .tok k

/-- Entries whose count has reached zero are free (R102). -/
def Flight.gcToks (f : Flight) : Flight :=
  if f.toks.entries = [] then f else { f with toks := f.toks.filter fun k _ => f.refs k > 0 || f.tokWaits k }

/-- The lowest free entry from 1 to 15 (R101). -/
def Flight.freeTok (f : Flight) : Option Nat := ((List.range 15).map (· + 1)).find? fun k => !f.toks.has k

/-- KIND of a token: entry 0 is permanent, of KIND 2 (R100). -/
def Flight.tokKind (f : Flight) (k : Nat) : Nat := if k = 0 then 2 else ((f.toks.get? k).map (·.kind)).getD 0

/-- sys.poisontok for a token (R108). -/
def tokWord (k kind : Nat) : W32 := BitVec.ofNat 32 (k + kind * 16 + 0x100)

-- ---------------------------------------------------------------------------------------------
-- Committing register writes

/-- One staged write into a thread and its flight (R42). Pending bits are not touched (R46). -/
def Flight.commitOne (f : Flight) (l : Nat) : SWrite → Flight
  | .v i x p =>
    let t := f.thread l
    let r := t.v.getD i ⟨0, false, false⟩
    f.setThread l { t with v := t.v.set i { r with val := x, psn := p } }
  | .s i x => { f with s := f.s.set i x }
  | .p i b =>
    let t := f.thread l
    f.setThread l { t with preds := if b then t.preds ||| (1#7 <<< i) else t.preds &&& ~~~(1#7 <<< i) }
  | .k i m => { f with k := f.k.set i m }
  | .sp x => f.setThread l { f.thread l with sp := x }

def Flight.commit (f : Flight) (l : Nat) (ws : List SWrite) : Flight := ws.foldl (fun f w => f.commitOne l w) f

/-- Whether a write has a pending bit: predicates and sys.sp have none (R45). -/
def SWrite.pends : SWrite → Bool
  | .v _ _ _ => true
  | .s _ _ => true
  | .k _ _ => true
  | _ => false

/-- Whether a write's register is the flight's. -/
def SWrite.shared : SWrite → Bool
  | .s _ _ => true
  | .k _ _ => true
  | _ => false

/-- Set or clear the pending bits of n registers of a thread from one up (R45). -/
def Flight.pendV (f : Flight) (l i n : Nat) (b : Bool) : Flight :=
  let t := f.thread l
  f.setThread l { t with v := (List.range n).foldl (fun m j => m.set (i + j) { m.getD (i + j) ⟨0, false, false⟩ with pend := b }) t.v }

/-- Set or clear the pending bit of the register of one write (R45). -/
def Flight.pendOne (f : Flight) (b : Bool) (x : Nat × SWrite) : Flight :=
  match x.2 with
  | .v i _ _ => f.pendV x.1 i 1 b
  | .s i _ => { f with sPend := if b then f.sPend ||| (1#64 <<< i) else f.sPend &&& ~~~(1#64 <<< i) }
  | .k i _ => { f with kPend := if b then f.kPend ||| (1#8 <<< i) else f.kPend &&& ~~~(1#8 <<< i) }
  | _ => f

/-- Set or clear the pending bits of some writes, each with its lane. -/
def Flight.pendAll (f : Flight) (b : Bool) (xs : List (Nat × SWrite)) : Flight := xs.foldl (fun f x => f.pendOne b x) f

/-- A held thread passes: the flight's shared writes of its run commit with the first thread to pass, then its own, the pending bits that the run's members set
clear, and the thread goes on (R36, R42, R116, R239). -/
def Flight.pass (f : Flight) (l : Nat) (p : Pass) : Flight :=
  let shared := f.heldRuns.getD p.run []
  let f := f.pendAll false (if f.heldRuns.has p.run then p.pend else p.pend.filter fun x => !x.2.shared)
  let f := { f with heldRuns := f.heldRuns.erase p.run }
  let f := (f.commit l shared).commit l p.writes
  (f.setThread l { f.thread l with hold := .none, pc := p.next, entering := none }).gcToks

-- ---------------------------------------------------------------------------------------------
-- Releases of held threads

/-- RCV (R210): release every held thread whose named threads have arrived or exited; a barrier with no thread held is cleared. -/
def Flight.rcvCheck (f : Flight) : Flight :=
  let live := f.liveMask
  let ready (t : Thread) : Bool :=
    match t.hold with
    | .rcv id m => m &&& live &&& ~~~(f.arrive.getD id 0) == 0
    | _ => false
  let threads := f.threads.mapV fun _ t => if ready t then { t with hold := .none } else t
  let released := f.threads.entries.filterMap fun e => if ready e.2 then (match e.2.hold with
    | .rcv id _ => some id
    | _ => none) else none
  let heldAt (id : Nat) : Bool := threads.entries.any fun e => match e.2.hold with
    | .rcv j _ => j == id
    | _ => false
  { f with threads := threads, arrive := f.arrive.filter fun id _ => !(released.contains id) || heldAt id }

/-- The flights of a block as core and key. -/
def State.flightsOf (s : State) (b : Block) : List (Nat × Nat × Flight) :=
  b.flights.filterMap fun e => (s.flight? e.1 e.2).map fun f => (e.1, e.2, f)

/-- The names of a block's live threads: flight index * 32 + lane. -/
def State.liveThreads (s : State) (b : Block) : List Nat :=
  (s.flightsOf b).flatMap fun e => (lanesOf e.2.2.liveMask).map fun l => e.2.2.idx * 32 + l

/-- Release the threads of some flights held under a condition. -/
def State.releaseHeld (s : State) (fl : List (Nat × Nat × Flight)) (p : Hold → Bool) : State :=
  fl.foldl (fun s e =>
    match s.flight? e.1 e.2.1 with
    | none => s
    | some f => s.setFlight e.1 e.2.1
        { f with threads := f.threads.mapV fun _ t => if p t.hold then { t with hold := .none } else t }) s

/-- check(id) of BAR (R227): when every live thread of the block has arrived, the held threads go on, with an acquire at .bk. -/
def State.barCheck (s : State) (home key id : Nat) : State :=
  match s.block? home key with
  | none => s
  | some b =>
    let arrived := b.bars.getD id []
    let live := s.liveThreads b
    if arrived = [] ∨ !(live.all fun t => arrived.contains t) then s
    else
      let fl := s.flightsOf b
      let s := s.releaseHeld fl (· == .bar id)
      let s := s.setBlock home key { b with bars := b.bars.erase id }
      if b.cores.length ≤ 1 then s else b.cores.foldl (fun s c => s.acquire c 2 false) s

/-- A member of a group that is resident: the block at its place, unless that is one of another group by now. -/
def State.member? (s : State) (gkey : Nat) (m : Nat × Nat) : Option Block := (s.block? m.1 m.2).filter fun b => b.group == gkey

/-- The members of a group that are resident. -/
def State.membersOf (s : State) (gkey : Nat) (g : Group) : List Block := g.members.filterMap fun m => s.member? gkey m

/-- check(id) of CBAR (R306): as BAR, over every member of the group, with an acquire at .cl. -/
def State.cbarCheck (s : State) (gkey id : Nat) : State :=
  match s.groups.get? gkey with
  | none => s
  | some g =>
    let arrived := g.cbars.getD id []
    let live := (s.membersOf gkey g).flatMap fun b => (s.liveThreads b).map fun t => b.member * 2 ^ 16 + t
    if arrived = [] ∨ !(live.all fun t => arrived.contains t) then s
    else
      let fl := (s.membersOf gkey g).flatMap fun b => s.flightsOf b
      let s := s.releaseHeld fl (· == .cbar id)
      let s := { s with groups := s.groups.set gkey { g with cbars := g.cbars.erase id } }
      (uniqN ((s.membersOf gkey g).flatMap (·.cores))).foldl (fun s c => s.acquire c 3 false) s

/-- Let the threads of a core held by CBWAIT on a barrier, or one engine thread held by ECBWAIT, go on (R231, R239, R291). -/
def State.cbRelease (s : State) (c cb : Nat) : State :=
  let scope := (s.cb c cb).scope
  let k := s.core c
  let s := k.flights.entries.foldl (fun s e =>
    match s.flight? c e.1 with
    | none => s
    | some f =>
      let lanes := f.threads.entries.filterMap fun t => match t.2.hold with
        | .cbWait b p => if b = cb then some (t.1, p) else none
        | _ => none
      if lanes = [] then s
      else (s.setFlight c e.1 (lanes.foldl (fun f lp => f.pass lp.1 lp.2) f)).acquireBy c f scope) s
  (s.core c).engs.entries.foldl (fun s e =>
    if e.2.run = .heldCb cb then (s.setEng c e.1 { e.2 with run := .running, pc := e.2.pc + 12 }).acquire c scope false else s) s

/-- The threads of a core that RJOIN holds on a fork go on when it has ended, with an acquire at .dv (R267). -/
def State.joinRelease (s : State) (c gen : Nat) : State :=
  (s.core c).flights.entries.foldl (fun s e =>
    match s.flight? c e.1 with
    | none => s
    | some f =>
      let lanes := f.threads.entries.filterMap fun t => match t.2.hold with
        | .rjoin n p => if n = gen then some (t.1, p) else none
        | _ => none
      if lanes = [] then s
      else (s.setFlight c e.1 (lanes.foldl (fun f lp => f.pass lp.1 lp.2) f)).acquireBy c f 4) s

/-- What a step leaves as the count: a saturated barrier keeps its count until CBARM.RST (R231; assumption 22, DEDUCED). -/
def CBar.moved (b : CBar) (n : Int) : CBar := { b with count := if b.sat then b.count else n }

/-- Any step that leaves the barrier armed with a count of zero releases the waiters of CBWAIT, the service of a CBACQ too (R231; assumption 22, DEDUCED). -/
def State.cbZero (s : State) (c cb : Nat) : State :=
  let b := s.cb c cb
  if b.armed ∧ b.count = 0 then s.cbRelease c cb else s

/-- serve_queue of R231: the head of the CBACQ queue is served while the count covers its amount. Fuel: the length of the queue. -/
def State.serveQueue (s : State) (c cb : Nat) : Nat → State
  | 0 => s
  | n + 1 =>
    let b := s.cb c cb
    match b.queue with
    | [] => s
    | (fid, l, k) :: rest =>
      if b.count < (k : Int) then s
      else
        let s := (s.setCb c cb { b.moved (b.count - k) with queue := rest }).cbZero c cb
        match s.flight? c fid with
        | none => s.serveQueue c cb n
        | some f =>
          match (f.thread l).hold with
          | .cbAcq _ _ p => ((s.setFlight c fid (f.pass l p)).acquireBy c f b.scope).serveQueue c cb n
          | _ => s.serveQueue c cb n

/-- cb_update of R231 but for its context trap: add a signed amount, saturating; release waiters at an armed zero, and serve the queue. Answers
whether the count saturated. -/
def State.cbCount (s : State) (c cb : Nat) (d : Int) : State × Bool :=
  let b := s.cb c cb
  let n := b.count + d
  let top : Int := 2 ^ 39 - 1
  let bot : Int := -(2 ^ 39)
  let ovf := !b.sat && (n > top || n < bot)
  let n' := if n > top then top else if n < bot then bot else n
  let s := (s.setCb c cb { b.moved n' with sat := b.sat || ovf }).cbZero c cb
  (s.serveQueue c cb (b.queue.length), ovf)

-- ---------------------------------------------------------------------------------------------
-- Landings

/-- Note a failure after issue, to be reported by the event STORE_FAILURE (R169, R342). -/
def State.noteFailure (s : State) (ctx c flight kind stage gpa : Nat) : State :=
  { s with failures := s.failures ++ [⟨ctx, c, flight, kind == 3, stage, kind, 0, BitVec.ofNat 64 gpa, true⟩] }

/-- Write the registers of a landing: the pending bits are cleared (R45). -/
def Flight.landRegs (f : Flight) (l dst n : Nat) (sup : Bool) (ws : List (W32 × Bool)) : Flight :=
  let f := if sup then f else (List.range ws.length).foldl (fun (f : Flight) j =>
    match ws[j]? with
    | some w => f.commitOne l (.v (dst + j) w.1 w.2)
    | none => f) f
  f.pendV l dst n false

/-- A scratchpad word; one that nothing has written since the grant holds zero where the core zeroed its scratchpad (R221), else a free value (R216, assumption 8,
DEDUCED). -/
def Block.word (b : Block) (w : Nat) : SpWord := (b.spad.get? w).getD ⟨if b.zeroed then 0 else Config.freeSpad b.seed w, false⟩

/-- n bytes of scratchpad from an offset, as a number. -/
def Block.spadNum (b : Block) (off n : Nat) : Nat :=
  let k := (off % 4 + n + 3) / 4
  let all := (List.range k).foldr (fun j acc => (b.word (off / 4 + j)).val.toNat + 2 ^ 32 * acc) 0
  bitsN all (8 * (off % 4)) (8 * n)

/-- Whether a word that the bytes touch is poisoned. -/
def Block.spadPsn (b : Block) (off n : Nat) : Bool :=
  (List.range ((off % 4 + n + 3) / 4)).any fun j => (b.word (off / 4 + j)).psn

/-- Write n bytes: a word written whole takes the poison given, a word written in part keeps its own as well (R225). -/
def Block.spadPut (b : Block) (off n x : Nat) (psn : Bool) : Block :=
  let k := (off % 4 + n + 3) / 4
  { b with spad := (List.range k).foldl (fun (m : KMap SpWord) j =>
      let w := off / 4 + j
      let old := b.word w
      let lo := max off (4 * w)
      let hi := min (off + n) (4 * w + 4)
      let len := hi - lo
      let field := bitsN x (8 * (lo - off)) (8 * len) * 2 ^ (8 * (lo - 4 * w))
      let hole := (2 ^ (8 * len) - 1) * 2 ^ (8 * (lo - 4 * w))
      let val := BitVec.ofNat 32 field ||| (old.val &&& ~~~BitVec.ofNat 32 hole)
      m.set w ⟨val, psn || (len < 4 && old.psn)⟩) b.spad }

/-- Whether n bytes from an offset lie inside a block's grant, which it has not released. -/
def Block.inGrant (b : Block) (off n : Nat) : Bool := b.granted && b.spadOpen && decide (off + n ≤ b.spadHeld)

/-- Bytes that the press and the engine threads of a block may use: the grant, which they keep after FREE until it is released (R218, R293). -/
def Block.holds (b : Block) (off n : Nat) : Bool := b.granted && decide (off + n ≤ b.spadHeld)

/-- The place of a cluster-window address for a block (R302, R303): the home core, key and offset of the member's bytes. `own` names a block that may use what it has freed. -/
def State.windowPlace (s : State) (b : Block) (a n : Nat) (own : Option (Nat × Nat) := none) : Option (Nat × Nat × Nat) :=
  if a / 2 ^ 24 ≠ 0 then none
  else
    match s.groups.get? b.group with
    | none => none
    | some g =>
      match if bitsN a 22 2 < g.first then none else g.members[bitsN a 22 2 - g.first]? with
      | none => none
      | some m =>
        match s.member? b.group m with
        | none => none
        | some x => if x.inGrant (a % 2 ^ 22) n || (own == some m && x.holds (a % 2 ^ 22) n) then some (m.1, m.2, a % 2 ^ 22) else none

-- ---------------------------------------------------------------------------------------------
-- Pieces of engine transfers

/-- An access that an owner of its sector may make (R281): the owner steps aside for it. The removal of its extent waits for it (R343). -/
def State.passOwner {α : Type} (s : State) (k : Nat) (ok : Owner → Bool) (f : State → Acc α) : Acc α :=
  match (s.home k).owner with
  | none => f s
  | some o =>
    if ok o then
      (f { s.setHome k { s.home k with owner := none } with leaving := [] }).bind fun t x =>
        .ok { t.setHome k { t.home k with owner := some o } with leaving := s.leaving } x
    else f s

/-- A sector is poisoned as a whole (R282). -/
def State.poisonSector (s : State) (k : Nat) : State :=
  let h := s.home k
  match h.copy with
  | some x => s.setHome k { h with copy := some { x with psn := BitVec.allOnes 16 } }
  | none => s

/-- A write to global memory by an engine, a sequencer or a delivery (R330): at the L2 home, or at the remote home; no word is registered, and no L1 copy of the sector
remains. -/
def State.writeUnit (s : State) (func gpa : Nat) (cls : Bool) (data : BitVec 512) (mask : BitVec 64) (psn : Bool) : Acc Unit :=
  let sec := gpa / 64
  let coh := s.isCoherent func gpa cls
  if s.isRemote func gpa then
    (s.writeAtCtl none func sec false coh data mask (if psn then BitVec.allOnes 16 else 0)).bind fun s _ => .ok (s.takeSector (secKey func sec)) ()
  else
    (s.writeAtHome none func sec false coh data mask 0).bind fun s _ =>
      let s := s.takeSector (secKey func sec)
      .ok (if psn then s.poisonSector (secKey func sec) else s) ()

/-- Release one owned sector. -/
def State.disownKey (s : State) (k : Nat) (o : Owner) : State :=
  if (s.home k).owner = some o then s.freeSector k else s

/-- The byte that a write of some bits leaves. -/
def PByte.over (b : PByte) (old : Nat) : Nat := (b.val &&& b.mask) ||| (old &&& (255 - b.mask))

/-- The sector data of the bytes of a piece over the sector as it stands, their byte mask, whether a byte is poisoned, and whether one is written in part. -/
def Cap.data (p : Cap) (old : BitVec 512) : BitVec 512 := p.bytes.foldl (fun (d : BitVec 512) b => d ||| numSec (b.over (secNum old b.pos 1)) b.pos) 0
def Cap.mask (p : Cap) : BitVec 64 := p.bytes.foldl (fun (m : BitVec 64) b => m ||| maskOf b.pos 1) 0
def Cap.psn (p : Cap) : Bool := p.bytes.any (·.psn)
def Cap.half (p : Cap) : Bool := p.bytes.any fun b => b.mask != 255

/-- A piece under a later one of its transfer that has landed: where both write one place the later one's value remains (R283, R288). -/
def Cap.under (p q : Cap) : Cap :=
  if p.space = q.space ∧ p.gpa = q.gpa ∧ p.core = q.core ∧ p.block = q.block then
    { p with bytes := p.bytes.filterMap fun b =>
        let m := b.mask - (b.mask &&& (q.bytes.foldl (fun (m : Nat) x => if x.pos = b.pos then m ||| x.mask else m) 0))
        if m = 0 then none else some { b with mask := m } }
  else p

/-- One scratchpad word takes the bytes of a piece that fall in it (R224, R282). -/
def Block.landWord (b : Block) (bytes : List PByte) (w : Nat) : Block :=
  let own := bytes.filter fun x => x.pos / 4 == w
  let psn := own.any (·.psn)
  let val := own.foldl (fun (n : Nat) x => n + x.over (b.spadNum x.pos 1) * 2 ^ (8 * (x.pos % 4))) 0
  if own.length = 4 then b.spadPut (4 * w) 4 val psn else own.foldl (fun (b : Block) x => b.spadPut x.pos 1 (x.over (b.spadNum x.pos 1)) psn) b

/-- The target flight of a TREG (R289): the flight of the engine thread's block with a number. -/
def State.tregFlight (s : State) (g : Eng) (idx : Nat) : Option (Nat × Nat × Flight) :=
  match s.block? g.home g.block with
  | none => none
  | some b => (s.flightsOf b).find? fun e => e.2.2.idx == idx

/-- One element of a TREG lands (R289); an exited thread's is discarded. -/
def State.landElem (s : State) (g : Eng) (t : Transfer) (m : Nat) (x : W32) (psn : Bool) : State :=
  let n := t.args.sc.idx.toNat
  match s.tregFlight g (t.scal.toNat % 256) with
  | none => s
  | some (c, fid, f) =>
    if (f.thread (m / n)).live then
      s.setFlight c fid (f.landRegs (m / n) (t.scal.toNat / 256 % 256 + m % n) 1 false [(if psn then poisonBits 0 else x, psn)]).gcToks
    else s

/-- A piece is written at its destination (R278). A refusal at a global home leaves it without effect, noted for the event STORE_FAILURE (R296). -/
def State.writeCap (s : State) (c e slot : Nat) (g : Eng) (t : Transfer) (p : Cap) : Acc Unit :=
  if p.bytes = [] then .ok s ()
  else if p.space = 0 then
    let func := s.funcOf g.ctx
    let write (s : State) : Acc Unit :=
      let old : Acc (BitVec 512 × BitVec 16) :=
        if !p.half then .ok s (0, 0)
        else if s.isRemote func p.gpa then s.readAtCtl func (p.gpa / 64) true true
        else s.readAtHome func (p.gpa / 64) p.mask
      old.bind fun s d => s.writeUnit func p.gpa p.cls (p.data d.1) p.mask p.psn
    match (s.takeRoute g.ctx g.pgt p.gpa).bind fun s _ => s.passOwner (secKey func (p.gpa / 64)) (· == .engine c e slot) write with
    | .bad kind stage => .ok (s.noteFailure g.ctx c g.flight kind stage p.gpa) ()
    | r => r
  else if p.space = 3 then .ok (p.bytes.foldl (fun (s : State) b => s.landElem g t b.pos (BitVec.ofNat 32 b.val) b.psn) s) ()
  else
    match s.block? p.core p.block with
    | none => .ok s ()
    | some b => .ok (s.setBlock p.core p.block ((uniqN (p.bytes.map fun x => x.pos / 4)).foldl (fun (b : Block) w => b.landWord p.bytes w) b)) ()

/-- A piece lands (R279, R281): it is written, its barrier counts it, and its sector is released when no piece to come needs it. Answers whether the barrier
saturated. -/
def State.landCap (s : State) (c e slot k : Nat) : Acc Bool :=
  let g := s.eng c e
  match g.slots.get? slot with
  | none => .ok s false
  | some t =>
    match t.flight.get? k with
    | none => .ok s false
    | some p =>
      (s.writeCap c e slot g t p).bind fun s _ =>
        let owned := t.owned.erase k
        let s := match t.owned.get? k with
          | some key => if owned.entries.any (fun x => x.2 == key) then s else s.disownKey key (.engine c e slot)
          | none => s
        let t := { t with flight := (t.flight.erase k).mapV (fun j q => if j < k then q.under p else q), owned := owned }
        let g := s.eng c e
        let s := s.setEng c e { g with slots := if t.done && t.flight.entries.isEmpty then g.slots.erase slot else g.slots.set slot t }
        if t.args.opt.getLsbD 7 then .ok s false
        else
          match s.cbCount c t.args.dst.idx.toNat (-(p.count : Int)) with
          | (s, ovf) => .ok s ovf

/-- The pieces of an engine thread that have been read and not landed, in engine program order (R280). -/
def Eng.inFlight (g : Eng) : List (Nat × Nat) :=
  let bySeq := (uniqN (g.slots.entries.map fun x => x.2.seq)).flatMap fun q => g.slots.entries.filter fun x => x.2.seq == q
  bySeq.flatMap fun x => x.2.flight.keys.map fun k => (x.1, k)

/-- An engine thread of a context that stops (R296): the pieces that have been read land, what it owns beyond them is released, and a hold or a load that has not
landed is abandoned. Answers the state and how many barriers saturated. -/
def State.stopEngine (s : State) (c e : Nat) : State × Nat :=
  let r := (s.eng c e).inFlight.foldl (fun (x : State × Nat) p =>
    match x.1.landCap c e p.1 p.2 with
    | .ok s ovf => (s, if ovf then x.2 + 1 else x.2)
    | _ => x) (s, 0)
  let s := r.1
  let g := s.eng c e
  let s := g.slots.entries.foldl (fun (s : State) x => x.2.owned.entries.foldl (fun (s : State) o => s.disownKey o.2 (.engine c e x.1)) s) s
  let g := { g with
    slots := g.slots.mapV fun _ t => { t with owned := .empty }
    load := none
    run := match g.run with
      | .heldCb _ => .running
      | x => x }
  (s.setEng c e g, r.2)

/-- Every engine thread of a context stops. -/
def State.stopEngines (s : State) (ctx : Nat) : State × Nat :=
  s.cores.entries.foldl (fun (x : State × Nat) k =>
    k.2.engs.entries.foldl (fun (x : State × Nat) e =>
      if e.2.ctx = ctx then
        let r := x.1.stopEngine k.1 e.1
        (r.1, x.2 + r.2)
      else x) x) (s, 0)

end Sys2Proof.Machine
end

