-- ==== Sys2Proof/Machine/Ops.lean ====
section
/-!
DEFINITION. Sys2Proof/Machine/Ops.lean: the operations that many instructions share: events to rings (R380, R381), context traps (R379), lantern records
(R350, R352), taking a per-thread trap and returning from it (R105, R106, R156).
-/
namespace Sys2Proof.Machine

open Sys2Proof

-- ---------------------------------------------------------------------------------------------
-- Event rings

/-- The key of a function's ring; partitions' rings are 0 to 19. -/
def funcRing (func : Nat) : Nat := 32 + func

/-- The outcome of trying to write one record to its slot (R381). -/
inductive RingTry where
  | written (s : State)
  | busy
  | broken
  | wait (n : Need)

/-- Write a record, without ESEQ and LOSS, to the slot of the next ESEQ, if that slot is free. -/
def State.tryRing (s : State) (key : Nat) (recd : BitVec 128) : RingTry :=
  let r := s.ring key
  let a := r.base + 16 * (r.eseq % 2 ^ r.size)
  match s.lookSec r.func (a / 64) with
  | .bad _ _ => .broken
  | .wait n => .wait n
  | .ok s (d, _) =>
    if secNum d (a % 64) 1 ≠ 0 then .busy
    else
      let x := recd.toNat + (if r.loss then 2 ^ 28 else 0) + r.eseq % 2 ^ 16 * 2 ^ 48
      match s.writeAtCtl none r.func (a / 64) false true (numSec x (a % 64)) (maskOf (a % 64) 16) 0 with
      | .bad _ _ => .broken
      | .wait n => .wait n
      | .ok s _ =>
        .written ((s.setRing key { r with eseq := (r.eseq + 1) % 2 ^ 16, loss := false, broken := false }).emit (.msix r.func))

/-- Post a record to one ring (R381): written at once, held behind a busy slot, or held on a broken ring up to 256 records. -/
def State.postRing (s : State) (key : Nat) (recd : BitVec 128) : State :=
  let r := s.ring key
  if r.size = 0 then s
  else if r.broken then
    if r.held.length ≥ 256 then s.setRing key { r with loss := true } else s.setRing key { r with held := r.held ++ [recd] }
  else if r.held ≠ [] then s.setRing key { r with held := r.held ++ [recd] }
  else
    match s.tryRing key recd with
    | .written s => s
    | .busy => s.setRing key { r with held := [recd] }
    | .wait n => (s.setRing key { r with held := [recd] }).request n
    | .broken => (s.setRing key { r with held := [recd], broken := true }).emit (.machineCheck 1)

/-- Write held records in order until one cannot be written (R381): at the first failed write of the ring firmware gets a machine check. A ring of size 0 discards its events. -/
def State.retryRing (s : State) (key : Nat) : Nat → State
  | 0 => s
  | n + 1 =>
    let r := s.ring key
    if r.size = 0 then s.setRing key { r with held := [], broken := false }
    else
    match r.held with
    | [] => s
    | recd :: rest =>
      match s.tryRing key recd with
      | .written s => (s.setRing key { s.ring key with held := rest }).retryRing key n
      | .busy => s.setRing key { r with broken := false }
      | .wait n => (s.setRing key { r with broken := false }).request n
      | .broken => let s' := s.setRing key { r with broken := true }; if r.broken then s' else s'.emit (.machineCheck 1)

/-- An event record of R380. -/
def eventRec (ty cause ctx func : Nat) (info : W64) : BitVec 128 :=
  BitVec.ofNat 128 (ty + cause % 256 * 2 ^ 8 + ctx % 4096 * 2 ^ 16 + func % 256 * 2 ^ 32 + info.toNat * 2 ^ 64)

/-- Post an event of a context to the rings of R381. -/
def State.postEvent (s : State) (ty cause ctx : Nat) (info : W64) : State :=
  let func := s.funcOf ctx
  let recd := eventRec ty cause ctx func info
  let s := match s.partOf ctx with
    | some p => s.postRing p recd
    | none => s
  let steward := 1 ≤ ctx && ctx ≤ 20
  let s := if ty ≠ 3 ∧ func < 128 then s.postRing (funcRing func) recd else s
  if ty = 2 ∨ (ty = 1 ∧ (steward ∨ func = 128)) then s.postRing (funcRing 128) recd else s

-- ---------------------------------------------------------------------------------------------
-- Context traps

/-- Causes of R378. -/
def causeTrapDepth := 1
def causeTrapFrame := 2
def causeBarrierOverflow := 3
def causeBarrierFault := 4
def causeStoreRefused := 5
def causeMemberLost := 6
def causeViral := 7
def causeCoreLost := 8
def causeCacheLost := 9
def causeLanternFull := 10
def causeLanternFault := 11
def causeSaveRefused := 12
def causeLaunchFault := 13

/-- Whether a cause may be resumed by CTXLOAD.RES (R378). -/
def resumable (cause : Nat) : Bool := cause != causeBarrierFault && cause != causeCoreLost

/-- What is left of a hold when its context stops: a thread held by RCV, BAR or CBAR has committed its run and stays held; any other
wait is abandoned. A run that has issued and waits for a pending latency commits. -/
def Hold.stopped : Hold → Hold
  | .rcv id m => .rcv id m
  | .bar id => .bar id
  | .cbar id => .cbar id
  | .commit id => .commit id
  | _ => .none

/-- The pending bits that an abandoned wait's run had set (R116). -/
def Hold.pend : Hold → List (Nat × SWrite)
  | .cbWait _ p => p.pend
  | .cbAcq _ _ p => p.pend
  | .sleep _ _ p => p.pend
  | .monw _ _ _ _ _ _ _ _ _ _ p => p.pend
  | .alloc p => p.pend
  | .mxacq _ p => p.pend
  | .rjoin _ p => p.pend
  | _ => []

/-- A flight of a context that stops: its run and its waits are abandoned; what RCV, BAR, CBAR or a pending latency holds stays. -/
def Flight.stopped (f : Flight) : Flight :=
  let gone := (match f.run with
    | some r => if r.waiting then [] else r.pend
    | none => []) ++ f.threads.entries.flatMap fun t => t.2.hold.pend
  let f := f.pendAll false gone
  { f with run := f.run.filter (·.waiting), heldRuns := .empty, wideAt := none, threads := f.threads.mapV fun _ t => { t with hold := t.hold.stopped } }

/-- Step "stop" of R385 for one context: no member of a run that waits goes on waiting; its thread stands at its restart point again (R44, R186). A press granted to a
flight whose MXACQ has not completed goes back, and its claim with it (R261). -/
def State.stopHolds (s : State) (ctx : Nat) : State :=
  let mine (k : Core) (f : Nat) : Bool := match k.flights.get? f with
    | some x => x.ctx == ctx
    | none => false
  let gives (k : Core) : Bool := k.press.acquiring && match k.press.owner with
    | some f => mine k f
    | none => false
  { s with cores := s.cores.mapV fun c k =>
      let k := if c % 2 = 1 && gives (s.core (c - 1)) then { k with press := { k.press with claim := false } } else k
      if k.flights.entries.any (fun f => f.2.ctx == ctx) then
        { k with
          flights := k.flights.mapV fun _ f =>
            if f.ctx ≠ ctx then f
            else f.stopped
          cbs := k.cbs.mapV fun _ b => { b with queue := b.queue.filter fun q => !mine k q.1 }
          press := { k.press with
            waiting := k.press.waiting.filter fun w => !mine k w.1, asked := k.press.asked.filter fun w => !mine k w.1
            owner := if gives k then none else k.press.owner
            acquiring := k.press.acquiring && !gives k } }
      else k }

/-- Chunk-graph runs of a context stop with PREEMPTED, unless a failure is already recorded (R442). -/
def State.preemptRuns (s : State) (ctx : Nat) : State :=
  if s.dies.entries.any fun d => d.2.graphs.entries.any fun g => g.2.ctx == ctx && g.2.run.isSome then
    { s with dies := s.dies.mapV fun _ d => { d with graphs := d.graphs.mapV fun _ g =>
        if g.ctx = ctx then { g with run := g.run.map fun r => { r with stopping := true, status := r.status.orElse fun _ => some (8, 0, 0) } } else g } }
  else s

/-- trap_context (R54, R379). A halted context issues no further run and no further piece (see Step and the engine). -/
def State.trapContext (s : State) (ctx cause : Nat) (info : W64) : State :=
  let x := s.ctx ctx
  match x.st with
  | .free => s
  | .halted => s.postEvent 1 cause ctx info
  | .saved =>
    (s.setCtx ctx { x with heldCause := x.heldCause.orElse fun _ => some (cause, info) }).postEvent 1 cause ctx info
  | .idle => ((s.setCtx ctx { x with st := .halted, cause := cause }).preemptRuns ctx).postEvent 1 cause ctx info
  | .resident =>
    let r := (((s.setCtx ctx { x with st := .halted, cause := cause }).preemptRuns ctx).stopHolds ctx).stopEngines ctx
    (List.range r.2).foldl (fun (s : State) _ => s.postEvent 1 causeBarrierOverflow ctx 0) (r.1.postEvent 1 cause ctx info)

/-- cb_update of R231. `info` is sys.trapaddr of the thread that makes the step, where one does (R380). -/
def State.cbUpdate (s : State) (c cb : Nat) (d : Int) (ctx : Nat) (info : W64 := 0) : State :=
  match s.cbCount c cb d with
  | (s, true) => s.trapContext ctx causeBarrierOverflow info
  | (s, false) => s

/-- Whether a CTXSAVE or CTXLOAD of a context is in progress: its flight still waits in it. -/
def State.transferring (s : State) (ctx : Nat) : Bool :=
  match (s.ctx ctx).saving with
  | none => false
  | some (c, fid) => match s.flight? c fid with
    | some f => match f.run with
      | some r => r.waiting
      | none => false
    | none => false

/-- Whether a context's agents may issue: it is not stopped by a context trap or by CTXSAVE (R379, R385). -/
def State.mayRun (s : State) (ctx : Nat) : Bool :=
  let x := s.ctx ctx
  !s.recovery && x.st != .halted && x.st != .saved && !s.transferring ctx

-- ---------------------------------------------------------------------------------------------
-- Lantern records

/-- The fields of a lantern record (R350). -/
structure LRec where
  ty    : Nat
  kind  : Nat
  cause : Nat := 0
  stage : Nat
  wrt   : Bool := false
  ex    : Bool := false
  tok   : Nat := 0
  eng   : Nat := 0
  malf  : Bool := false
  core  : Nat
  flight : Nat
  va    : Nat := 0
  gpa   : Nat := 0
  xslot : Nat := 0
  piece : Nat := 0
  /-- sys.trapaddr of the thread whose fault the record is of, for the event of a lantern that cannot take it (R380). -/
  info  : Option W64 := none
deriving DecidableEq, Repr

def b2n (b : Bool) : Nat := if b then 1 else 0

/-- The 32 bytes of a record with its SEQ, STATE 01 (R350). -/
def LRec.bits (r : LRec) (seq : Nat) : Nat :=
  r.ty % 16 + r.kind % 16 * 2 ^ 4 + r.cause % 256 * 2 ^ 8 + r.stage % 4 * 2 ^ 16 + b2n r.wrt * 2 ^ 18 + b2n r.ex * 2 ^ 19
    + r.tok % 16 * 2 ^ 20 + r.eng % 8 * 2 ^ 24 + b2n r.malf * 2 ^ 27 + r.core % 128 * 2 ^ 32 + r.flight % 256 * 2 ^ 40
    + seq % 2 ^ 16 * 2 ^ 48 + r.va % 2 ^ 64 * 2 ^ 64 + (if r.stage ≥ 2 then r.gpa % 2 ^ 64 else 0) * 2 ^ 128
    + r.xslot % 4 * 2 ^ 192 + r.piece % 2 ^ 30 * 2 ^ 194 + 2 ^ 224

/-- The guest-physical address of the slot of a sequence number (R349). -/
def Ctx.slotAddr (x : Ctx) (seq : Nat) : Nat := x.lbase.toNat % 2 ^ 57 + 32 * (seq % 2 ^ x.lsize)

/-- Write a record to a context's lantern (R352). Answers its SEQ, or none when the lantern was full or failed. -/
def State.lantern (s : State) (ctx : Nat) (r : LRec) : Acc (Option Nat) :=
  let x := s.ctx ctx
  let func := s.funcOf ctx
  let a := x.slotAddr x.ltail
  let info := r.info.getD (BitVec.ofNat 64 a)
  match s.lookSec func (a / 64) with
  | .wait n => .wait n
  | .bad _ _ => .ok (s.trapContext ctx causeLanternFault info) none
  | .ok s (d, _) =>
    if bitsN (secNum d (a % 64) 32) 224 2 ≠ 0 then .ok (s.trapContext ctx causeLanternFull info) none
    else
      match s.writeAtHome none func (a / 64) false true (numSec (r.bits x.ltail) (a % 64)) (maskOf (a % 64) 32) 0 with
      | .wait n => .wait n
      | .bad _ _ => .ok (s.trapContext ctx causeLanternFault info) none
      | .ok s _ => .ok (s.setCtx ctx { x with ltail := (x.ltail + 1) % 2 ^ 16 }) (some x.ltail)

/-- A failure after issue (R169): a TYPE 4 record and the context trap. -/
def State.reportFailure (s : State) (x : Failure) : Acc Unit :=
  (s.lantern x.ctx { ty := 4, kind := x.kind, cause := if x.lost then 2 else 1, stage := x.stage, wrt := x.wrt, core := x.core
                     flight := x.flight, va := x.va.toNat, gpa := x.gpa.toNat }).bind fun s _ =>
    .ok (s.trapContext x.ctx (if x.lost then causeMemberLost else causeStoreRefused) x.gpa) ()

-- ---------------------------------------------------------------------------------------------
-- The stack, traps and the return from them

/-- The result of a stack or frame access: done, failed (KIND, MALF, STAGE, GPA; STAGE 0 for an address that is not canonical), or not yet
possible. -/
inductive Frame (α : Type) where
  | ok (s : State) (x : α)
  | fail (s : State) (kind : Nat) (malf : Bool) (stage gpa : Nat)
  | wait (n : Need)

/-- Translate the 8-byte words from an address. -/
def State.transWords (s : State) (c ctx : Nat) (va : W64) (acc : Access) : Nat → Frame (List (Nat × Bool))
  | 0 => .ok s []
  | n + 1 =>
    match s.translate c ctx va acc with
    | (s, .noncanon) => .fail s 1 false 0 0
    | (s, .fault kind malf stage gpa) => .fail s kind malf stage gpa
    | (_, .wait n) => .wait n
    | (s, .ok gpa cls) =>
      match s.transWords c ctx (va + 8) acc n with
      | .ok s rest => .ok s ((gpa, cls) :: rest)
      | r => r

/-- Store 8-byte words from an address, as plain accesses at .th, after all of them have translated. An entry of the write-combining buffer that they meet drains first (R331). -/
def State.storeWords (s : State) (c ctx : Nat) (va : W64) (xs : List Nat) : Frame Unit :=
  match s.transWords c ctx va .write xs.length with
  | .fail s k m st g => .fail s k m st g
  | .wait n => .wait n
  | .ok s as =>
    let func := s.funcOf ctx
    (as.zip xs).foldl (fun (r : Frame Unit) (e : (Nat × Bool) × Nat) =>
      match r with
      | .ok s _ =>
        match (s.routeHere ctx e.1.1).bind fun s _ => (s.drainFor c ctx e.1.1).bind fun s _ => s.writeN c .own func e.1.1 e.1.2 8 e.2 with
        | .ok s _ => .ok s ()
        | .bad k st => .fail s k false st e.1.1
        | .wait n => .wait n
      | r => r) (.ok s ())

/-- Load 8-byte words, each with whether it was poisoned. -/
def State.loadWords (s : State) (c ctx : Nat) (va : W64) (n : Nat) : Frame (List (Nat × Bool)) :=
  match s.transWords c ctx va .read n with
  | .fail s k m st g => .fail s k m st g
  | .wait n => .wait n
  | .ok s as =>
    let func := s.funcOf ctx
    as.foldl (fun (r : Frame (List (Nat × Bool))) (e : Nat × Bool) =>
      match r with
      | .ok s xs =>
        match (s.routeHere ctx e.1).bind fun s _ => (s.drainFor c ctx e.1).bind fun s _ => s.readN c .own func e.1 e.2 8 with
        | .ok s x => .ok s (xs ++ [x])
        | .bad k st => .fail s k false st e.1
        | .wait n => .wait n
      | r => r) (.ok s [])

/-- Codes of R107. -/
def tILLEGAL := 1
def tALLOTMENT := 2
def tPOISON := 3
def tNONUNIFORM := 4
def tPARTIAL := 5
def tMISALIGNED := 6
def tFORBIDDEN := 7
def tSTOREFAULT := 8
def tBADLANDING := 9
def tDIVIDE := 10
def tBREAKPOINT := 11
def tSOFTWARE := 12
def tTOKENFULL := 13
def tFETCHFAULT := 14
def tREPLAYREFUSED := 15

/-- sys.trapcause (R107). -/
def causeWord (code opnd runpos : Nat) : W32 := BitVec.ofNat 32 (code + opnd * 2 ^ 8 + runpos * 2 ^ 11)

/-- TAKING A PER-THREAD TRAP (R105): an implicit call to ctx.tvec. The frame of R106 is stored below the aligned stack pointer, the depth rises, the trap
registers are written and the thread's next run starts at the vector. A depth of 7 halts the context instead and leaves the thread as it
was (R109), and so does a frame that cannot be stored. -/
def State.takeTrap (s : State) (c fid l : Nat) (restart : W57) (cause : W32) (addr : W64) (tok : W32) : Acc Unit :=
  match s.flight? c fid with
  | none => .ok s ()
  | some f =>
    let t := f.thread l
    if t.depth ≥ 7 then .ok (s.trapContext f.ctx causeTrapDepth t.trapaddr) ()
    else
      let frame : W64 := (t.sp &&& ~~~0xF#64) - 32
      let words := [restart.toNat, t.trapaddr.toNat, t.trapcause.toNat + t.poisontok.toNat * 2 ^ 32, t.sp.toNat]
      match s.storeWords c f.ctx frame words with
      | .wait n => .wait n
      | .fail s _ _ _ _ => .ok (s.trapContext f.ctx causeTrapFrame t.trapaddr) ()
      | .ok s _ =>
        match s.flight? c fid with
        | none => .ok s ()
        | some f =>
          .ok (s.setFlight c fid (f.setThread l
            { f.thread l with sp := frame, depth := t.depth + 1, trapcause := cause, trapaddr := addr, poisontok := tok
                              pc := (s.ctx f.ctx).tvec.setWidth 57, hold := .none, entering := some (s.ctx f.ctx).tvec })) ()

/-- What a frame holds when it is read back (R106). -/
structure TrapFrame where
  restart   : W64
  ptrapaddr : W64
  pcause    : W32
  ptok      : W32
  psp       : W64
deriving DecidableEq, Repr

/-- The fields of the four words of a frame. -/
def trapFrameOf (xs : List Nat) : TrapFrame :=
  let w := xs.getD 2 0
  { restart := BitVec.ofNat 64 (xs.getD 0 0), ptrapaddr := BitVec.ofNat 64 (xs.getD 1 0), pcause := BitVec.ofNat 32 w
    ptok := BitVec.ofNat 32 (w / 2 ^ 32), psp := BitVec.ofNat 64 (xs.getD 3 0) }

/-- RETURNING FROM A TRAP (R156), once the frame has been read and its target checked: the trap registers and the stack pointer come back, the depth falls and
the thread resumes at RESTART. -/
def Thread.returnFrom (t : Thread) (fr : TrapFrame) : Thread :=
  { t with trapaddr := fr.ptrapaddr, trapcause := fr.pcause, poisontok := fr.ptok, sp := fr.psp, depth := t.depth - 1
           pc := fr.restart.setWidth 57, entering := none }

end Sys2Proof.Machine
end

