-- ==== Sys2Proof/Machine/Leave.lean ====
section
/-!
DEFINITION. Sys2Proof/Machine/Leave.lean: how threads, flights and blocks leave a core (R157, R217, R218, R293), how an owner gives up the press (R247), and taking an
engine trap (R54, R295).
-/
namespace Sys2Proof.Machine

open Sys2Proof

/-- Whether an engine thread has neither ended nor stands unused. -/
def Eng.active (e : Eng) : Bool :=
  match e.run with
  | .idle => false
  | .ended _ _ => false
  | _ => true

/-- Whether some engine thread forked by a block still runs, is held or is paused: on any core of its spread. -/
def State.blockEngines (s : State) (home key : Nat) : Bool :=
  s.cores.entries.any fun k => k.2.engs.entries.any fun e => e.2.active && e.2.home == home && e.2.block == key

/-- Whether a flight of a block, or one that has just left it, owns a press. -/
def State.blockPress (s : State) (b : Block) : Bool :=
  b.flights.any fun e => (s.core e.1).press.owner == some e.2

/-- A press whose owner is giving it up is released once its queue is empty and its register landings have landed (R247). In pair mode
both presses are released, and a claim that has not been granted is withdrawn. -/
def State.settlePress (s : State) (c : Nat) : State :=
  let p := (s.core c).press
  if p.closing ∧ p.queue = [] ∧ p.lands = [] then
    let s := s.setPress c { p with owner := none, pair := false, closing := false, acquiring := false }
    if p.pair ∨ p.acquiring then
      let q := (s.core (c + 1)).press
      s.setPress (c + 1) { q with slaved := if p.pair then false else q.slaved, claim := false }
    else s
  else s

/-- Cores that no block of a launch uses any more leave the launch (R399). -/
def State.leaveCores (s : State) (launch : Nat) (cores : List Nat) : State :=
  cores.foldl (fun (s : State) c =>
    let used := s.cores.entries.any fun k => k.2.blocks.entries.any fun b => b.2.launch == launch && b.2.cores.contains c
    if used || (s.core c).launch != some launch then s
    else
      let s := s.setCore c { s.core c with launch := none }
      match s.launch? launch with
      | some la => { s with launches := s.launches.set launch { la with cores := la.cores.filter fun x => x != c } }
      | none => s) s

/-- The scratchpad of a block goes back when its flights have given it up or exited, no engine thread of it runs and it owns no press
(R218, R293); the bytes stay reserved until every member of its cluster group has given its own back (R300). -/
def State.releaseSpad (s : State) (home key : Nat) : State :=
  match s.block? home key with
  | none => s
  | some b =>
    if !(b.ended || !b.spadOpen) || s.blockEngines home key || s.blockPress b then s
    else
      let k := s.core home
      let s := s.setCore home { k with zeroed := k.zeroed && !(b.granted && decide (b.spadHeld > 0)) }
      let s := s.setBlock home key { b with granted := false, spadOpen := false, spad := .empty }
      let members := match s.groups.get? b.group with
        | some g => g.members
        | none => [(home, key)]
      let given (m : Nat × Nat) : Bool := match s.member? b.group m with
        | some x => !x.granted && !x.spadOpen
        | none => true
      let s := if members.all given then
          members.foldl (fun s m => match s.member? b.group m with
            | some x => s.setBlock m.1 m.2 { x with spadHeld := 0 }
            | none => s) s
        else s
      -- a block that has ended and holds no bytes is gone
      members.foldl (fun s m => match s.member? b.group m with
        | some x =>
          if x.ended ∧ x.spadHeld = 0 ∧ !x.granted ∧ !s.blockEngines m.1 m.2 ∧ !s.blockPress x then
            let k := s.core m.1
            (s.setCore m.1 { k with blocks := k.blocks.erase m.2 }).leaveCores x.launch x.cores
          else s
        | none => s) s

/-- The last flight of a block has exited: it leaves the grant queue and returns its reservation, and its launch counts it as ended. -/
def State.endBlock (s : State) (home key : Nat) : State :=
  match s.block? home key with
  | none => s
  | some b =>
    let s := s.setBlock home key { b with ended := true, reserve := .empty, bars := .empty }
    let k := s.core home
    let s := s.setCore home { k with grantQ := k.grantQ.filter fun q => q != (home, key) }
    let s := match s.launch? b.launch with
      | some la => { s with launches := s.launches.set b.launch { la with live := la.live - 1 } }
      | none => s
    s.releaseSpad home key

/-- A flight whose threads have all exited leaves its core; its block ends with its last flight. -/
def State.endFlight (s : State) (c fid : Nat) : State :=
  match s.flight? c fid with
  | none => s
  | some f =>
    if f.liveMask ≠ 0 then s
    else
      let home := s.blockOf f
      let k := s.core c
      let s := s.setCore c { k with flights := k.flights.erase fid }
      match home with
      | none => s
      | some (h, b) =>
        let live := (s.flightsOf b).length
        if live = 0 then s.endBlock h f.block else s

/-- EXIT of one thread (R157): it leaves every later exec and every set of live threads; the barriers that wait for it decide again; the press of
its flight is given up. -/
def State.exitThread (s : State) (c fid l : Nat) : State :=
  match s.flight? c fid with
  | none => s
  | some f =>
    let f := ((f.setThread l { f.thread l with live := false, hold := .none }).gcToks).rcvCheck
    let home := s.blockOf f
    let s := s.setFlight c fid f
    let p := (s.core c).press
    let s := if p.owner = some fid then (s.setPress c { p with closing := true }).settlePress c else s
    let s := match home with
      | none => s
      | some (h, b) =>
        let s := b.bars.keys.foldl (fun (s : State) id => s.barCheck h f.block id) s
        match s.groups.get? b.group with
        | some g => g.cbars.keys.foldl (fun (s : State) id => s.cbarCheck b.group id) s
        | none => s
    s.endFlight c fid

-- ---------------------------------------------------------------------------------------------
-- Engine traps

/-- The engine causes of R294. -/
def eILLEGAL := 1
def eMISALIGNED := 2
def eNOTPRESENT := 3
def eFORBIDDEN := 4
def eRANGE := 5
def eWALKER := 6
def eBADINDEX := 7
def eREGREFUSED := 8
def ePOISON := 9

/-- NOT_PRESENT and FORBIDDEN may be resumed; every other cause is terminal (R294). -/
def engResumable (cause : Nat) : Bool := cause == eNOTPRESENT || cause == eFORBIDDEN

/-- Release the sectors that a transfer slot of an engine thread owns (R281). -/
def State.disown (s : State) (c e slot : Nat) : State :=
  s.dropOwner (.engine c e slot)

/-- What an engine fault reports (R295, R350). -/
structure EngFault where
  cause : Nat
  kind  : Nat := 0
  stage : Nat := 0
  malf  : Bool := false
  wrt   : Bool := false
  ex    : Bool := false
  va    : Nat := 0
  gpa   : Nat := 0
  xslot : Nat := 0
  piece : Nat := 0
deriving DecidableEq, Repr

/-- trap_engine (R54, R295), once every piece before the fault point has landed: the record is written, and the thread is paused, or ended by a terminal
cause with its transfers abandoned and their sectors released. The owned sectors at or after the fault point are released in both cases (R281). -/
def State.trapEngine (s : State) (c e : Nat) (x : EngFault) : Acc Unit :=
  let g := s.eng c e
  (s.lantern g.ctx { ty := 3, kind := x.kind, cause := x.cause, stage := x.stage, wrt := x.wrt, ex := x.ex, eng := e, malf := x.malf
                     core := c, flight := g.flight, va := x.va, gpa := x.gpa, xslot := x.xslot, piece := x.piece }).bind fun s seq =>
    let g := s.eng c e
    let s := g.slots.keys.foldl (fun s k => s.disown c e k) s
    if engResumable x.cause then .ok (s.setEng c e { g with run := .paused x.cause, lrec := seq, load := none, slots := g.slots.mapV fun _ t => { t with owned := .empty } }) ()
    else
      let s := s.setEng c e { g with run := .ended true x.cause, lrec := none, load := none, slots := .empty }
      .ok ((s.joinRelease c g.gen).releaseSpad g.home g.block) ()

/-- A fault of a scalar instruction of an engine thread: taken when every earlier transfer has landed (R280); until then the thread does not go on. -/
def State.engFault (s : State) (c e : Nat) (x : EngFault) : State :=
  if (s.eng c e).slots.entries ≠ [] then s
  else
    match s.trapEngine c e x with
    | .ok s _ => s
    | .bad _ _ => s
    | .wait n => s.request n

end Sys2Proof.Machine
end

