-- ==== Sys2Proof/Machine/Kernel.lean ====
section
/-!
DEFINITION. Sys2Proof/Machine/Kernel.lean: kernel descriptors (R68), stages (R16), and the register units and scratchpad of a core: what is free, and taking a block's
grant (R214 to R217).
-/
namespace Sys2Proof.Machine

open Sys2Proof

-- Fields of a kernel descriptor (R68)

def kRegs (d : BitVec 512) : Nat := bitsN d.toNat 40 8
def kFlights (d : BitVec 512) : Nat := bitsN d.toNat 48 16
def kEntry (d : BitVec 512) : Nat := bitsN d.toNat 64 64
def kSpad (d : BitVec 512) : Nat := bitsN d.toNat 128 32
def kCbWords (d : BitVec 512) : Nat := bitsN d.toNat 160 16
def kNStage (d : BitVec 512) : Nat := bitsN d.toNat 176 8
def kStage (d : BitVec 512) (i : Nat) : Nat := bitsN d.toNat (192 + 16 * i) 16

/-- Whether a kernel descriptor is valid (R68). -/
def kValid (d : BitVec 512) : Bool :=
  let n := d.toNat
  bitsN n 0 32 == 0x4B445A47 && bitsN n 32 8 == 1
    && decide (16 ≤ kRegs d ∧ kRegs d ≤ 64) && kRegs d % 8 == 0
    && decide (1 ≤ kFlights d ∧ kFlights d ≤ 256)
    && kEntry d % 64 == 0 && canonical (BitVec.ofNat 64 (kEntry d))
    && kSpad d % 256 == 0 && decide (kSpad d ≤ 2359296)
    && decide (kCbWords d ≤ 512) && decide (1 ≤ kNStage d ∧ kNStage d ≤ 8)
    && bitsN n 184 8 == 0 && bitsN n 320 192 == 0
    && (List.range 8).all (fun i => decide (i < kNStage d) || kStage d i == 0)
    && (List.range 8).foldl (fun a i => a + kStage d i) 0 == kFlights d

/-- The stage of a flight: flights take stages in increasing sys.flight (R16, R66). -/
def stageOf (d : BitVec 512) (idx : Nat) : Nat :=
  ((List.range 8).find? fun i => decide (idx < (List.range (i + 1)).foldl (fun a j => a + kStage d j) 0)).getD 0

/-- A kernel descriptor for one flight with every register and some scratchpad. -/
def simpleDesc (regs flights spad : Nat) : BitVec 512 :=
  BitVec.ofNat 512 (0x4B445A47 + 2 ^ 32 + regs * 2 ^ 40 + flights * 2 ^ 48 + spad * 2 ^ 128 + 2 ^ 176 + flights * 2 ^ 192)

/-- The position that a physical core of a die serves (R19, R464): its own, or the one that its spare's map gives. -/
def Die.serves (d : Die) (phys : Nat) : Option Nat :=
  if d.retire.getLsbD phys then none
  else if phys < 32 then (if d.map0 = some phys ∨ d.map1 = some phys then none else some phys)
  else if phys = 32 then d.map0 else d.map1

/-- Whether a logical core is present (R19): it is not lost (R307), and a physical core serves its position. -/
def State.corePresent (s : State) (c : Nat) : Bool :=
  decide (c < 128) && !(s.core c).lost && (List.range 34).any fun p => (s.die (c / 32)).serves p == some (c % 32)

/-- The kernel descriptor of a flight's launch. -/
def State.kdesc (s : State) (launch : Nat) : BitVec 512 :=
  match s.launch? launch with
  | some la => la.desc
  | none => 0

/-- Register units of a core: 24 576, less the allotments of its flights and what blocks have reserved (R216). -/
def State.freeUnits (s : State) (c : Nat) : Nat :=
  let used := (s.core c).flights.entries.foldl (fun n e => n + e.2.allot) 0
  let kept := s.cores.entries.foldl (fun n k => k.2.blocks.entries.foldl (fun n b => n + b.2.reserve.getD c 0) n) 0
  24576 - (used + kept)

/-- Free bytes of a core's scratchpad part. -/
def State.freeSpad (s : State) (c : Nat) : Nat :=
  (s.core c).spk * 262144 - (s.core c).blocks.entries.foldl (fun n b => n + b.2.spadHeld) 0

/-- A block's share of the increment on a core (R214): register units. -/
def Block.units (b : Block) (full c : Nat) : Nat := (b.flights.filter fun f => f.1 == c).length * (full - 16)

/-- Whether the increment of a block fits (R216). -/
def State.grantFits (s : State) (home : Nat) (b : Block) : Bool :=
  let d := s.kdesc b.launch
  b.cores.all (fun c => decide (b.units (kRegs d) c ≤ s.freeUnits c)) && decide (kSpad d ≤ s.freeSpad home)

/-- Take the grant of a block: its scratchpad, undefined (R216) but where the core has zeroed it and no grant has gone back since (R221), and the reservation of the
register units of all its flights. -/
def State.takeGrant (s : State) (home key : Nat) : State :=
  match s.block? home key with
  | none => s
  | some b =>
    let d := s.kdesc b.launch
    let reserve : KMap Nat := b.cores.foldl (fun (m : KMap Nat) c => m.set c (b.units (kRegs d) c)) .empty
    let s := s.setBlock home key { b with granted := true, seed := s.free, zeroed := (s.core home).zeroed, spad := .empty, spadHeld := kSpad d, reserve := reserve }
    let k := s.core home
    { s.setCore home { k with grantQ := k.grantQ.filter fun q => q != (home, key)
                              lastCtx := if kSpad d = 0 then k.lastCtx else some b.ctx } with free := s.free + 1 }

/-- Raise a flight's allotment to the full count from its block's reservation; the new registers are zero and not poisoned (R98, R216). -/
def State.raiseAllot (s : State) (c fid : Nat) : State :=
  match s.flight? c fid with
  | none => s
  | some f =>
    match s.blockOf f with
    | none => s
    | some (home, b) =>
      let full := kRegs (s.kdesc f.launch)
      let s := s.setBlock home f.block { b with reserve := b.reserve.set c (b.reserve.getD c 0 - (full - f.allot)) }
      s.setFlight c fid { f with
        allot := full
        threads := f.threads.mapV fun _ t => { t with v := t.v.filter fun i _ => i < f.allot } }

/-- The threads of a flight held in ALLOC, with what they have not committed. -/
def Flight.allocWaits (f : Flight) : List (Nat × Pass) := f.threads.entries.filterMap fun t => match t.2.hold with
  | .alloc p => some (t.1, p)
  | _ => none

/-- A block takes its grant, and every flight of it that is held in ALLOC goes on with its full allotment (R216, R217). -/
def State.grantBlock (s : State) (home key : Nat) : State :=
  match s.block? home key with
  | none => s
  | some b =>
    ((s.flightsOf b).filter fun e => !e.2.2.allocWaits.isEmpty).foldl (fun (s : State) e =>
      let s := s.raiseAllot e.1 e.2.1
      match s.flight? e.1 e.2.1 with
      | none => s
      | some f => s.setFlight e.1 e.2.1 (f.allocWaits.foldl (fun (f : Flight) x => f.pass x.1 x.2) f)) (s.takeGrant home key)

/-- The block at the head of a core's grant queue is granted when a flight of it is held in its first ALLOC and its increment fits (R216, R217). -/
def State.grantHead (s : State) (c : Nat) : State :=
  match (s.core c).grantQ.head? with
  | none => s
  | some (home, key) =>
    match s.block? home key with
    | none => s
    | some b => if ((s.flightsOf b).any fun e => !e.2.2.allocWaits.isEmpty) && s.grantFits home b then s.grantBlock home key else s

end Sys2Proof.Machine
end

