-- ==== Sys2Proof/Machine/OpSpec.lean ====
section
/-!
DEFINITION. Sys2Proof/Machine/OpSpec.lean: what each encoding accepts (R32, R36, R37, R43, R47 to R49, and each encoding table).
One `OpSpec` per mnemonic says which types, modifiers and options it accepts and what each operand field may name;
the same record later drives the allotment check, the pending check and the scalar-form rule.
-/
namespace Sys2Proof

/-- How many registers an operand field names: one, an even pair, an XA group of twelve, or a group of n. -/
inductive Width where
  | w32 | w64 | xa | grp (n : Nat)
deriving DecidableEq, Repr, Inhabited

/-- The number of v registers a width covers. -/
def Width.regs : Width → Nat
  | .w32 => 1 | .w64 => 2 | .xa => 12 | .grp n => n

/-- What an operand field accepts: its classes (none: the field is unused) and its width. -/
structure Field where
  classes : List Cls
  width   : Width
deriving DecidableEq, Repr, Inhabited

/-- An unused field (R32). -/
def Field.unused : Field := ⟨[], .w32⟩

/-- What one encoding accepts, given its own type and options. -/
structure OpSpec where
  /-- Type, modifier and option bits are legal. -/
  ok     : Bool
  dst    : Field
  sa     : Field
  sb     : Field
  sc     : Field
  /-- Groups 000, 001, 010: a DST in class s or k makes a scalar form (R36). -/
  scalar : Bool
  /-- May stand at any position of a run (R43). -/
  anyPos : Bool
  /-- Flight-wide (R198). -/
  wide   : Bool
  /-- Racking-only (R48). -/
  engine : Bool
deriving DecidableEq, Repr, Inhabited

/-- The thread-visible system registers of R34. -/
def sysIndexOk (i : Nat) : Bool := i ≤ 8 || (0x10 ≤ i && i ≤ 0x13) || (0x20 ≤ i && i ≤ 0x24)

/-- A system register of level Flight, Device or Context (R34). -/
def sysUniform (i : Nat) : Bool := (2 ≤ i && i ≤ 8) || (0x20 ≤ i && i ≤ 0x24)

/-- sys.sp (R34). -/
def sysSp : Nat := 0x13

/-- The engine system registers (R269). -/
def engineSysOk (i : Nat) : Bool := i ≤ 5 || i == 7

/-- Whether a v index fits a width (R32, R146, R172). -/
def vIndexOk (i : Nat) : Width → Bool
  | .w32 => i < 64
  | .w64 => i < 64 && i % 2 == 0
  | .xa => i % 4 == 0 && i ≤ 52
  | .grp n => i % (if n < 8 then n else 8) == 0 && i + n ≤ 64

/-- A source field of a flight instruction (R32, R49). -/
def srcOk (f : Field) (s : Src) : Bool :=
  if f.classes = [] then s == Src.zero
  else
    let i := s.idx.toNat
    f.classes.contains s.cls &&
      (match s.cls with
       | .v => vIndexOk i f.width
       | .s => i < 64
       | .latch => i < 2
       | .pred => i < 8
       | .k => i < 8
       | .sys => sysIndexOk i
       | .cbank => if f.width = .w64 then i % 2 == 0 else true
       | .imm => true)

/-- A DST field of a flight instruction (R32, R49). Class 101 is sys.sp alone (R128). -/
def dstOk (f : Field) (d : Dst) : Bool :=
  if f.classes = [] then d == Dst.zero
  else
    let i := d.idx.toNat
    f.classes.contains d.cls &&
      (match d.cls with
       | .v => vIndexOk i f.width
       | .s => i < 64
       | .pred => i < 7
       | .k => i < 8
       | .sys => i == sysSp
       | _ => false)

/-- A source or DST field of a racking-only instruction (R48, R49). -/
def engSrcOk (f : Field) (s : Src) : Bool :=
  if f.classes = [] then s == Src.zero
  else
    let i := s.idx.toNat
    f.classes.contains s.cls &&
      (match s.cls with
       | .v => if f.width = .w64 then i < 32 && i % 2 == 0 else i < 32
       | .s => i < 4
       | .k => i < 64
       | .sys => engineSysOk i
       | .imm => true
       | _ => false)

def engDstOk (f : Field) (d : Dst) : Bool :=
  if f.classes = [] then d == Dst.zero
  else
    let i := d.idx.toNat
    f.classes.contains d.cls && !d.n &&
      (match d.cls with
       | .v => i < 32
       | .s => i < 4
       | .k => i < 64
       | _ => false)

/-- The sources a scalar form accepts (R36). -/
def scalarSrcOk (s : Src) : Bool :=
  match s.cls with
  | .s | .k | .cbank | .imm => true
  | .sys => sysUniform s.idx.toNat
  | _ => false

/-- Whether a view is a scalar form (R36). -/
def OpSpec.isScalar (o : OpSpec) (v : View) : Bool :=
  o.scalar && o.dst.classes ≠ [] && (v.dst.cls == .s || v.dst.cls == .k)

/-- Legality of a view under its specification: R49, without what depends on the place in a run. -/
def OpSpec.legal (o : OpSpec) (v : View) : Bool :=
  if o.engine then
    o.ok && v.grd == 7 && v.hnt == ⟨0, 0, false, false⟩ && engDstOk o.dst v.dst && engSrcOk o.sa v.sa &&
      (match v.sb with
       | .src b => engSrcOk o.sb b
       | .imm _ => true) && engSrcOk o.sc v.sc
  else
    o.ok && dstOk o.dst v.dst && srcOk o.sa v.sa &&
      (match v.sb with
       | .src b => srcOk o.sb b
       | .imm _ => true) && srcOk o.sc v.sc &&
      (!o.isScalar v ||
        ((o.sa.classes = [] || scalarSrcOk v.sa) &&
          (match v.sb with
           | .src b => o.sb.classes = [] || scalarSrcOk b
           | .imm _ => true) &&
          (o.sc.classes = [] || scalarSrcOk v.sc)))

-- ---------------------------------------------------------------------------------------------
-- Operand sets (R112, R160, R202)

def setG : List Cls := [.v, .s, .latch, .pred, .k, .sys, .cbank, .imm]
def setD : List Cls := [.v, .s, .pred, .k]
def setDv : List Cls := [.v, .s]
def setP : List Cls := [.pred]
def setBase : List Cls := [.v, .s, .cbank, .latch]
def setOff : List Cls := [.v, .s, .cbank, .latch, .imm]
def setU : List Cls := [.s, .k, .cbank, .imm, .sys]

/-- The width of an operand of a type. -/
def Ty.opw (t : Ty) : Width := if t == .xa320 then .xa else if t.wide then .w64 else .w32

/-- A field of a set at the width of a type. -/
def Ty.fld (t : Ty) (cs : List Cls) : Field := ⟨cs, t.opw⟩

/-- A field of 32 bits. -/
def fld32 (cs : List Cls) : Field := ⟨cs, .w32⟩

/-- A field of 64 bits. -/
def fld64 (cs : List Cls) : Field := ⟨cs, .w64⟩

/-- D at the width of a type: a k destination is illegal for a result wider than 32 bits (R112). -/
def Ty.dstD (t : Ty) : Field := ⟨if t.wide then [.v, .s, .pred] else setD, t.opw⟩

/-- The FLG bit (R37). -/
def View.flg (v : View) : Bool := v.z.getLsbD 0

/-- The rounding mode in the RND bits (R37). -/
def View.rnd (v : View) : Rnd := Rnd.ofZ v.z

/-- The RND bits are RNE. -/
def View.rneOnly (v : View) : Bool := v.z.extractLsb' 1 2 == 0

/-- The scope code (R37). -/
def View.scp (v : View) : Nat := v.z.toNat

/-- A range of OPT bits as a number. -/
def View.o (v : View) (lo len : Nat) : Nat := (v.opt.extractLsb' lo len).toNat

/-- The source type of a conversion, in OPT[4:0] (R130, R137, R138). -/
def View.srcTy (v : View) : Ty := (Ty.ofCode (v.o 0 5)).getD .none

/-- OPT has no bit set at or above n. -/
def View.optBelow (v : View) (n : Nat) : Bool := v.opt.toNat < 2 ^ n

/-- Whether the view is an I-form. -/
def View.isI (v : View) : Bool :=
  match v.sb with
  | .imm _ => true
  | .src _ => false

-- ---------------------------------------------------------------------------------------------
-- Group 000 (R119)

def intTys : List Ty := [.i8, .i16, .i32, .i64, .n8, .n16, .n32, .n64]
def wordTys : List Ty := [.i32, .n32, .i64, .n64]
def bitTys : List Ty := [.b32, .b64]

def alu (_v : View) (ok : Bool) (dst sa sb sc : Field) : OpSpec :=
  { ok := ok, dst := dst, sa := sa, sb := sb, sc := sc, scalar := true, anyPos := true, wide := false, engine := false }

/-- An integer operation of n sources: types, whether .SAT and .CHK are accepted. -/
def specInt (tys : List Ty) (sat chk : Bool) (n : Nat) (v : View) : OpSpec :=
  let g := v.ty.fld setG
  alu v (tys.contains v.ty && v.rneOnly && (sat || !v.flg) && v.optBelow (if chk then 1 else 0))
    v.ty.dstD g (if n ≥ 2 then g else .unused) (if n ≥ 3 then g else .unused)

/-- Shifts and bit fields: the count operands are 32 bits (R122, R123). -/
def specShift (tys : List Ty) (v : View) : OpSpec :=
  alu v (tys.contains v.ty && v.z == 0 && v.opt == 0) v.ty.dstD (v.ty.fld setG) (fld32 setG) .unused

/-- BFX and BFI (R123): a count operand is one register for every type (assumption 24, DEDUCED). -/
def specBfx (v : View) : OpSpec :=
  alu v (wordTys.contains v.ty && v.z == 0 && v.opt == 0) v.ty.dstD (v.ty.fld setG) (fld32 setG) (fld32 setG)

def specBfi (v : View) : OpSpec :=
  alu v (bitTys.contains v.ty && v.z == 0 && v.opt == 0) v.ty.dstD (v.ty.fld setG) (v.ty.fld setG) (fld32 setG)

/-- POPC and CLZ write a 32-bit count (R124). -/
def specCount (v : View) : OpSpec :=
  alu v (bitTys.contains v.ty && v.z == 0 && v.opt == 0) (fld32 setD) (v.ty.fld setG) .unused .unused

def specSel (v : View) : OpSpec :=
  alu v (bitTys.contains v.ty && v.z == 0 && v.opt == 0) v.ty.dstD (v.ty.fld setG) (v.ty.fld setG) (fld32 setP)

def specCmp (v : View) : OpSpec :=
  alu v (intTys.contains v.ty && v.z.toNat < 6 && v.opt == 0) (fld32 setP) (v.ty.fld setG) (v.ty.fld setG) .unused

def specPlop (v : View) : OpSpec :=
  alu v (v.ty == .none && v.z == 0) (fld32 setP) (fld32 setP) (fld32 setP) (fld32 setP)

def specMov (v : View) : OpSpec :=
  let d := v.ty.dstD
  alu v (bitTys.contains v.ty && v.z == 0 && v.opt == 0)
    (if v.ty = .b64 then ⟨.sys :: d.classes, d.width⟩ else d)
    (if v.isI then .unused else v.ty.fld setG) .unused .unused

def specLea (v : View) : OpSpec :=
  alu v (v.ty == .none && v.z == 0 && v.optBelow 4 && v.o 0 3 ≤ 4) (fld64 setDv) (fld64 setG) (fld32 setG)
    (if v.isI then .unused else fld32 setG)

def specIcvt (v : View) : OpSpec :=
  let src := (Ty.ofCode (v.o 0 5)).getD .none
  alu v (intTys.contains v.ty && v.rneOnly && v.optBelow 5 && intTys.contains src) v.ty.dstD (src.fld setG) .unused .unused

-- ---------------------------------------------------------------------------------------------
-- Group 001 (R131)

def fltTys : List Ty := [.f64, .f32, .f16, .bf16]
def flt3Tys : List Ty := [.f32, .f16, .bf16]
def halfTys : List Ty := [.f16, .bf16]
def allFltTys : List Ty := [.f64, .f32, .f16, .bf16, .f8e4, .f8e5, .f4]

/-- A floating-point operation of n sources; `rnd` says whether every rounding mode is accepted. -/
def specFlt (tys : List Ty) (rnd : Bool) (n : Nat) (v : View) : OpSpec :=
  let g := v.ty.fld setG
  alu v (tys.contains v.ty && (rnd || v.rneOnly) && v.opt == 0)
    (v.ty.fld setDv) g (if n ≥ 2 then g else .unused) (if n ≥ 3 then g else .unused)

def specFcmp (v : View) : OpSpec :=
  alu v (fltTys.contains v.ty && v.opt == 0) (fld32 setP) (v.ty.fld setG) (v.ty.fld setG) .unused

def specFclass (v : View) : OpSpec :=
  alu v ([Ty.f32, .f16, .bf16, .f8e4, .f8e5, .f4].contains v.ty && v.z == 0 && v.opt == 0)
    (fld32 setDv) (v.ty.fld setG) .unused .unused

/-- A conversion: the source type stands in OPT[4:0]. -/
def specCvt (tys srcs : List Ty) (flg : Bool) (v : View) : OpSpec :=
  let src := (Ty.ofCode (v.o 0 5)).getD .none
  alu v (tys.contains v.ty && (flg || !v.flg) && v.optBelow 5 && srcs.contains src)
    (v.ty.fld setDv) (src.fld setG) .unused .unused

def specFscl (v : View) : OpSpec :=
  alu v (flt3Tys.contains v.ty && v.opt == 0) (v.ty.fld setDv) (v.ty.fld setG) (fld32 setG) .unused

-- ---------------------------------------------------------------------------------------------
-- Group 010 (R140)

def xaField : Field := ⟨[.v], .xa⟩

/-- DP8 and DP4: a Q operand is read as 64 bits (R141). -/
def specDp (v : View) : OpSpec :=
  alu v (v.ty == .i32 && v.rneOnly && v.optBelow 4 && v.o 0 2 ≠ 3 && v.o 2 2 ≠ 3)
    (fld32 setD) ⟨setG, if v.o 0 2 = 2 then .w64 else .w32⟩ ⟨setG, if v.o 2 2 = 2 then .w64 else .w32⟩ (fld32 setG)

def specFdp (optBits : Nat) (v : View) : OpSpec :=
  alu v (v.ty == .f32 && v.optBelow optBits) (fld32 setDv) (fld32 setG) (fld32 setG) (fld32 setG)

def packTys : List Ty := [.f16, .bf16, .f8e4, .f8e5, .f4, .i8, .n8, .i16, .n16]

def specPack (v : View) : OpSpec :=
  alu v (packTys.contains v.ty && v.optBelow 2 && 2 * v.o 0 2 * v.ty.width < 32)
    (fld32 setDv) (fld32 setG) (fld32 setG) (fld32 setG)

def specUnpk (v : View) : OpSpec :=
  alu v (packTys.contains v.ty && v.z == 0 && v.optBelow 3 && v.o 0 3 * v.ty.width < 32)
    (fld32 setDv) (fld32 setG) .unused .unused

def specXscl (v : View) : OpSpec :=
  alu v (v.ty == .f32 && v.optBelow 2) (fld32 setDv) (fld32 setG) (fld32 setG) .unused

def specXacc (v : View) : OpSpec :=
  alu v (flt3Tys.contains v.ty && v.z == 0 && v.opt == 0) xaField xaField (v.ty.fld setG) .unused

def specXadd (v : View) : OpSpec :=
  alu v (v.ty == .xa320 && v.z == 0 && v.opt == 0) xaField xaField xaField .unused

def specXrnd (v : View) : OpSpec :=
  alu v (flt3Tys.contains v.ty && v.z == 0 && v.opt == 0) (fld32 [.v]) xaField .unused .unused

def specXclr (v : View) : OpSpec :=
  alu v (v.ty == .xa320 && v.z == 0 && v.opt == 0) xaField .unused .unused .unused

-- ---------------------------------------------------------------------------------------------
-- Group 011, flight instructions (R152)

/-- A flight instruction outside groups 000 to 010: the last member of its run. -/
def last (ok : Bool) (dst sa sb sc : Field) : OpSpec :=
  { ok := ok, dst := dst, sa := sa, sb := sb, sc := sc, scalar := false, anyPos := false, wide := false, engine := false }

/-- A flight-wide instruction (R198). -/
def lastW (ok : Bool) (dst sa sb sc : Field) : OpSpec := { last ok dst sa sb sc with wide := true }

/-- No type, scope or option bit. -/
def View.plain (v : View) : Bool := v.ty == .none && v.z == 0 && v.opt == 0

def specCtl (v : View) : OpSpec := last v.plain .unused .unused .unused .unused

def specTrapOp (v : View) : OpSpec := last (v.ty == .none && v.z == 0) .unused .unused .unused .unused

def specCtlX (v : View) : OpSpec := last v.plain .unused (fld64 setBase) .unused .unused

def specSleep (v : View) : OpSpec :=
  last v.plain .unused (fld32 [.v, .s, .latch, .cbank, .sys, .imm]) .unused .unused

def specNop (v : View) : OpSpec := { specCtl v with anyPos := true }

-- ---------------------------------------------------------------------------------------------
-- Group 100 (R160, R161)

def sizeTys : List Ty := [.i8, .n8, .i16, .n16, .b32, .b64, .xa320]

/-- XS at most 4, and XS and SX zero when SB is a displacement (R161). -/
def View.scaleOk (v : View) : Bool :=
  v.o 4 3 ≤ 4 &&
    (match v.sb with
     | .src b => b.cls != .imm || v.o 4 4 == 0
     | .imm _ => v.opt == 0)

/-- ORD (R161). -/
def View.ord (v : View) : Nat := v.o 0 2

/-- ORD is zero when the scope is .th. -/
def View.ordScope (v : View) : Bool := v.scp ≤ 6 && (v.scp != 0 || v.ord == 0)

def specLd (v : View) : OpSpec :=
  last (sizeTys.contains v.ty && v.ordScope && v.ord ≤ 1 && v.scaleOk)
    (v.ty.fld [.v]) (fld64 setBase) (fld32 setOff) .unused

def specSt (v : View) : OpSpec :=
  last (sizeTys.contains v.ty && v.ordScope && (v.ord == 0 || v.ord == 2) && v.scaleOk)
    .unused (fld64 setBase) (fld32 setOff) (v.ty.fld (if v.ty = .xa320 then [.v] else setG))

def specLds (v : View) : OpSpec :=
  last (sizeTys.contains v.ty && v.scp == 0 && v.ord == 0 && v.o 3 1 == 0 && v.scaleOk)
    (v.ty.fld [.v]) (fld32 setBase) (fld32 setOff) .unused

def specSts (v : View) : OpSpec :=
  last (sizeTys.contains v.ty && v.scp == 0 && v.ord == 0 && v.o 3 1 == 0 && v.scaleOk)
    .unused (fld32 setBase) (fld32 setOff) (v.ty.fld (if v.ty = .xa320 then [.v] else setG))

def specLdc (v : View) : OpSpec :=
  last (bitTys.contains v.ty && v.z == 0 && v.opt == 0) (v.ty.fld [.v]) (fld32 setG) (fld32 [.imm]) .unused

def ldtTys : List Ty := [.f4, .q4, .f8e4, .f8e5, .q8, .i8, .n8, .f16, .bf16, .i16, .n16, .b32]

def specLdt (v : View) : OpSpec :=
  last (ldtTys.contains v.ty && v.z == 0 && (v.opt &&& 0xFB) == 0)
    ⟨[.v], .grp (2 * v.ty.width)⟩ (fld32 setBase) (fld32 setG) .unused

/-- The types an atomic operation accepts (R173). -/
def atomTys (op : Nat) (red : Bool) : List Ty :=
  match op with
  | 0 | 1 | 2 => wordTys
  | 3 | 4 | 5 => bitTys
  | 6 | 7 => if red then [] else bitTys
  | 8 => [.f32, .f64]
  | 9 | 10 => [.f32]
  | 11 => if red then flt3Tys else []
  | 12 => [.n32]
  | _ => []

/-- The operation of an atomic (R161). -/
def View.aop (v : View) : Nat := v.o 2 4

def specAtom (v : View) : OpSpec :=
  last ((atomTys v.aop false).contains v.ty && 1 ≤ v.scp && v.scp ≤ 6 && v.optBelow 6)
    (v.ty.fld [.v]) (fld64 setBase) (v.ty.fld setG) (if v.aop = 7 then v.ty.fld setG else .unused)

def specAtoms (v : View) : OpSpec :=
  last ((atomTys v.aop false).contains v.ty && (v.scp == 2 || v.scp == 3) && v.optBelow 7)
    (v.ty.fld [.v]) (fld32 setBase) (v.ty.fld setG) (if v.aop = 7 then v.ty.fld setG else .unused)

def specRed (v : View) : OpSpec :=
  last ((atomTys v.aop true).contains v.ty && 1 ≤ v.scp && v.scp ≤ 6 && v.optBelow 6 && (v.aop != 11 || 4 ≤ v.scp))
    .unused (fld64 setBase) (v.ty.fld setG) .unused

/-- The size of an access in bytes (R167). -/
def Ty.bytes : Ty → Nat
  | .i8 | .n8 => 1
  | .i16 | .n16 | .f16 | .bf16 => 2
  | .b64 | .i64 | .n64 | .f64 => 8
  | .xa320 => 48
  | _ => 4

/-- The alignment of an access (R163). -/
def Ty.align (t : Ty) : Nat := if t = .xa320 then 16 else t.bytes

/-- The number of registers a type fills. -/
def Ty.regs (t : Ty) : Nat := (t.bytes + 3) / 4

/-- Whether ORD asks for an acquire, or for a release (R161). -/
def View.acq (v : View) : Bool := v.ord % 2 == 1
def View.rel (v : View) : Bool := v.ord / 2 == 1

/-- The window flag CL of LDS, STS and LDT (R161). -/
def View.cl (v : View) : Bool := v.o 2 1 == 1

/-- The bytes of an atomic's location, and its alignment (R174, R175). -/
def View.atomBytes (v : View) : Nat := if v.aop = 11 then 48 else v.ty.bytes
def View.atomAlign (v : View) : Nat := if v.aop = 11 then 64 else v.ty.bytes

def specFence (v : View) : OpSpec :=
  last (v.ty == .none && 1 ≤ v.scp && v.scp ≤ 6 && v.optBelow 2 && v.ord != 0) .unused .unused .unused .unused

def specCwb (scps : List Nat) (v : View) : OpSpec :=
  last (v.ty == .none && scps.contains v.scp && v.opt == 0) .unused (fld64 setBase) (fld32 setG) .unused

/-- CDISC is a scalar memory form (R179). -/
def specCdisc (v : View) : OpSpec :=
  last (v.ty == .none && v.scp == 4 && v.opt == 0) (fld64 [.s]) (fld64 [.s, .cbank]) (fld32 [.s, .cbank, .imm]) .unused

def specPref (v : View) : OpSpec :=
  last (v.ty == .none && (v.scp == 2 || v.scp == 4) && v.opt == 0) .unused (fld64 setBase) (fld32 setOff) .unused

def specMonw (v : View) : OpSpec :=
  last (bitTys.contains v.ty && 4 ≤ v.scp && v.scp ≤ 6 && v.optBelow 2 && v.ord ≤ 1)
    (v.ty.fld [.v]) (fld64 setBase) (v.ty.fld setG) (fld32 setG)

/-- RST takes the cache policy of R161, which lists it, beside XS and SX (assumption 20, DEDUCED). -/
def specRst (v : View) : OpSpec :=
  last ([Ty.i8, .n8, .i16, .n16, .b32, .b64].contains v.ty && v.scp == 0 && v.ord == 0 && v.scaleOk)
    .unused (fld64 setBase) (fld32 setOff) (v.ty.fld setG)

def specPtst (v : View) : OpSpec :=
  last (bitTys.contains v.ty && v.z == 0 && v.optBelow 1) (fld32 (if v.o 0 1 = 0 then [.pred] else [.v])) (v.ty.fld [.v]) .unused .unused

def specReplay (v : View) : OpSpec := last v.plain .unused (fld32 [.v]) .unused .unused

-- ---------------------------------------------------------------------------------------------
-- Group 101, flights (R202)

/-- A class of the uniform set U (R202): class 101 only where flight-uniform. -/
def uniOk (s : Src) : Bool := s.cls != .sys || sysUniform s.idx.toNat

def View.sbSrc (v : View) : Src :=
  match v.sb with
  | .src b => b
  | .imm _ => Src.zero

def specVote (v : View) : OpSpec :=
  lastW (v.ty == .none && v.z == 0 && v.optBelow 2)
    (fld32 (if v.o 0 2 = 3 then [.k, .s, .v] else [.pred])) (fld32 setP) .unused .unused

def specShfl (v : View) : OpSpec :=
  lastW (bitTys.contains v.ty && v.z == 0 && v.optBelow 2 && [1, 2, 4, 8, 16, 32].contains v.sc.idx.toNat)
    (v.ty.fld [.v]) (v.ty.fld [.v]) (fld32 setG) (fld32 [.imm])

def specMatch (v : View) : OpSpec :=
  lastW (bitTys.contains v.ty && v.z == 0 && v.optBelow 1)
    (fld32 (if v.o 0 1 = 0 then [.v] else [.pred])) (v.ty.fld [.v]) .unused .unused

/-- The types of a FREDUX operation (R206). -/
def freduxTys (op : Nat) : List Ty :=
  match op with
  | 0 => wordTys
  | 1 | 2 => wordTys ++ [.f32]
  | 3 | 4 | 5 => bitTys
  | 6 => [.f32]
  | _ => []

def specFredux (v : View) : OpSpec :=
  lastW ((freduxTys (v.o 0 3)).contains v.ty && v.optBelow 3 && (v.o 0 3 == 6 || v.z == 0))
    (v.ty.fld [.v, .s]) (v.ty.fld setG) .unused .unused

/-- KMOV: a k destination from U, any other from a k mask (R207). -/
def specKmov (v : View) : OpSpec :=
  if v.isI then lastW v.plain (fld32 [.k]) .unused .unused .unused
  else if v.dst.cls = .k then lastW (v.plain && uniOk v.sa) (fld32 [.k]) (fld32 setU) .unused .unused
  else lastW v.plain (fld32 [.s, .v, .pred]) (fld32 [.k]) .unused .unused

def specKlop (v : View) : OpSpec :=
  lastW (v.ty == .none && v.z == 0 && uniOk v.sa && uniOk v.sbSrc && uniOk v.sc)
    (fld32 [.k]) (fld32 setU) (fld32 setU) (fld32 setU)

def specKpopc (v : View) : OpSpec :=
  lastW (v.ty == .none && v.z == 0 && v.opt.toNat ≤ 2 && uniOk v.sa)
    (fld32 (if v.o 0 2 = 0 then [.v, .s] else [.v])) (fld32 setU) .unused .unused

def specKfind (v : View) : OpSpec :=
  lastW (v.ty == .none && v.z == 0 && v.opt.toNat ≤ 2 && uniOk v.sa && (v.dst.cls == .v || uniOk v.sbSrc))
    (fld32 [.v, .s]) (fld32 setU)
    (if v.opt.toNat = 2 then (if v.dst.cls = .v then fld32 setG else fld32 setU) else .unused) .unused

def specRcv (v : View) : OpSpec :=
  lastW (v.plain && v.sbSrc.idx.toNat < 8) .unused (fld32 [.k, .s, .imm]) (fld32 [.imm]) .unused

def specWide0 (v : View) : OpSpec := lastW v.plain .unused .unused .unused .unused


-- ---------------------------------------------------------------------------------------------
-- Barriers (R226, R235, R306)

def setB : List Cls := [.imm, .v, .s]

/-- A barrier operand: an immediate must lie in 0 to 63 (R235). -/
def cbImmOk (s : Src) : Bool := s.cls != .imm || s.idx.toNat < 64

def specBar (v : View) : OpSpec :=
  lastW (v.plain && v.sa.idx.toNat < 16) .unused (fld32 [.imm]) .unused .unused

def specCbarm (v : View) : OpSpec :=
  last (v.ty == .none && 2 ≤ v.scp && v.scp ≤ 6 && v.optBelow 1 && cbImmOk v.sa
      && (v.o 0 1 == 0 || v.sb == .src ⟨.imm, 0⟩))
    .unused (fld32 setB) (fld32 setG) .unused

def specCbadd (v : View) : OpSpec := last (v.plain && cbImmOk v.sa) .unused (fld32 setB) (fld32 setG) .unused
def specCbwait (v : View) : OpSpec := last (v.plain && cbImmOk v.sa) .unused (fld32 setB) .unused .unused
def specCbread (v : View) : OpSpec := last (v.plain && cbImmOk v.sa) (fld64 [.v]) (fld32 setB) .unused .unused

-- ---------------------------------------------------------------------------------------------
-- The press (R251)

/-- A legal pairing of press formats and the bank type it takes (R250). -/
def pressPair (a b : Nat) : Option Ty :=
  if (a = 0 ∧ b = 0) ∨ (a = 1 ∧ b = 1) ∨ ((a = 2 ∨ a = 3) ∧ (b = 2 ∨ b = 3)) ∨ (a = 4 ∧ b = 4) then some .f32
  else if ((a = 5 ∨ a = 6) ∧ (b = 5 ∨ b = 6)) ∨ ((a = 7 ∨ a = 8) ∧ (b = 7 ∨ b = 8)) then some .i32
  else Option.none

/-- TYP F32 or I32 and a bank in [70]. -/
def View.bankOk (v : View) : Bool := (v.ty == .f32 || v.ty == .i32) && v.z.toNat < 2

def specMxacq (v : View) : OpSpec := lastW (v.ty == .none && v.z == 0 && v.optBelow 1) .unused .unused .unused .unused

def specMma (v : View) : OpSpec :=
  lastW (v.bankOk && pressPair (v.o 0 4) (v.o 4 4) == some v.ty && uniOk v.sa && uniOk v.sbSrc && uniOk v.sc)
    .unused (fld32 setU) (fld32 setU) (fld32 setU)

def specMxzero (v : View) : OpSpec := lastW (v.bankOk && v.opt == 0) .unused .unused .unused .unused

def specMxldz (v : View) : OpSpec :=
  lastW (v.bankOk && v.opt == 0 && uniOk v.sa && uniOk v.sbSrc && uniOk v.sc) .unused (fld32 setU) (fld32 setU) (fld32 setU)

def specMxstz (v : View) : OpSpec :=
  lastW (v.bankOk && v.optBelow 4 && v.o 0 3 ≤ 3 && (v.o 0 3 == 0 || v.ty == .f32) && (v.o 3 1 == 0 || 2 ≤ v.o 0 3)
      && uniOk v.sa && uniOk v.sbSrc && uniOk v.sc)
    .unused (fld32 setU) (fld32 setU) (fld32 setU)

def specMxstzReg (v : View) : OpSpec :=
  lastW (v.bankOk && v.opt == 0x80 && uniOk v.sa && uniOk v.sbSrc)
    ⟨[.v], .grp 8⟩ (fld32 setU) (fld32 setU) .unused

/-- CBAR: ids 0 to 7 (R305). -/
def specCbar (v : View) : OpSpec :=
  lastW (v.plain && v.sa.idx.toNat < 8) .unused (fld32 [.imm]) .unused .unused


-- ---------------------------------------------------------------------------------------------
-- Forking (R265)

def specRfork (v : View) : OpSpec :=
  lastW (v.plain && (match v.sb with
                     | .src b => b.idx.toNat ≤ 60
                     | .imm _ => false))
    (fld64 [.s]) (fld64 [.s, .cbank]) (fld64 [.s]) .unused

def specRjoin (v : View) : OpSpec := last v.plain .unused (fld64 setBase) .unused .unused

/-- RSTAT: a v pair, or an s register in a scalar form (R265). -/
def specRstat (v : View) : OpSpec :=
  { last v.plain (fld64 [.v, .s]) (fld64 setBase) .unused .unused with scalar := true }

-- ---------------------------------------------------------------------------------------------
-- Racking-only instructions (R270)

def eng (ok : Bool) (dst sa sb sc : Field) : OpSpec :=
  { ok := ok, dst := dst, sa := sa, sb := sb, sc := sc, scalar := false, anyPos := false, wide := false, engine := true }

def efE : Field := fld32 [.v]
def efEI : Field := fld32 [.v, .imm]
def efEsI : Field := fld32 [.v, .sys, .imm]
def efW : Field := fld32 [.s]
def efB : Field := fld32 [.k, .v]

def specEalu (v : View) : OpSpec := eng v.plain efE efEsI efEI .unused

def specEcmp (v : View) : OpSpec :=
  eng ((v.ty == .i64 || v.ty == .n64) && v.z.toNat < 6 && v.opt == 0) efE efEsI efEI .unused

def specEmov (v : View) : OpSpec :=
  if v.isI then eng (v.ty == .none && v.z.toNat < 2 && v.opt == 0) efE .unused .unused .unused
  else eng v.plain efE efEsI .unused .unused

def specEbr (v : View) : OpSpec := eng (v.ty == .none && v.z.toNat < 2 && v.opt == 0) .unused efE efE .unused

def specEjmp (v : View) : OpSpec := eng v.plain .unused (if v.isI then .unused else efE) .unused .unused

def specEloop (v : View) : OpSpec := eng v.plain efE efE efE .unused

def engMemTys : List Ty := [.n8, .n16, .n32, .n64]

/-- ORD of an engine access stands in OPT[2:1], SP in OPT[0] (R270). -/
def View.eord (v : View) : Nat := v.o 1 2
def View.esp (v : View) : Bool := v.opt.getLsbD 0

def engOrdOk (v : View) (ord : Nat) : Bool :=
  v.optBelow 3 && (v.eord == 0 || v.eord == ord) &&
    (if v.eord = 0 then v.z == 0 else 2 ≤ v.scp && v.scp ≤ 6) && !(v.esp && v.eord != 0)

def specEld (v : View) : OpSpec := eng (engMemTys.contains v.ty && engOrdOk v 1) efE efE efEI .unused
def specEst (v : View) : OpSpec := eng (engMemTys.contains v.ty && engOrdOk v 2) .unused efE efEI efE

def specWsetLd (v : View) : OpSpec := eng v.plain efW efEI efEI .unused

def specWset (v : View) : OpSpec :=
  eng (v.ty == .none && v.z == 0 && 1 ≤ v.opt.toNat && v.opt.toNat ≤ 12) efW efEI .unused .unused

def specWstep (v : View) : OpSpec :=
  eng (v.plain && v.sa.idx.toNat ≤ 4) efW (fld32 [.imm]) efEI .unused

/-- The barrier of a transfer: NCB with a zero DST, or a counted barrier (R270). -/
def cbDst (v : View) : Field := if v.opt.getLsbD 7 then .unused else fld32 [.k]

def specTcopy (v : View) : OpSpec := eng (v.ty == .none && v.z == 0 && (v.opt &&& 0x7F) == 0) (cbDst v) efW efW .unused

/-- Width of a press format code (R250). -/
def pressWidth (f : Nat) : Nat := if f ≤ 1 then 16 else if f = 4 ∨ f = 7 ∨ f = 8 then 4 else 8

def specTexp (v : View) : OpSpec :=
  eng (v.ty == .none && v.z == 0 && v.o 0 4 ≤ 8 && v.o 4 2 ≤ 2 && (v.o 4 2 == 0 || (v.o 0 4 != 6 && v.o 0 4 != 8)))
    (cbDst v) efEI efW (if v.sc = Src.zero then .unused else efW)

def specTpack (v : View) : OpSpec :=
  eng (v.ty == .none && v.z == 0 && v.o 0 4 ≤ 8 && v.o 0 4 != 6 && v.o 0 4 != 8 && 1 ≤ v.o 4 2 && v.o 4 2 ≤ 2
      && v.o 6 1 == 0)
    (cbDst v) efW efW (if v.sc = Src.zero then .unused else efW)

def specTgs (v : View) : OpSpec := eng (v.ty == .none && v.z == 0 && (v.opt &&& 0x7F) == 0) (cbDst v) efW efW efW

def specTreg (v : View) : OpSpec :=
  eng (v.ty == .none && v.z == 0 && (v.opt &&& 0x7F) == 0 && 1 ≤ v.sc.idx.toNat && v.sc.idx.toNat ≤ 8)
    (cbDst v) efW efE (fld32 [.imm])

def specEcbadd (v : View) : OpSpec := eng v.plain .unused efB efEI .unused
def specEcbwait (v : View) : OpSpec := eng v.plain .unused efB .unused .unused

def specEfence (v : View) : OpSpec :=
  eng (v.ty == .none && 2 ≤ v.scp && v.scp ≤ 6 && v.optBelow 2 && v.o 0 2 != 0) .unused .unused .unused .unused

def specEend (v : View) : OpSpec := eng v.plain .unused .unused .unused .unused


-- ---------------------------------------------------------------------------------------------
-- System instructions (R355)

/-- A system instruction: not a scalar form, but its sources are from U (R354). -/
def sys (ok : Bool) (v : View) (dst sa sb sc : Field) : OpSpec :=
  last (ok && v.ty == .none && v.z == 0 && uniOk v.sa && uniOk v.sbSrc && uniOk v.sc) dst sa sb sc

def fU32 : Field := fld32 setU
def fU64 : Field := fld64 setU
def fS : Field := fld64 [.s]

def specCsrr (v : View) : OpSpec := sys (v.opt == 0) v fS fU32 .unused .unused
def specCsrw (v : View) : OpSpec := sys (v.opt == 0) v .unused fU32 fU64 .unused
def specTlbinv (v : View) : OpSpec :=
  if v.opt = 1 then sys true v .unused fU32 fU64 fU64 else sys (v.opt == 0) v .unused fU32 .unused .unused
def specLqpop (v : View) : OpSpec := sys (v.opt == 0) v fS fU32 .unused .unused
def specLqdone (v : View) : OpSpec := sys (v.optBelow 1) v .unused fU32 fU64 .unused

-- Contexts and the Trellis (R383, R402)

def specCtxsave (v : View) : OpSpec := sys (v.opt == 0) v fS fU32 fU64 fU32
def specCtxsaveDrop (v : View) : OpSpec := sys (v.opt == 1) v fS fU32 .unused .unused
def specCtxload (v : View) : OpSpec := sys (v.opt == 0) v fS fU32 fU64 .unused
def specCtxloadRes (v : View) : OpSpec := sys (v.opt == 1) v fS fU32 .unused .unused
def specTgpost (v : View) : OpSpec := sys (v.opt == 0) v fS fU64 .unused .unused
def specTgdone (v : View) : OpSpec := sys (v.opt == 0) v fS fU32 .unused .unused

-- PMFLIP and the fabric instructions (R415, R448): the sources are from U; they may be flight-wide in no form.

def specPmflip (d : Bool) (v : View) : OpSpec := sys (v.opt == (if d then 1 else 0)) v fS fU32 fU64 .unused
def specCgload (free : Bool) (v : View) : OpSpec := sys (v.opt == (if free then 1 else 0)) v fS fU64 .unused .unused
def specCgrun (v : View) : OpSpec := sys (v.opt == 0 && v.sbSrc.idx.toNat ≤ 56) v fS fU64 (fld64 [.s]) fU32
def specTship (v : View) : OpSpec := sys (v.opt == 0) v fS fU64 fU64 .unused
def specTsreg (v : View) : OpSpec := sys (v.opt == 0) v fS fU64 fU32 .unused

-- ---------------------------------------------------------------------------------------------
-- The table of encodings (R51, R52)

/-- How an instruction is encoded: a register form or an I-form with its opcode, its fields and what it accepts, or an event, which has
no word. -/
inductive Form where
  | reg (opc : Nat) (a : Args) (spec : View → OpSpec)
  | imm (opc : Nat) (a : ArgsI) (spec : View → OpSpec)
  | event

/-- The encoding of every instruction (R51 and the encoding table of each chapter). -/
def Instr.form : Instr → Form
  | .add a => .reg 0x000 a (specInt intTys true false 2)
  | .addI a => .imm 0x040 a (specInt intTys true false 2)
  | .sub a => .reg 0x001 a (specInt intTys true false 2)
  | .subI a => .imm 0x041 a (specInt intTys true false 2)
  | .mul a => .reg 0x002 a (specInt intTys true false 2)
  | .mulI a => .imm 0x042 a (specInt intTys true false 2)
  | .mulhi a => .reg 0x003 a (specInt wordTys false false 2)
  | .mad a => .reg 0x004 a (specInt wordTys true false 3)
  | .neg a => .reg 0x005 a (specInt [.i8, .i16, .i32, .i64] true false 1)
  | .abs a => .reg 0x006 a (specInt [.i8, .i16, .i32, .i64] true false 1)
  | .min a => .reg 0x007 a (specInt intTys false false 2)
  | .minI a => .imm 0x047 a (specInt intTys false false 2)
  | .max a => .reg 0x008 a (specInt intTys false false 2)
  | .maxI a => .imm 0x048 a (specInt intTys false false 2)
  | .div a => .reg 0x009 a (specInt wordTys true true 2)
  | .rem a => .reg 0x00A a (specInt wordTys false true 2)
  | .and a => .reg 0x00B a (specInt bitTys false false 2)
  | .andI a => .imm 0x04B a (specInt bitTys false false 2)
  | .or a => .reg 0x00C a (specInt bitTys false false 2)
  | .orI a => .imm 0x04C a (specInt bitTys false false 2)
  | .xor a => .reg 0x00D a (specInt bitTys false false 2)
  | .xorI a => .imm 0x04D a (specInt bitTys false false 2)
  | .not a => .reg 0x00E a (specInt bitTys false false 1)
  | .andn a => .reg 0x00F a (specInt bitTys false false 2)
  | .andnI a => .imm 0x04F a (specInt bitTys false false 2)
  | .shl a => .reg 0x010 a (specShift bitTys)
  | .shlI a => .imm 0x050 a (specShift bitTys)
  | .shr a => .reg 0x011 a (specShift bitTys)
  | .shrI a => .imm 0x051 a (specShift bitTys)
  | .sar a => .reg 0x012 a (specShift [.i32, .i64])
  | .sarI a => .imm 0x052 a (specShift [.i32, .i64])
  | .rol a => .reg 0x013 a (specShift bitTys)
  | .rolI a => .imm 0x053 a (specShift bitTys)
  | .bfx a => .reg 0x014 a specBfx
  | .bfi a => .reg 0x015 a specBfi
  | .popc a => .reg 0x016 a specCount
  | .clz a => .reg 0x017 a specCount
  | .brev a => .reg 0x018 a (specInt bitTys false false 1)
  | .sel a => .reg 0x019 a specSel
  | .cmp a => .reg 0x01A a specCmp
  | .cmpI a => .imm 0x05A a specCmp
  | .plop a => .reg 0x01B a specPlop
  | .mov a => .reg 0x01C a specMov
  | .movi a => .imm 0x05C a specMov
  | .lea a => .reg 0x01D a specLea
  | .leaI a => .imm 0x05D a specLea
  | .icvt a => .reg 0x01E a specIcvt
  | .fadd a => .reg 0x080 a (specFlt fltTys true 2)
  | .faddI a => .imm 0x0C0 a (specFlt fltTys true 2)
  | .fsub a => .reg 0x081 a (specFlt fltTys true 2)
  | .fsubI a => .imm 0x0C1 a (specFlt fltTys true 2)
  | .fmul a => .reg 0x082 a (specFlt fltTys true 2)
  | .fmulI a => .imm 0x0C2 a (specFlt fltTys true 2)
  | .ffma a => .reg 0x083 a (specFlt fltTys true 3)
  | .fmin a => .reg 0x084 a (specFlt flt3Tys false 2)
  | .fminI a => .imm 0x0C4 a (specFlt flt3Tys false 2)
  | .fmax a => .reg 0x085 a (specFlt flt3Tys false 2)
  | .fmaxI a => .imm 0x0C5 a (specFlt flt3Tys false 2)
  | .fcmp a => .reg 0x086 a specFcmp
  | .fcmpI a => .imm 0x0C6 a specFcmp
  | .fclass a => .reg 0x087 a specFclass
  | .frcp a => .reg 0x088 a (specFlt [.f32] true 1)
  | .frsq a => .reg 0x089 a (specFlt [.f32] false 1)
  | .fsqrt a => .reg 0x08A a (specFlt [.f32] true 1)
  | .fex2 a => .reg 0x08B a (specFlt [.f32] false 1)
  | .flg2 a => .reg 0x08C a (specFlt [.f32] false 1)
  | .fsin a => .reg 0x08D a (specFlt [.f32] false 1)
  | .fcos a => .reg 0x08E a (specFlt [.f32] false 1)
  | .fcvt a => .reg 0x08F a (specCvt allFltTys allFltTys true)
  | .f2i a => .reg 0x090 a (specCvt wordTys fltTys false)
  | .i2f a => .reg 0x091 a (specCvt fltTys wordTys false)
  | .frnd a => .reg 0x092 a (specFlt flt3Tys true 1)
  | .fscl a => .reg 0x093 a specFscl
  | .hvadd a => .reg 0x094 a (specFlt halfTys true 2)
  | .hvmul a => .reg 0x095 a (specFlt halfTys true 2)
  | .hvfma a => .reg 0x096 a (specFlt halfTys true 3)
  | .hvmin a => .reg 0x097 a (specFlt halfTys false 2)
  | .hvmax a => .reg 0x098 a (specFlt halfTys false 2)
  | .dp8 a => .reg 0x100 a specDp
  | .dp4 a => .reg 0x101 a specDp
  | .fdp8 a => .reg 0x102 a (specFdp 2)
  | .fdp4 a => .reg 0x103 a (specFdp 0)
  | .pack a => .reg 0x104 a specPack
  | .unpk a => .reg 0x105 a specUnpk
  | .xscl a => .reg 0x106 a specXscl
  | .xacc a => .reg 0x107 a specXacc
  | .xadd a => .reg 0x108 a specXadd
  | .xrnd a => .reg 0x109 a specXrnd
  | .xclr a => .reg 0x10A a specXclr
  | .bra a => .imm 0x1C0 a specCtl
  | .brx a => .reg 0x181 a specCtlX
  | .call a => .imm 0x1C2 a specCtl
  | .callx a => .reg 0x183 a specCtlX
  | .ret a => .reg 0x184 a specCtl
  | .exit a => .reg 0x185 a specCtl
  | .trap a => .reg 0x186 a specTrapOp
  | .rtt a => .reg 0x187 a specCtl
  | .yield a => .reg 0x188 a specCtl
  | .sleep a => .reg 0x189 a specSleep
  | .bkpt a => .reg 0x18A a specTrapOp
  | .nop a => .reg 0x18B a specNop
  | .eadd a => .reg 0x1A0 a specEalu
  | .eaddI a => .imm 0x1E0 a specEalu
  | .esub a => .reg 0x1A1 a specEalu
  | .esubI a => .imm 0x1E1 a specEalu
  | .emul a => .reg 0x1A2 a specEalu
  | .eand a => .reg 0x1A3 a specEalu
  | .eandI a => .imm 0x1E3 a specEalu
  | .eor a => .reg 0x1A4 a specEalu
  | .eorI a => .imm 0x1E4 a specEalu
  | .exor a => .reg 0x1A5 a specEalu
  | .exorI a => .imm 0x1E5 a specEalu
  | .eshl a => .reg 0x1A6 a specEalu
  | .eshlI a => .imm 0x1E6 a specEalu
  | .eshr a => .reg 0x1A7 a specEalu
  | .eshrI a => .imm 0x1E7 a specEalu
  | .ecmp a => .reg 0x1A8 a specEcmp
  | .ecmpI a => .imm 0x1E8 a specEcmp
  | .emov a => .reg 0x1A9 a specEmov
  | .emovi a => .imm 0x1E9 a specEmov
  | .ebr a => .reg 0x1AA a specEbr
  | .ebrI a => .imm 0x1EA a specEbr
  | .ejmp a => .reg 0x1AB a specEjmp
  | .ejmpI a => .imm 0x1EB a specEjmp
  | .eloop a => .reg 0x1AC a specEloop
  | .eloopI a => .imm 0x1EC a specEloop
  | .eld a => .reg 0x1AD a specEld
  | .eldI a => .imm 0x1ED a specEld
  | .est a => .reg 0x1AE a specEst
  | .wsetLd a => .reg 0x1AF a specWsetLd
  | .wset a => .reg 0x1AF a specWset
  | .wstep a => .reg 0x1B0 a specWstep
  | .tcopy a => .reg 0x1B1 a specTcopy
  | .texp a => .reg 0x1B2 a specTexp
  | .tpack a => .reg 0x1B3 a specTpack
  | .tgath a => .reg 0x1B4 a specTgs
  | .tscat a => .reg 0x1B5 a specTgs
  | .treg a => .reg 0x1B6 a specTreg
  | .ecbadd a => .reg 0x1B7 a specEcbadd
  | .ecbwait a => .reg 0x1B8 a specEcbwait
  | .efence a => .reg 0x1B9 a specEfence
  | .eend a => .reg 0x1BA a specEend
  | .ld a => .reg 0x200 a specLd
  | .ldI a => .imm 0x240 a specLd
  | .st a => .reg 0x201 a specSt
  | .lds a => .reg 0x202 a specLds
  | .ldsI a => .imm 0x242 a specLds
  | .sts a => .reg 0x203 a specSts
  | .ldc a => .reg 0x204 a specLdc
  | .ldcI a => .imm 0x244 a specLdc
  | .ldt a => .reg 0x205 a specLdt
  | .atom a => .reg 0x206 a specAtom
  | .atoms a => .reg 0x207 a specAtoms
  | .red a => .reg 0x208 a specRed
  | .fence a => .reg 0x209 a specFence
  | .cwb a => .reg 0x20A a (specCwb [4, 5, 6])
  | .cinv a => .reg 0x20B a (specCwb [2, 5, 6])
  | .cdisc a => .reg 0x20C a specCdisc
  | .pref a => .reg 0x20D a specPref
  | .prefI a => .imm 0x24D a specPref
  | .monw a => .reg 0x20E a specMonw
  | .rst a => .reg 0x20F a specRst
  | .wcfl a => .reg 0x210 a specCtl
  | .ptst a => .reg 0x211 a specPtst
  | .replay a => .reg 0x212 a specReplay
  | .vote a => .reg 0x280 a specVote
  | .shfl a => .reg 0x281 a specShfl
  | .matchV a => .reg 0x282 a specMatch
  | .fredux a => .reg 0x283 a specFredux
  | .kmov a => .reg 0x284 a specKmov
  | .kmovI a => .imm 0x2C4 a specKmov
  | .klop a => .reg 0x285 a specKlop
  | .kpopc a => .reg 0x286 a specKpopc
  | .kfind a => .reg 0x287 a specKfind
  | .rcv a => .reg 0x288 a specRcv
  | .alloc a => .reg 0x289 a specWide0
  | .free a => .reg 0x28A a specWide0
  | .bar a => .reg 0x290 a specBar
  | .cbarm a => .reg 0x291 a specCbarm
  | .cbarmI a => .imm 0x2D1 a specCbarm
  | .cbadd a => .reg 0x292 a specCbadd
  | .cbaddI a => .imm 0x2D2 a specCbadd
  | .cbwait a => .reg 0x293 a specCbwait
  | .cbacq a => .reg 0x294 a specCbadd
  | .cbread a => .reg 0x295 a specCbread
  | .cbar a => .reg 0x298 a specCbar
  | .mxacq a => .reg 0x300 a specMxacq
  | .mxrel a => .reg 0x301 a specWide0
  | .mma a => .reg 0x302 a specMma
  | .mmas a => .reg 0x303 a specMma
  | .mxzero a => .reg 0x304 a specMxzero
  | .mxldz a => .reg 0x305 a specMxldz
  | .mxstz a => .reg 0x306 a specMxstz
  | .mxstzReg a => .reg 0x306 a specMxstzReg
  | .mxwait a => .reg 0x307 a specWide0
  | .rfork a => .reg 0x310 a specRfork
  | .rjoin a => .reg 0x311 a specRjoin
  | .rstat a => .reg 0x312 a specRstat
  | .pmflipH a => .reg 0x320 a (specPmflip false)
  | .pmflipD a => .reg 0x320 a (specPmflip true)
  | .cgload a => .reg 0x321 a (specCgload false)
  | .cgloadFree a => .reg 0x321 a (specCgload true)
  | .cgrun a => .reg 0x322 a specCgrun
  | .tship a => .reg 0x323 a specTship
  | .tsreg a => .reg 0x324 a specTsreg
  | .csrr a => .reg 0x380 a specCsrr
  | .csrw a => .reg 0x381 a specCsrw
  | .tlbinv a => .reg 0x382 a specTlbinv
  | .lqpop a => .reg 0x383 a specLqpop
  | .lqdone a => .reg 0x384 a specLqdone
  | .ctxsave a => .reg 0x388 a specCtxsave
  | .ctxsaveDrop a => .reg 0x388 a specCtxsaveDrop
  | .ctxload a => .reg 0x389 a specCtxload
  | .ctxloadRes a => .reg 0x389 a specCtxloadRes
  | .tgpost a => .reg 0x38A a specTgpost
  | .tgdone a => .reg 0x38B a specTgdone
  | .unallocatedOpcode _ => .event
  | .loadLanding _ _ _ => .event
  | .longOpComplete _ _ _ => .event
  | .storeFailure _ => .event
  | .sleepExpiry _ _ _ => .event
  | .monwWake _ _ _ => .event
  | .monwTimeout _ _ _ => .event
  | .flightOverdue _ _ => .event
  | .threadAged _ _ _ => .event
  | .blockAdmit _ => .event
  | .allocGrant _ => .event
  | .scratchpadRelease _ _ => .event
  | .remoteArrival _ _ _ _ _ => .event
  | .arrivalRetry _ => .event
  | .pressGrant _ => .event
  | .pairClaimGrant _ => .event
  | .pressInstrPerform _ => .event
  | .pressRegLanding _ => .event
  | .pieceLand _ _ _ _ => .event
  | .wcbDrainTimeout _ _ => .event
  | .launchComplete _ => .event
  | .nodeDispatch _ => .event
  | .rootProgramStart _ => .event
  | .sliceExpiry _ => .event
  | .eventSlotFreed _ => .event
  | .eventRingRetry _ => .event
  | .partSet _ _ => .event
  | .vfSet _ _ => .event
  | .extAdd _ _ => .event
  | .extDel _ _ => .event
  | .pfEvtSet _ => .event
  | .ctxKill _ => .event
  | .mailboxUnknownCode _ _ _ => .event
  | .ctxOpen _ => .event
  | .ctxClose _ _ => .event
  | .vfEvtSet _ _ => .event
  | .wayMaskWrite _ _ => .event
  | .vfLqpop _ => .event
  | .vfLqdone _ _ => .event
  | .vfLqrfs _ _ => .event
  | .coreSramWrite _ _ => .event
  | .ctxTranslationWrite _ _ _ => .event
  | .dieRetireWrite _ _ => .event
  | .dieGovWrite _ _ => .event
  | .registerWrite _ _ => .event
  | .hostMemrd _ _ _ => .event
  | .hostMemwr _ _ _ _ _ _ => .event
  | .hostMeminv _ _ _ => .event
  | .bisnpResponse _ _ _ => .event
  | .bisnpTimeout _ => .event
  | .snpinv _ => .event
  | .snpdata _ => .event
  | .snpcur _ => .event
  | .cxlCacheResponse _ _ _ _ => .event
  | .viralReceived _ => .event
  | .linkDown _ => .event
  | .linkTrain _ _ _ _ _ => .event
  | .laneFail _ => .event
  | .laneRetrainDone _ => .event
  | .peerRequestTimeout _ => .event
  | .holdNoticeTimer _ => .event
  | .holdNotice _ => .event
  | .poolMemRequest _ => .event
  | .addDynamicCapacity _ _ _ _ => .event
  | .releaseDynamicCapacity _ _ => .event
  | .vatContribution _ _ _ _ _ _ _ _ _ => .event
  | .vatFetch _ _ _ _ => .event
  | .vatAbort _ _ _ => .event
  | .vatAbortExpiry _ => .event
  | .contribRetry _ _ _ _ => .event
  | .cgOpComplete _ _ _ _ => .event
  | .cgTimeout _ _ _ => .event
  | .sendpSector _ _ _ _ _ _ _ _ _ => .event
  | .taskPacketReceive _ _ _ _ _ _ _ _ _ => .event
  | .taskPacketComplete _ _ => .event
  | .coreLost _ => .event
  | .uncorrectableError _ => .event
  | .rowRemap _ _ => .event
  | .governorStep _ _ => .event
  | .reset _ _ _ => .event
  | .recoveryImagePush _ => .event
  | .engineLoadLanding _ _ => .event
  | .hdmDecoderCommit _ => .event
  | .peerMemRequest _ => .event
  | .taskImageReceive _ _ _ _ => .event
  | .doeRequest _ => .event
  | .biconflict _ => .event

/-- What an instruction accepts, and its fields as one view; none for an event. -/
def Instr.view? (i : Instr) : Option (View × OpSpec) :=
  match i.form with
  | .reg _ a sp => some (a.view, sp a.view)
  | .imm _ a sp => some (a.view, sp a.view)
  | .event => none

/-- The register forms by opcode (R51). Six opcodes stand for two rows of the table, told apart by an option bit. -/
def regTable : List (Nat × (Args → Instr)) :=
  [(0x000, .add),
   (0x001, .sub),
   (0x002, .mul),
   (0x003, .mulhi),
   (0x004, .mad),
   (0x005, .neg),
   (0x006, .abs),
   (0x007, .min),
   (0x008, .max),
   (0x009, .div),
   (0x00A, .rem),
   (0x00B, .and),
   (0x00C, .or),
   (0x00D, .xor),
   (0x00E, .not),
   (0x00F, .andn),
   (0x010, .shl),
   (0x011, .shr),
   (0x012, .sar),
   (0x013, .rol),
   (0x014, .bfx),
   (0x015, .bfi),
   (0x016, .popc),
   (0x017, .clz)] ++
  [(0x018, .brev),
   (0x019, .sel),
   (0x01A, .cmp),
   (0x01B, .plop),
   (0x01C, .mov),
   (0x01D, .lea),
   (0x01E, .icvt),
   (0x080, .fadd),
   (0x081, .fsub),
   (0x082, .fmul),
   (0x083, .ffma),
   (0x084, .fmin),
   (0x085, .fmax),
   (0x086, .fcmp),
   (0x087, .fclass),
   (0x088, .frcp),
   (0x089, .frsq),
   (0x08A, .fsqrt),
   (0x08B, .fex2),
   (0x08C, .flg2),
   (0x08D, .fsin),
   (0x08E, .fcos),
   (0x08F, .fcvt),
   (0x090, .f2i)] ++
  [(0x091, .i2f),
   (0x092, .frnd),
   (0x093, .fscl),
   (0x094, .hvadd),
   (0x095, .hvmul),
   (0x096, .hvfma),
   (0x097, .hvmin),
   (0x098, .hvmax),
   (0x100, .dp8),
   (0x101, .dp4),
   (0x102, .fdp8),
   (0x103, .fdp4),
   (0x104, .pack),
   (0x105, .unpk),
   (0x106, .xscl),
   (0x107, .xacc),
   (0x108, .xadd),
   (0x109, .xrnd),
   (0x10A, .xclr),
   (0x181, .brx),
   (0x183, .callx),
   (0x184, .ret),
   (0x185, .exit),
   (0x186, .trap)] ++
  [(0x187, .rtt),
   (0x188, .yield),
   (0x189, .sleep),
   (0x18A, .bkpt),
   (0x18B, .nop),
   (0x1A0, .eadd),
   (0x1A1, .esub),
   (0x1A2, .emul),
   (0x1A3, .eand),
   (0x1A4, .eor),
   (0x1A5, .exor),
   (0x1A6, .eshl),
   (0x1A7, .eshr),
   (0x1A8, .ecmp),
   (0x1A9, .emov),
   (0x1AA, .ebr),
   (0x1AB, .ejmp),
   (0x1AC, .eloop),
   (0x1AD, .eld),
   (0x1AE, .est),
   (0x1AF, fun a => if a.opt = 0 then .wsetLd a else .wset a),
   (0x1B0, .wstep),
   (0x1B1, .tcopy),
   (0x1B2, .texp)] ++
  [(0x1B3, .tpack),
   (0x1B4, .tgath),
   (0x1B5, .tscat),
   (0x1B6, .treg),
   (0x1B7, .ecbadd),
   (0x1B8, .ecbwait),
   (0x1B9, .efence),
   (0x1BA, .eend),
   (0x200, .ld),
   (0x201, .st),
   (0x202, .lds),
   (0x203, .sts),
   (0x204, .ldc),
   (0x205, .ldt),
   (0x206, .atom),
   (0x207, .atoms),
   (0x208, .red),
   (0x209, .fence),
   (0x20A, .cwb),
   (0x20B, .cinv),
   (0x20C, .cdisc),
   (0x20D, .pref),
   (0x20E, .monw),
   (0x20F, .rst)] ++
  [(0x210, .wcfl),
   (0x211, .ptst),
   (0x212, .replay),
   (0x280, .vote),
   (0x281, .shfl),
   (0x282, .matchV),
   (0x283, .fredux),
   (0x284, .kmov),
   (0x285, .klop),
   (0x286, .kpopc),
   (0x287, .kfind),
   (0x288, .rcv),
   (0x289, .alloc),
   (0x28A, .free),
   (0x290, .bar),
   (0x291, .cbarm),
   (0x292, .cbadd),
   (0x293, .cbwait),
   (0x294, .cbacq),
   (0x295, .cbread),
   (0x298, .cbar),
   (0x300, .mxacq),
   (0x301, .mxrel),
   (0x302, .mma)] ++
  [(0x303, .mmas),
   (0x304, .mxzero),
   (0x305, .mxldz),
   (0x306, fun a => if a.opt.getLsbD 7 then .mxstzReg a else .mxstz a),
   (0x307, .mxwait),
   (0x310, .rfork),
   (0x311, .rjoin),
   (0x312, .rstat),
   (0x320, fun a => if a.opt.getLsbD 0 then .pmflipD a else .pmflipH a),
   (0x321, fun a => if a.opt.getLsbD 0 then .cgloadFree a else .cgload a),
   (0x322, .cgrun),
   (0x323, .tship),
   (0x324, .tsreg),
   (0x380, .csrr),
   (0x381, .csrw),
   (0x382, .tlbinv),
   (0x383, .lqpop),
   (0x384, .lqdone),
   (0x388, fun a => if a.opt.getLsbD 0 then .ctxsaveDrop a else .ctxsave a),
   (0x389, fun a => if a.opt.getLsbD 0 then .ctxloadRes a else .ctxload a),
   (0x38A, .tgpost),
   (0x38B, .tgdone)]

/-- The I-forms by opcode (R51). -/
def immTable : List (Nat × (ArgsI → Instr)) :=
  [(0x040, .addI),
   (0x041, .subI),
   (0x042, .mulI),
   (0x047, .minI),
   (0x048, .maxI),
   (0x04B, .andI),
   (0x04C, .orI),
   (0x04D, .xorI),
   (0x04F, .andnI),
   (0x050, .shlI),
   (0x051, .shrI),
   (0x052, .sarI),
   (0x053, .rolI),
   (0x05A, .cmpI),
   (0x05C, .movi),
   (0x05D, .leaI),
   (0x0C0, .faddI),
   (0x0C1, .fsubI),
   (0x0C2, .fmulI),
   (0x0C4, .fminI),
   (0x0C5, .fmaxI),
   (0x0C6, .fcmpI),
   (0x1C0, .bra),
   (0x1C2, .call)] ++
  [(0x1E0, .eaddI),
   (0x1E1, .esubI),
   (0x1E3, .eandI),
   (0x1E4, .eorI),
   (0x1E5, .exorI),
   (0x1E6, .eshlI),
   (0x1E7, .eshrI),
   (0x1E8, .ecmpI),
   (0x1E9, .emovi),
   (0x1EA, .ebrI),
   (0x1EB, .ejmpI),
   (0x1EC, .eloopI),
   (0x1ED, .eldI),
   (0x240, .ldI),
   (0x242, .ldsI),
   (0x244, .ldcI),
   (0x24D, .prefI),
   (0x2C4, .kmovI),
   (0x2D1, .cbarmI),
   (0x2D2, .cbaddI)]

/-- The entry of an opcode. -/
def findOpc {α : Type} (n : Nat) : List (Nat × α) → Option α
  | [] => none
  | (k, x) :: rest => if k = n then some x else findOpc n rest

/-- Whether an opcode is allocated (R51, R52). -/
def allocated (opc : Nat) : Bool := (findOpc opc regTable).isSome || (findOpc opc immTable).isSome

end Sys2Proof
end

