-- ==== Sys2Proof/WellFormed.lean ====
section
/-!
DEFINITION. Sys2Proof/WellFormed.lean: which instructions are legal encodings (R32, R36, R37, R47 to R49), by the specification of each encoding.
What depends on the place in a run (R40, R41, R43) or on the kind of thread (R48) is checked when the instruction executes.
-/
namespace Sys2Proof

/-- Whether an instruction is a legal encoding. An event has no encoding, and the row of the unallocated opcodes stands for exactly
the words whose opcode R51 does not allocate (R52). -/
def Instr.wf : Instr → Bool
  | .unallocatedOpcode w => !allocated (w.extractLsb' 0 10).toNat
  | i => match i.view? with
    | some (v, o) => o.legal v
    | none => true

end Sys2Proof
end

