-- ==== Sys2Proof/Decode.lean ====
section
/-!
DEFINITION. Sys2Proof/Decode.lean: from 96-bit words to instructions and back (R27 to R29, R32, R37, R38, R50 to R52). Decoding is total: a word
whose opcode is not allocated is the row UNALLOCATED_OPCODE, and any other illegal word is rejected with the first reason of R49.
-/
namespace Sys2Proof

/-- Why a word with an allocated opcode is an illegal encoding (R49). -/
inductive Reject where
  /-- HNT[95:86] is not zero. -/
  | reservedHint
  /-- TYP is 21 to 31 (R37). -/
  | typeCode
  /-- A class, an index, a type, a scope, an unused field or an option that the encoding does not accept. -/
  | operands
deriving DecidableEq, Repr

/-- The result of decoding: an instruction, or a rejection by name. -/
inductive Decoded where
  | ok (i : Instr)
  | illegal (r : Reject)
deriving DecidableEq, Repr

-- Fields of a word (R28, R29, R38)

def opcField (w : W96) : Nat := (w.extractLsb' 0 10).toNat
def grdField (w : W96) : BitVec 4 := w.extractLsb' 10 4
def tyField (w : W96) : Nat := (w.extractLsb' 73 5).toNat
def zField (w : W96) : BitVec 3 := w.extractLsb' 70 3
def optField (w : W96) : BitVec 8 := w.extractLsb' 62 8
def immField (w : W96) : BitVec 32 := w.extractLsb' 62 8 ++ w.extractLsb' 38 24
def reservedField (w : W96) : BitVec 10 := w.extractLsb' 86 10

/-- A 12-bit source field: class over index. -/
def unpackSrc (b : BitVec 12) : Src := ⟨Cls.ofCode (b.extractLsb' 9 3), b.extractLsb' 0 9⟩

/-- The DST field: N, class, index. -/
def unpackDst (b : BitVec 12) : Dst := ⟨b.getLsbD 11, Cls.ofCode (b.extractLsb' 8 3), b.extractLsb' 0 8⟩

def dstField (w : W96) : Dst := unpackDst (w.extractLsb' 14 12)
def saField (w : W96) : Src := unpackSrc (w.extractLsb' 26 12)
def sbField (w : W96) : Src := unpackSrc (w.extractLsb' 38 12)
def scField (w : W96) : Src := unpackSrc (w.extractLsb' 50 12)
def hntField (w : W96) : Hint := ⟨w.extractLsb' 78 2, w.extractLsb' 80 4, w.getLsbD 84, w.getLsbD 85⟩

/-- The fields of a register form. -/
def unpackArgs (w : W96) (ty : Ty) : Args :=
  { grd := grdField w, dst := dstField w, sa := saField w, sb := sbField w, sc := scField w, ty := ty, z := zField w
    opt := optField w, hnt := hntField w }

/-- The fields of an I-form. -/
def unpackArgsI (w : W96) (ty : Ty) : ArgsI :=
  { grd := grdField w, dst := dstField w, sa := saField w, imm := immField w, ty := ty, z := zField w, hnt := hntField w }

/-- The instruction that a legal type and an allocated opcode name. -/
def instrOf (w : W96) (ty : Ty) : Option Instr :=
  match findOpc (opcField w) regTable with
  | some f => some (f (unpackArgs w ty))
  | none =>
    match findOpc (opcField w) immTable with
    | some f => some (f (unpackArgsI w ty))
    | none => none

/-- Decoding a word (R47 item 1, R49). -/
def decodeWord (w : W96) : Decoded :=
  if !allocated (opcField w) then .ok (.unallocatedOpcode w)
  else if reservedField w ≠ 0 then .illegal .reservedHint
  else match Ty.ofCode (tyField w) with
    | none => .illegal .typeCode
    | some ty =>
      match instrOf w ty with
      | some i => if i.wf then .ok i else .illegal .operands
      | none => .illegal .operands

/-- The word of twelve bytes, the first byte at the lowest address (R8, R27). -/
def wordOfBytes (bs : List Byte) : W96 :=
  BitVec.ofNat 96 (bs.foldr (fun b acc => b.toNat + 256 * acc) 0)

/-- The twelve bytes of a word, in rising order of address. -/
def bytesOfWord (w : W96) : List Byte := (List.range 12).map fun k => w.extractLsb' (8 * k) 8

/-- Decoding from bytes: an instruction takes twelve of them. None where there are fewer. -/
def decodeBytes (bs : List Byte) : Option (Decoded × List Byte) :=
  if bs.length < 12 then none else some (decodeWord (wordOfBytes (bs.take 12)), bs.drop 12)

-- ---------------------------------------------------------------------------------------------
-- The encoder

def packSrc (s : Src) : BitVec 12 := s.cls.code ++ s.idx
def packDst (d : Dst) : BitVec 12 := BitVec.ofBool d.n ++ d.cls.code ++ d.idx
def packHint (h : Hint) : BitVec 18 := (0#10 ++ BitVec.ofBool h.land ++ BitVec.ofBool h.yld) ++ h.stall ++ h.run
def packTy (t : Ty) : BitVec 5 := BitVec.ofNat 5 t.code

/-- The word of a register form (R28). -/
def packArgs (opc : Nat) (a : Args) : W96 :=
  packHint a.hnt ++ packTy a.ty ++ a.z ++ a.opt ++ packSrc a.sc ++ packSrc a.sb ++ packSrc a.sa ++ packDst a.dst ++ a.grd
    ++ BitVec.ofNat 10 opc

/-- The word of an I-form (R29): the immediate's bits [23:0] stand at [61:38] and its bits [31:24] at [69:62], so it lies in one piece. -/
def packArgsI (opc : Nat) (a : ArgsI) : W96 :=
  packHint a.hnt ++ packTy a.ty ++ a.z ++ a.imm ++ packSrc a.sa ++ packDst a.dst ++ a.grd ++ BitVec.ofNat 10 opc

/-- The word of an instruction. An event has none, and its word is zero by convention. -/
def encode (i : Instr) : W96 :=
  match i with
  | .unallocatedOpcode w => w
  | i =>
    match i.form with
    | .reg opc a _ => packArgs opc a
    | .imm opc a _ => packArgsI opc a
    | .event => 0

/-- Whether an instruction has a word. -/
def hasWord (i : Instr) : Bool :=
  match i with
  | .unallocatedOpcode _ => true
  | i =>
    match i.form with
    | .event => false
    | _ => true

/-- What the decoder reads from an instruction whose bits are w, bit 0 the least significant of the first word (R27).
The words lie in memory in their byte order, and the bytes are given to the decoder. -/
def decodeTableWord (_nbits w : Nat) : Option Instr :=
  match decodeBytes (bytesOfWord (BitVec.ofNat 96 w)) with
  | some (.ok i, _) => some i
  | _ => none

end Sys2Proof
end

