-- ==== Sys2Proof/Machine/Operands.lean ====
section
/-!
DEFINITION. Sys2Proof/Machine/Operands.lean: every operand form: what each class of source reads (R32 to R36), the results of write_dst (R53), the registers an
instruction names (R45, R98), XA groups (R146), and barrier operands (R236).
-/
namespace Sys2Proof.Machine

open Sys2Proof

-- ---------------------------------------------------------------------------------------------
-- Values with poison

def Val.zero : Val := ⟨0, false, false⟩
/-- A 32-bit value: its upper half reads as zero and is not poisoned (R33). -/
def Val.of32 (x : W32) (p : Bool) : Val := ⟨x.setWidth 64, p, false⟩
def Val.of64 (x : W64) : Val := ⟨x, false, false⟩
def Val.psn (v : Val) : Bool := v.plo || v.phi
def Val.lo (v : Val) : W32 := v.bits.setWidth 32
def Val.hi (v : Val) : W32 := v.bits.extractLsb' 32 32
/-- The token of a poisoned value: that of its low half if that is poisoned, else of its high half (R184, assumption 35, DEDUCED). -/
def Val.tok (v : Val) : Nat := if v.plo then tokenOf v.lo else tokenOf v.hi
/-- poison(k) in both halves, or in the low half of a 32-bit result. -/
def Val.poison (k : Nat) (wide : Bool) : Val :=
  if wide then ⟨poisonBits k ++ poisonBits k, true, true⟩ else ⟨(poisonBits k).setWidth 64, true, false⟩

-- ---------------------------------------------------------------------------------------------
-- System registers

/-- The system registers of R34, for a lane whose thread stood as t at issue. -/
def State.sysReg (s : State) (c : Nat) (f : Flight) (t : Thread) (l i : Nat) : W64 :=
  let x := s.ctx f.ctx
  match i with
  | 0 => BitVec.ofNat 64 (f.idx * 32 + l)
  | 1 => BitVec.ofNat 64 l
  | 2 => BitVec.ofNat 64 f.idx
  | 3 => match s.blockOf f with
    | some (_, b) => BitVec.ofNat 64 (b.sysBlock % 2 ^ 32)
    | none => 0
  | 4 => BitVec.ofNat 64 f.stage
  | 5 => match s.launch? f.launch with
    | some la => BitVec.ofNat 64 (la.id % 2 ^ 32)
    | none => 0
  | 6 => BitVec.ofNat 64 c
  | 7 => BitVec.ofNat 64 s.clock
  | 8 => BitVec.ofNat 64 f.ctx
  | 0x10 => t.trapcause.setWidth 64
  | 0x11 => t.trapaddr
  | 0x12 => t.poisontok.setWidth 64
  | 0x13 => t.sp
  | 0x20 => x.hbase
  | 0x21 => x.hlimit
  | 0x22 => x.hoffset
  | 0x23 => x.tvec
  | 0x24 => x.lbase
  | _ => 0

/-- A word of the launch's constant bank; words beyond its size read as zero (R33, R171). -/
def State.cbankWord (s : State) (f : Flight) (i : Nat) : W32 :=
  match s.launch? f.launch with
  | some la => la.cbank.getD i 0
  | none => 0

-- ---------------------------------------------------------------------------------------------
-- Source fields

/-- A v register of a thread. -/
def Thread.vreg (t : Thread) (i : Nat) : VReg := t.v.getD i ⟨0, false, false⟩

/-- The thread of a lane, and the s and k registers, as they stood when the run issued (R42). -/
def Run.thread (r : Run) (l : Nat) : Thread := r.snap.getD l { Thread.fresh with live := false }
def Run.sreg (r : Run) (i : Nat) : W64 := r.snapS.getD i 0
def Run.kreg (r : Run) (i : Nat) : W32 := r.snapK.getD i 0
def Run.latch (r : Run) (l i : Nat) : Val := (r.lat.getD l [])[i]?.getD Val.zero

/-- A predicate as it stood at issue: p7 reads true (R30). -/
def Thread.pred (t : Thread) (i : Nat) : Bool := if i ≥ 7 then true else t.preds.getLsbD i

/-- read_src of R53 at 32 or 64 bits (R33). -/
def State.readSrc (s : State) (c : Nat) (f : Flight) (r : Run) (l : Nat) (x : Src) (wide : Bool) : Val :=
  let i := x.idx.toNat
  let t := r.thread l
  match x.cls with
  | .v =>
    let a := t.vreg i
    if wide then
      let b := t.vreg (i + 1)
      ⟨b.val ++ a.val, a.psn, b.psn⟩
    else Val.of32 a.val a.psn
  | .s => if wide then Val.of64 (r.sreg i) else Val.of32 ((r.sreg i).setWidth 32) false
  | .latch =>
    let v := r.latch l i
    if wide then v else Val.of32 v.lo v.plo
  | .pred => Val.of64 (if t.pred i then 1 else 0)
  | .k => Val.of64 ((r.kreg i).setWidth 64)
  | .sys =>
    let y := s.sysReg c f t l i
    if wide then Val.of64 y else Val.of32 (y.setWidth 32) false
  | .cbank =>
    let a := s.cbankWord f i
    if wide then Val.of64 (s.cbankWord f (i + 1) ++ a) else Val.of32 a false
  | .imm => if wide then Val.of64 (x.idx.signExtend 64) else Val.of32 (x.idx.signExtend 32) false

/-- The immediate of an I-form for an integer type (R35). -/
def immInt (ty : Ty) (x : BitVec 32) : Val :=
  if ty == .i64 then Val.of64 (x.signExtend 64) else if ty.wide then Val.of64 (x.setWidth 64) else Val.of32 x false

/-- The immediate of an I-form for a floating-point type: an F32 pattern, widened or rounded (R35). -/
def immFlt (ty : Ty) (x : BitVec 32) (mode : Rnd) : Val :=
  if ty == .f32 then Val.of32 x false
  else
    let y := roundMode ty.fmt (valueOf fmtF32 x.toNat false) mode false false
    if ty.wide then Val.of64 (BitVec.ofNat 64 y) else Val.of32 (BitVec.ofNat 32 y) false

/-- The SB operand of a view, register or immediate. `flt` is the rounding mode of an immediate that is an F32 pattern. -/
def State.readB (s : State) (c : Nat) (f : Flight) (r : Run) (l : Nat) (v : View) (wide : Bool) (flt : Option Rnd) : Val :=
  match v.sb with
  | .src b => s.readSrc c f r l b wide
  | .imm x => match flt with
    | some mode => immFlt v.ty x mode
    | none => immInt v.ty x

/-- A group of n v registers read as it stands, with poison (R146, R204). -/
def Run.group (r : Run) (l i n : Nat) : List (W32 × Bool) :=
  (List.range n).map fun j => let a := (r.thread l).vreg (i + j); (a.val, a.psn)

/-- An XA320 slot of twelve registers (R86, R146). -/
def xaOfWords (ws : List (W32 × Bool)) : XA := XA.ofNat (ws.foldr (fun w acc => w.1.toNat + 2 ^ 32 * acc) 0)

/-- The twelve words of an XA320 slot. -/
def wordsOfXa (a : XA) : List W32 := (List.range 12).map fun k => BitVec.ofNat 32 (a.toNat / 2 ^ (32 * k))

-- ---------------------------------------------------------------------------------------------
-- Destination fields

/-- What sys.poisontok names at a trap (R108): nothing, a token, a token that no register holds with its KIND (R154), or for TOKEN_FULL the
KIND that found no entry. -/
inductive TokRef where
  | none
  | tok (k : Nat)
  | fresh (k n : Nat)
  | kind (n : Nat)
deriving DecidableEq, Repr

/-- What a lane does at a member: its latch and staged writes, or a trap with its code, operand and token. -/
inductive LaneRes where
  | done (lat : Val) (ws : List SWrite)
  | trap (code opnd : Nat) (tok : TokRef)
deriving DecidableEq, Repr

/-- The value a result leaves in the latch: a predicate destination fills it with 1 or 0 (R41, R114). -/
def latchOf (d : Dst) (wide : Bool) (bits : W64) : Val :=
  let b := if wide then bits else (bits.setWidth 32).setWidth 64
  if d.cls = .pred then Val.of64 (if b = 0 then 0 else 1) else Val.of64 b

/-- write_dst of R53: `psn` is the token of a poisoned result. -/
def writeDst (d : Dst) (wide : Bool) (bits : W64) (psn : Option Nat) : LaneRes :=
  let lat : Val := match psn with
    | some k => Val.poison k wide
    | none => latchOf d wide bits
  let i := d.idx.toNat
  if d.n then .done lat []
  else
    match d.cls with
    | .v => .done lat (if wide then [.v i lat.lo lat.plo, .v (i + 1) lat.hi lat.phi] else [.v i lat.lo lat.plo])
    | cl =>
      match psn with
      | some k => .trap tPOISON 4 (.tok k)
      | none =>
        match cl with
        | .s => .done lat [.s i lat.bits]
        | .pred => .done lat [.p i (lat.bits != 0)]
        | .k => .done lat [.k i lat.lo]
        | .sys => .done lat [.sp lat.bits]
        | _ => .done lat []

/-- MOV's write (R128): each half keeps its own poison in a v pair and in the latch; elsewhere a poisoned half traps. -/
def writeRaw (d : Dst) (wide : Bool) (x : Val) : LaneRes :=
  let lat : Val := if x.psn then x else latchOf d wide x.bits
  let i := d.idx.toNat
  if d.n then .done lat []
  else if d.cls = .v then .done lat (if wide then [.v i x.lo x.plo, .v (i + 1) x.hi x.phi] else [.v i x.lo x.plo])
  else if x.psn then .trap tPOISON 4 (.tok x.tok)
  else writeDst d wide x.bits none

/-- A result for a predicate destination: the latch holds 1 or 0 (R41). -/
def writePred (d : Dst) (b : Bool) : LaneRes := writeDst d false (if b then 1 else 0) none

/-- A group of registers written as one result (R146): a poisoned group holds the same poisoned value in each register. -/
def writeGroup (d : Dst) (ws : List W32) (psn : Option Nat) : LaneRes :=
  let i := d.idx.toNat
  let lat : Val := match psn with
    | some k => Val.poison k false
    | none => Val.of32 (ws.headD 0) false
  if d.n then .done lat []
  else
    .done lat ((List.range ws.length).map fun j => match psn with
      | some k => .v (i + j) (poisonBits k) true
      | none => .v (i + j) (ws.getD j 0) false)

-- ---------------------------------------------------------------------------------------------
-- The registers an instruction names

/-- The v registers of a field: the first and how many. -/
def fieldSpan (fd : Field) (cls : Cls) (i : Nat) : Option (Nat × Nat) :=
  if fd.classes ≠ [] ∧ cls = .v then some (i, fd.width.regs) else none

/-- The v registers a view names, with the OPND code of their field (R98, R107). -/
def vspans (o : OpSpec) (v : View) : List (Nat × Nat × Nat) :=
  let a := (fieldSpan o.sa v.sa.cls v.sa.idx.toNat).map fun x => (1, x)
  let b := match v.sb with
    | .src y => (fieldSpan o.sb y.cls y.idx.toNat).map fun x => (2, x)
    | .imm _ => none
  let cc := (fieldSpan o.sc v.sc.cls v.sc.idx.toNat).map fun x => (3, x)
  let d := (fieldSpan o.dst v.dst.cls v.dst.idx.toNat).map fun x => (4, x)
  [a, b, cc, d].filterMap id

/-- The first field that names a register at or above the allotment (R98). -/
def overAllot (o : OpSpec) (v : View) (allot : Nat) : Option Nat :=
  ((vspans o v).find? fun x => x.2.1 + x.2.2 > allot).map (·.1)

/-- The s registers, or k masks, that a view names. -/
def uniRegs (o : OpSpec) (v : View) (cl : Cls) : List Nat :=
  let src (fd : Field) (x : Src) : List Nat := if fd.classes ≠ [] ∧ x.cls = cl then [x.idx.toNat] else []
  src o.sa v.sa
    ++ (match v.sb with
        | .src b => src o.sb b
        | .imm _ => [])
    ++ src o.sc v.sc ++ (if o.dst.classes ≠ [] ∧ v.dst.cls = cl then [v.dst.idx.toNat] else [])

/-- Whether no register that a view names is pending, for the lanes of exec (R45). `extra` are s registers read beyond its fields. -/
def Flight.noPending (f : Flight) (exec : W32) (o : OpSpec) (v : View) (extra : List Nat) : Bool :=
  ((lanesOf exec).all fun l =>
    let t := f.thread l
    (vspans o v).all fun x => (List.range x.2.2).all fun j => !(t.vreg (x.2.1 + j)).pend)
    && ((uniRegs o v .s ++ extra).all fun i => !f.sPend.getLsbD i)
    && ((uniRegs o v .k).all fun i => !f.kPend.getLsbD i)

/-- Whether a latch read stands too early in its run (R41). -/
def latchOk (v : View) (o : OpSpec) (pos : Nat) : Bool :=
  let ok (fd : Field) (x : Src) : Bool := fd.classes = [] || x.cls != .latch || x.idx.toNat < pos
  ok o.sa v.sa && ok o.sc v.sc && (match v.sb with
    | .src b => ok o.sb b
    | .imm _ => true)

/-- A barrier number (R236): an immediate is legal by its encoding, a register above 63 traps. -/
inductive CbNum where
  | ok (n : Nat)
  | trap (code opnd : Nat) (tok : TokRef)
deriving DecidableEq, Repr

def cbNum (x : Src) (v : Val) : CbNum :=
  if v.psn then .trap tPOISON 1 (.tok v.tok)
  else if x.cls = .imm then .ok (v.lo.toNat % 64)
  else if v.lo.toNat > 63 then .trap tFORBIDDEN 1 .none
  else .ok v.lo.toNat

end Sys2Proof.Machine
end

