-- ==== Sys2Proof/Machine/Flags.lean ====
section
/-!
DEFINITION. Sys2Proof/Machine/Flags.lean: the conditions: guards (R30, R97), comparison conditions of CMP, ECMP and FCMP (R125, R134, R271), and the lookup
tables of PLOP and KLOP (R126, R208).
-/
namespace Sys2Proof.Machine

open Sys2Proof

/-- The guard of a thread (R30, R53). -/
def guardOf (grd : BitVec 4) (t : Thread) : Bool :=
  t.pred (grd.toNat % 8) != grd.getLsbD 3

/-- The lanes of exec whose guard is true, by the predicates at issue (R97). -/
def guardMask (grd : BitVec 4) (r : Run) : W32 :=
  (lanesOf r.exec).foldl (fun m l => if guardOf grd (r.thread l) then m ||| laneBit l else m) 0

/-- A comparison of exact values by its condition code: EQ, NE, LT, LE, GT, GE (R125). -/
def condInt (code : Nat) (a b : Int) : Bool :=
  match code with
  | 0 => a = b
  | 1 => a ≠ b
  | 2 => a < b
  | 3 => a ≤ b
  | 4 => a > b
  | 5 => a ≥ b
  | _ => false

/-- A lookup-table bit of three inputs (R126). -/
def lutBit (lut : BitVec 8) (a b c : Bool) : Bool :=
  lut.getLsbD (4 * a.toNat + 2 * b.toNat + c.toNat)

/-- A lookup table on every bit of three masks (R208). -/
def lutMask (lut : BitVec 8) (a b c : W32) : W32 :=
  (List.range 32).foldl (fun (m : W32) i =>
    if lutBit lut (a.getLsbD i) (b.getLsbD i) (c.getLsbD i) then m ||| (1#32 <<< i) else m) 0

end Sys2Proof.Machine
end

