-- ==== Sys2Proof/Machine/Run.lean ====
section
/-!
DEFINITION. Sys2Proof/Machine/Run.lean: executing one member of a run for every thread of exec: the checks of R47 in their order, guards, latches and staged
writes (R41, R42), traps of single lanes (R44, R54), the commit with the last member, and instructions that wait (R189).
-/
namespace Sys2Proof.Machine

open Sys2Proof

/-- What a thread waits for at the last member of its run, before the run commits in it. -/
inductive Wait where
  | cbWait (cb : Nat)
  | cbAcq (cb amount : Nat)
  | sleep (start count : Nat)
  | monw (addr : W64) (scope : Nat) (acq wide : Bool) (cmp : W64) (limit start : Nat) (dst : Dst) (lpc : W57) (issue : Nat)
  | alloc
  | mxacq (pair : Bool)
  | rjoin (fork : Nat)
deriving DecidableEq, Repr

/-- The hold of a waiting thread. -/
def Wait.hold (p : Pass) : Wait → Hold
  | .cbWait cb => .cbWait cb p
  | .cbAcq cb n => .cbAcq cb n p
  | .sleep a n => .sleep a n p
  | .monw a sc q w x lim st d lpc n => .monw a sc q w x lim st d lpc n p
  | .alloc => .alloc p
  | .mxacq b => .mxacq b p
  | .rjoin n => .rjoin n p

/-- How a thread goes on when the last member of its run is done. -/
inductive LaneEnd where
  /-- In sequence. -/
  | next
  /-- At another address (R154). -/
  | go (pc : W57)
  /-- The run has committed and the thread is held behind it (R210, R227, R306). -/
  | held (h : Hold)
  /-- The thread waits with its run uncommitted. -/
  | wait (w : Wait)
  | exit
  /-- TRAP and BKPT: the run commits and the thread enters the handler (R158). -/
  | enter (code : Nat)
  /-- The member stays in progress: the flight issues nothing else, and a later turn of its slot goes on with it. -/
  | again
deriving DecidableEq, Repr

/-- Whether a thread waits with its run uncommitted. -/
def LaneEnd.waits : LaneEnd → Bool
  | .wait _ => true
  | _ => false

/-- The code with which a thread enters its handler behind the run. -/
def LaneEnd.entry : LaneEnd → Option Nat
  | .enter code => some code
  | _ => none

/-- What a member does in one lane. -/
structure LaneOut where
  lane : Nat
  res  : LaneRes
  fin  : LaneEnd := .next
deriving DecidableEq, Repr

/-- What a member does: in each lane whose guard is true, and once for the flight. -/
structure Outs where
  lanes  : List LaneOut
  fwrites : List SWrite := []
  /-- FREE: the registers above 16 go with the commit (R218). -/
  lower  : Bool := false
deriving DecidableEq, Repr

/-- Where a member executes: its core, its flight's key, the flight and its run. -/
structure Here where
  c   : Nat
  fid : Nat
  f   : Flight
  r   : Run
deriving DecidableEq, Repr

/-- What an instruction asks of the checks of R47 beyond its `OpSpec`. -/
structure Mode where
  /-- It needs steward or firmware privilege (R354). -/
  priv : Bool := false
  /-- It executes once for the bundle and its guard obeys R36 (R179, R354). -/
  once : Bool := false
  /-- Its latency is pending (R115). -/
  long : Bool := false
deriving DecidableEq, Repr

/-- The address of the member in progress, and of the instruction after it. -/
def Run.addr (r : Run) : W57 := r.start + BitVec.ofNat 57 (12 * r.pos)
def Run.after (r : Run) : W57 := r.start + BitVec.ofNat 57 (12 * (r.pos + 1))
def Run.isLast (r : Run) : Bool := r.pos + 1 == r.len

/-- Fill the next latch position of a lane, and stage writes (R41, R42). -/
def Run.fill (r : Run) (l : Nat) (lat : Val) (ws : List SWrite) : Run :=
  { r with
    lat := r.lat.set l (lat :: (r.lat.getD l []).take 1)
    staged := if ws = [] then r.staged else r.staged.set l (r.staged.getD l [] ++ ws) }

/-- A 57-bit address in a 64-bit register: zero-extended. -/
def pcWord (pc : W57) : W64 := pc.setWidth 64

/-- The place of the cursor, when it names a flight with a run in progress. -/
def State.here? (s : State) : Option Here :=
  if s.cur.engine then none
  else
    match s.flight? s.cur.core s.cur.fid with
    | none => none
    | some f =>
      match f.run with
      | none => none
      | some r => some ⟨s.cur.core, s.cur.fid, f, r⟩

/-- sys.poisontok for a trap (R108). -/
def Flight.tokRef (f : Flight) : TokRef → W32
  | .none => 0
  | .tok k => tokWord k (f.tokKind k)
  | .fresh k n => tokWord k n
  | .kind n => tokWord 0 n

/-- Take the traps of some lanes at the member in progress, one after another (R44, R105). -/
def State.laneTraps (s : State) (h : Here) : List (Nat × Nat × Nat × TokRef) → Acc Unit
  | [] => .ok s ()
  | (l, code, opnd, tok) :: rest =>
    let word := match s.flight? h.c h.fid with
      | some f => f.tokRef tok
      | none => 0
    (s.takeTrap h.c h.fid l h.r.start (causeWord code opnd h.r.pos) (pcWord h.r.addr) word).bind fun s _ =>
      s.laneTraps h rest

/-- Whether two of some ranges of bytes overlap. -/
def anyOverlap (len : Nat) : List Nat → Bool
  | [] => false
  | a :: rest => rest.any (fun b => decide (a < b + len ∧ b < a + len)) || anyOverlap len rest

/-- The traps of a bundle in the order in which they store their frames: free where frames overlap (R13, R165). -/
def State.trapOrder (s : State) (h : Here) (xs : List (Nat × Nat × Nat × TokRef)) : List (Nat × Nat × Nat × TokRef) × State :=
  match s.flight? h.c h.fid with
  | none => (xs, s)
  | some f =>
    if anyOverlap 32 (xs.map fun x => (((f.thread x.1).sp &&& ~~~0xF#64) - 32).toNat) then s.shuffle xs.length xs else (xs, s)

/-- The traps among the results of a member. -/
def trapsOf (outs : List LaneOut) : List (Nat × Nat × Nat × TokRef) :=
  outs.filterMap fun o => match o.res with
    | .trap code opnd tok => some (o.lane, code, opnd, tok)
    | .done _ _ => none

/-- The lanes that completed the member, with their latch and writes. -/
def donesOf (outs : List LaneOut) : List (Nat × Val × List SWrite × LaneEnd) :=
  outs.filterMap fun o => match o.res with
    | .trap _ _ _ => none
    | .done lat ws => some (o.lane, lat, ws, o.fin)

/-- A thread goes on at an address with nothing to hold it. -/
def Flight.goOn (f : Flight) (l : Nat) (pc : W57) (h : Hold) (stall : Nat) : Flight :=
  f.setThread l { f.thread l with pc := pc, hold := h, stallTo := stall }

/-- The pending bits that writes of pending latency set, by lane (R45). -/
def pendsOf (dones : List (Nat × Val × List SWrite × LaneEnd)) (fw : List SWrite) : List (Nat × SWrite) :=
  (dones.flatMap fun x => (x.2.2.1.filter SWrite.pends).map fun w => (x.1, w)) ++ (fw.filter SWrite.pends).map fun w => (0, w)

/-- The pending bits of a run that stay set when its lanes are done (R116): those of the lanes that `keep`, and the flight's own when `own` says so. -/
def Run.pendKept (r : Run) (keep : Nat → Bool) (own : Bool) : List (Nat × SWrite) :=
  r.pend.filter fun x => if x.2.shared then own else keep x.1

/-- Those of a run that clear. -/
def Run.pendGone (r : Run) (keep : Nat → Bool) (own : Bool) : List (Nat × SWrite) :=
  r.pend.filter fun x => !(if x.2.shared then own else keep x.1)

/-- Complete one lane at the last member: commit (R42), or wait with the commit kept back. -/
def Flight.finishLane (f : Flight) (r : Run) (key stall : Nat) (x : Nat × Val × List SWrite × LaneEnd) : Flight :=
  let (l, _, ws, fin) := x
  let staged := r.staged.getD l [] ++ ws
  match fin with
  | .next => (f.commit l staged).goOn l r.after .none stall
  | .go pc => (f.commit l staged).goOn l pc .none stall
  | .held h => (f.commit l staged).goOn l r.after h stall
  | .wait w => f.goOn l r.start (w.hold ⟨key, staged, r.pendKept (· == l) true, r.after⟩) stall
  | .exit => f.commit l staged
  | .enter _ => (f.commit l staged).goOn l r.after .none stall
  | .again => f

/-- Whether a run has something to commit when its last member is done. -/
def Run.commits (r : Run) (dones : List (Nat × Val × List SWrite × LaneEnd)) (fw : List SWrite) : Bool :=
  !dones.isEmpty && (!(r.fstaged ++ fw).isEmpty || dones.any fun x => !(r.staged.getD x.1 [] ++ x.2.2.1).isEmpty)

/-- The last member of a run is done and its latency is pending (R42, R115, R116): the run commits as a whole when the event LONG_OP_COMPLETE comes. Until then the
registers that its long members write are pending; a thread of a run of several members waits, since the other registers have no such bit. -/
def Flight.finishLong (f : Flight) (r : Run) (stall : Nat) (yld : Bool) (dones : List (Nat × Val × List SWrite × LaneEnd)) (fw : List SWrite) : Flight :=
  let id := f.nextId
  let own := pendsOf dones fw
  let keep (l : Nat) : Bool := dones.any fun x => x.1 == l
  let f := (f.pendAll false (r.pendGone keep true)).pendAll true own
  let p : PLong := ⟨dones.map fun x => (x.1, r.staged.getD x.1 [] ++ x.2.2.1), r.fstaged ++ fw, r.pendKept keep true ++ own⟩
  let f := { f with nextId := id + 1, run := none, yielded := yld, longs := f.longs.set id p }
  (dones.foldl (fun f x => f.goOn x.1 r.after (if r.pos = 0 then .none else .commit id) stall) f).gcToks

/-- The last member of a run is done and completes (R42): commit in every lane that completed it; the pending bits that its members set clear (R116). -/
def Flight.finishNow (f : Flight) (r : Run) (stall : Nat) (yld : Bool) (dones : List (Nat × Val × List SWrite × LaneEnd)) (fw : List SWrite) : Flight :=
  let commits := dones.any fun x => !x.2.2.2.waits
  let waits := dones.any fun x => x.2.2.2.waits
  let key := f.nextId
  let shared := r.fstaged ++ fw
  let f := f.pendAll false (r.pendGone (fun l => dones.any fun x => x.1 == l && x.2.2.2.waits) (!commits && waits))
  let f := if commits then f.commit 0 shared
    else if waits ∧ shared ≠ [] then { f with heldRuns := f.heldRuns.set key shared } else f
  let f := { f with nextId := f.nextId + 1, run := none, yielded := yld }
  (dones.foldl (fun f x => f.finishLane r key stall x) f).gcToks

/-- The last member of a run is done. -/
def Flight.finishRun (f : Flight) (r : Run) (stall : Nat) (yld long : Bool) (dones : List (Nat × Val × List SWrite × LaneEnd))
    (fw : List SWrite) : Flight :=
  if long && r.commits dones fw then f.finishLong r stall yld dones fw else f.finishNow r stall yld dones fw

/-- Lower a flight's allotment to 16: the registers above are lost, and their tokens with them (R98, R102, R218). -/
def Flight.lower (f : Flight) : Flight :=
  ({ f with allot := 16, freed := true, threads := f.threads.mapV fun _ t => { t with v := t.v.filter fun i _ => i < 16 } }).gcToks

/-- Age order (R190): blocks by admission, then sys.flight. -/
def Flight.age (f : Flight) : Nat := f.block * 256 + f.idx

/-- A member that cannot be performed yet: the run is dropped and starts again later (assumption 4, DESIGN CHOICE). -/
def State.blocked (s : State) (h : Here) (n : Need) : State :=
  (s.setFlight h.c h.fid { h.f.pendAll false h.r.pend with run := none }).request n

/-- Finish a member: `s0` is the state before it, `s` the state with its own effects. -/
def State.finishMember (s0 s : State) (h : Here) (v : View) (long : Bool) (o : Outs) : State :=
  match s.flight? h.c h.fid with
  | none => s
  | some f =>
    let r := h.r
    let idle := (lanesOf r.exec).filter fun l => !(o.lanes.any fun x => x.lane == l)
    let dones := donesOf o.lanes ++ idle.map fun l => (l, Val.zero, [], LaneEnd.next)
    let traps := trapsOf o.lanes
    let done : Acc State :=
      if r.isLast then
        let f := f.finishRun r (s.clock + v.hnt.stall.toNat) (v.hnt.yld || f.yielded) long dones (if dones = [] then [] else o.fwrites)
        let s := s.setFlight h.c h.fid (if o.lower then f.lower else f)
        let (traps, s) := s.trapOrder h traps
        (s.laneTraps h traps).bind fun s _ =>
          let enters := dones.filterMap fun x => x.2.2.2.entry.map fun code => (x.1, code)
          let s := enters.foldl (fun (acc : Acc Unit) x => acc.bind fun s _ =>
            s.takeTrap h.c h.fid x.1 r.after (causeWord x.2 0 r.pos) (pcWord r.addr) 0) (.ok s ())
          s.bind fun s _ =>
            let exits := dones.filterMap fun x => if x.2.2.2 = .exit then some x.1 else none
            let s := exits.foldl (fun (s : State) l => s.exitThread h.c h.fid l) s
            .ok s s
      else
        let r' := dones.foldl (fun (r : Run) x => r.fill x.1 x.2.1 x.2.2.1) r
        let exec := dones.foldl (fun (m : W32) x => m ||| laneBit x.1) 0
        let own := if long then pendsOf dones o.fwrites else []
        let keep (l : Nat) : Bool := dones.any fun x => x.1 == l
        let r' := { r' with exec := exec, pos := r.pos + 1, fstaged := if exec = 0 then [] else r.fstaged ++ o.fwrites
                            pend := r.pendKept keep (exec != 0) ++ own }
        let f := (f.pendAll false (r.pendGone keep (exec != 0))).pendAll true own
        let s := s.setFlight h.c h.fid { f with run := if exec = 0 then none else some r' }
        let (traps, s) := s.trapOrder h traps
        (s.laneTraps h traps).bind fun s _ => .ok s s
    match done with
    | .ok _ s => s.clearFailed
    | .bad _ _ => s0.blocked h .held
    | .wait n => s0.blocked h n

/-- Every thread of a mask traps with one cause at the member in progress. -/
def trapLanes (m : W32) (code opnd : Nat) : Outs := { lanes := (lanesOf m).map fun l => ⟨l, .trap code opnd .none, .next⟩ }

/-- The member in progress waits for the device. -/
def State.keepRun (s : State) (h : Here) : State :=
  match s.flight? h.c h.fid with
  | some f => s.setFlight h.c h.fid { f with run := some { h.r with waiting := true } }
  | none => s

/-- One member for every thread of exec: the checks of R47 in their order, then the instruction's own effect `body` in the lanes whose guard is
true. -/
def State.member (s : State) (h : Here) (v : View) (o : OpSpec) (m : Mode) (body : Here → W32 → State → Acc Outs) : State :=
  let r := h.r
  let fin (x : Outs) : State := s.finishMember s h v false x
  if !o.legal v || o.engine || !latchOk v o r.pos || (r.pos != 0 && v.hnt.run != 0) || (m.priv && !isPrivileged h.f.ctx) then
    fin (trapLanes r.exec tILLEGAL 0)
  else
    let g := guardMask v.grd r
    if g = 0 then fin { lanes := [] }
    else if (o.wide || m.once || o.isScalar v) && g != r.exec then fin (trapLanes r.exec tNONUNIFORM 0)
    else
      match overAllot o v h.f.allot with
      | some opnd => fin (trapLanes g tALLOTMENT opnd)
      | none =>
        match body h g s with
        | .ok s' x => if x.lanes.any (fun y => y.fin == .again) then s'.keepRun h else s.finishMember s' h v m.long x
        | .bad _ _ => s.blocked h .held
        | .wait n => s.blocked h n

/-- Execute a flight instruction at the cursor. An engine thread takes the terminal trap ILLEGAL for it (R49). -/
def State.flightInstr (s : State) (v : View) (o : OpSpec) (m : Mode) (body : Here → W32 → State → Acc Outs) : Host.Outcome State Fault Refusal :=
  if s.cur.engine then
    if (s.core s.cur.core).engs.has s.cur.fid then .next (s.engFault s.cur.core s.cur.fid { cause := eILLEGAL })
    else .fault .noAgent
  else
    match s.here? with
    | none => .fault .noAgent
    | some h => .next (s.member h v o m body)

-- ---------------------------------------------------------------------------------------------
-- Instructions that compute on registers alone (R111)

/-- The result of an operation on operand values, before it is written. -/
inductive ARes where
  /-- A result that is poisoned when any operand is (R55). -/
  | val (y : W64)
  /-- The value of one source, with that source's poison alone (R127). -/
  | one (x : Val)
  /-- A copy, half by half (R128). -/
  | copy (x : Val)
  | trap (code opnd : Nat)
deriving DecidableEq, Repr

/-- The first poisoned operand of those in use, in the order SA, SB, SC (R55). -/
def firstPoison (o : OpSpec) (v : View) (a b c : Val) : Option Nat :=
  if o.sa.classes ≠ [] ∧ a.psn then some a.tok
  else if (o.sb.classes ≠ [] ∧ v.isI = false) ∧ b.psn then some b.tok
  else if o.sc.classes ≠ [] ∧ c.psn then some c.tok
  else none

/-- One lane of an operation. -/
def State.aluLane (s : State) (h : Here) (v : View) (o : OpSpec) (flt : Option Rnd) (op : Val → Val → Val → ARes) (l : Nat) : LaneRes :=
  let a := s.readSrc h.c h.f h.r l v.sa (o.sa.width == .w64)
  let b := s.readB h.c h.f h.r l v (o.sb.width == .w64) flt
  let c := s.readSrc h.c h.f h.r l v.sc (o.sc.width == .w64)
  let wide := o.dst.width == .w64
  match op a b c with
  | .trap code opnd => .trap code opnd .none
  | .val y => writeDst v.dst wide y (firstPoison o v a b c)
  | .one x => writeDst v.dst wide x.bits (if x.psn then some x.tok else none)
  | .copy x => writeRaw v.dst wide x

/-- A result for each lane, or one result for the flight where the form is scalar (R36). -/
def laneOuts (scalar : Bool) (g : W32) (f : Nat → LaneRes) : Outs :=
  if scalar then
    match f ((lanesOf g).headD 0) with
    | .trap code opnd tok => { lanes := (lanesOf g).map fun l => ⟨l, .trap code opnd tok, .next⟩ }
    | .done lat ws => { lanes := (lanesOf g).map fun l => ⟨l, .done lat [], .next⟩, fwrites := ws }
  else { lanes := (lanesOf g).map fun l => ⟨l, f l, .next⟩ }

/-- An instruction of groups 000, 001 or 010 that maps operand values to a result. -/
def State.alu (s : State) (v : View) (o : OpSpec) (flt : Option Rnd) (long : Bool) (op : Val → Val → Val → ARes) : Host.Outcome State Fault Refusal :=
  s.flightInstr v o { long := long } fun h g s => .ok s (laneOuts (o.isScalar v) g (s.aluLane h v o flt op))

end Sys2Proof.Machine
end

