-- ==== Sys2Proof/Machine/Control.lean ====
section
/-!
DEFINITION. Sys2Proof/Machine/Control.lean: the flight instructions of group 011, control transfers, traps on purpose and the return from a trap (R152 to R159).
-/
namespace Sys2Proof.Machine

open Sys2Proof

/-- One access after another for some lanes, with what they share. -/
def State.overLanes {σ : Type} (s : State) (x : σ) (f : State → σ → Nat → Acc (σ × LaneOut)) : List Nat → Acc (List LaneOut)
  | [] => .ok s []
  | l :: rest =>
    (f s x l).bind fun s (x, o) => (s.overLanes x f rest).bind fun s os => .ok s (o :: os)

/-- A lane that writes nothing and goes on as given. -/
def LaneOut.plain (l : Nat) (e : LaneEnd) : LaneOut := ⟨l, .done Val.zero [], e⟩

/-- A lane that traps. -/
def LaneOut.stop (l code opnd : Nat) (tok : TokRef) : LaneOut := ⟨l, .trap code opnd tok, .next⟩

/-- check_target of R153: none when the target is accepted, else the code of the trap. A fetch that fails writes its record (R351). -/
def State.checkTarget (s : State) (h : Here) (l : Nat) (x : W64) (needLand : Bool) : Acc (Option Nat) :=
  if x.extractLsb' 0 2 ≠ 0 then .ok s (some tMISALIGNED)
  else if x.extractLsb' 57 7 ≠ 0 then .ok s (some tFETCHFAULT)
  else
    match s.fetch h.c h.f.ctx (x.setWidth 57) with
    | (s, .ok w) => .ok s (if needLand && !(hntField w).land then some tBADLANDING else none)
    | (_, .wait n) => .wait n
    | (s, .fault kind malf stage gpa va) =>
      (s.lantern h.f.ctx { ty := 5, kind := kind, cause := tFETCHFAULT, stage := stage, ex := true, malf := malf, core := h.c, flight := h.f.idx
                           va := va.toNat, gpa := gpa, info := some (h.f.thread l).trapaddr }).bind fun s _ => .ok s (some tFETCHFAULT)

/-- What a read of the stack comes to: its words, or the trap of a failed or poisoned read (R154). -/
inductive StackRd where
  | words (xs : List Nat)
  | trap (code : Nat) (tok : TokRef)
deriving DecidableEq, Repr

/-- A read of n 8-byte words of the stack. A failure takes a free entry for its KIND, which no register comes to hold, and writes one record of
TYPE 2 (R154). `used` are the entries that this issue has taken, by KIND. -/
def State.readStack (s : State) (h : Here) (l : Nat) (used : List (Nat × Nat)) (va : W64) (n : Nat) : Acc (List (Nat × Nat) × StackRd) :=
  match s.loadWords h.c h.f.ctx va n with
  | .wait need => .wait need
  | .ok s xs => .ok s (used, if xs.any (·.2) then .trap tPOISON (.tok 0) else .words (xs.map (·.1)))
  | .fail s kind malf stage gpa =>
    let tok : Option Nat := match used.find? fun u => u.1 == kind with
      | some u => some u.2
      | none => ((List.range 15).map (· + 1)).find? fun k => !h.f.toks.has k && !(used.any fun u => u.2 == k)
    let code := if tok.isSome then tPOISON else tTOKENFULL
    let ref : TokRef := match tok with
      | some k => .fresh k kind
      | none => .kind kind
    let used := match tok with
      | some k => if used.any fun u => u.1 == kind then used else (kind, k) :: used
      | none => used
    let record : Acc (Option Nat) :=
      if stage = 0 then .ok s none
      else s.lantern h.f.ctx { ty := 2, kind := kind, cause := code, stage := stage, tok := tok.getD 0, malf := malf, core := h.c
                               flight := h.f.idx, va := va.toNat, gpa := gpa, info := some (h.f.thread l).trapaddr }
    record.bind fun s _ => .ok s (used, .trap code ref)

/-- The store of a call frame (R154, R155): none when it is done, else the code of the trap. A refusal past the translation is a failure after
issue (R169). -/
def State.pushCall (s : State) (h : Here) (l : Nat) (va : W64) (ret : W57) : Acc (Option Nat) :=
  match s.storeWords h.c h.f.ctx va [ret.toNat, 0] with
  | .wait n => .wait n
  | .ok s _ => .ok s none
  | .fail s kind malf stage gpa =>
    if stage ≥ 2 ∧ !malf then .ok (s.noteFailure h.f.ctx h.c h.f.idx kind stage gpa) none
    else
      let code := if kind = 0 then tSTOREFAULT else tFORBIDDEN
      let record : Acc (Option Nat) :=
        if stage = 0 then .ok s none
        else s.lantern h.f.ctx { ty := 2, kind := kind, cause := code, stage := stage, wrt := true, malf := malf, core := h.c
                                 flight := h.f.idx, va := va.toNat, gpa := gpa, info := some (h.f.thread l).trapaddr }
      record.bind fun s _ => .ok s (some code)

/-- BRA, BRX, CALL and CALLX in one lane (R154): `opnd` names the field that gave the target. -/
def State.transferLane (s : State) (h : Here) (l : Nat) (x : W64) (needLand call : Bool) (opnd : Nat) : Acc LaneOut :=
  (s.checkTarget h l x needLand).bind fun s bad =>
    match bad with
    | some code => .ok s (LaneOut.stop l code opnd .none)
    | none =>
      if !call then .ok s (LaneOut.plain l (.go (x.setWidth 57)))
      else
        let sp := (h.r.thread l).sp
        if sp.extractLsb' 0 4 ≠ 0 then .ok s (LaneOut.stop l tMISALIGNED 5 .none)
        else
          (s.pushCall h l (sp - 16) h.r.after).bind fun s bad =>
            match bad with
            | some code => .ok s (LaneOut.stop l code 5 .none)
            | none => .ok s ⟨l, .done Val.zero [.sp (sp - 16)], .go (x.setWidth 57)⟩

/-- The target of BRA and CALL (R153). -/
def branchTarget (pc : W57) (imm : BitVec 32) : W57 := pc + (imm.signExtend 57 <<< 2)

/-- BRA and CALL. -/
def State.branchImm (s : State) (v : View) (imm : BitVec 32) (call : Bool) : Host.Outcome State Fault Refusal :=
  s.flightInstr v (specCtl v) {} fun h g s =>
    (s.overLanes () (fun s _ l =>
      (s.transferLane h l (pcWord (branchTarget h.r.addr imm)) false call 2).bind fun s o => .ok s ((), o)) (lanesOf g)).bind
      fun s os => .ok s { lanes := os }

/-- BRX and CALLX. -/
def State.branchReg (s : State) (v : View) (call : Bool) : Host.Outcome State Fault Refusal :=
  s.flightInstr v (specCtlX v) {} fun h g s =>
    (s.overLanes () (fun s _ l =>
      let x := s.readSrc h.c h.f h.r l v.sa true
      if x.psn then .ok s ((), LaneOut.stop l tPOISON 1 (.tok x.tok))
      else (s.transferLane h l x.bits true call 1).bind fun s o => .ok s ((), o)) (lanesOf g)).bind
      fun s os => .ok s { lanes := os }

/-- RET in one lane (R154). -/
def State.retLane (s : State) (h : Here) (used : List (Nat × Nat)) (l : Nat) : Acc (List (Nat × Nat) × LaneOut) :=
  let sp := (h.r.thread l).sp
  if sp.extractLsb' 0 4 ≠ 0 then .ok s (used, LaneOut.stop l tMISALIGNED 5 .none)
  else
    (s.readStack h l used sp 1).bind fun s (used, rd) =>
      match rd with
      | .trap code tok => .ok s (used, LaneOut.stop l code 5 tok)
      | .words xs =>
        let x := BitVec.ofNat 64 (xs.headD 0)
        (s.checkTarget h l x false).bind fun s bad =>
          match bad with
          | some code => .ok s (used, LaneOut.stop l code 5 .none)
          | none => .ok s (used, ⟨l, .done Val.zero [.sp (sp + 16)], .go (x.setWidth 57)⟩)

/-- RTT in one lane (R156). -/
def State.rttLane (s : State) (h : Here) (used : List (Nat × Nat)) (l : Nat) : Acc (List (Nat × Nat) × LaneOut) :=
  let t := h.r.thread l
  if t.depth = 0 then .ok s (used, LaneOut.stop l tILLEGAL 0 .none)
  else if t.sp.extractLsb' 0 4 ≠ 0 then .ok s (used, LaneOut.stop l tMISALIGNED 5 .none)
  else
    (s.readStack h l used t.sp 4).bind fun s (used, rd) =>
      match rd with
      | .trap code tok => .ok s (used, LaneOut.stop l code 5 tok)
      | .words xs =>
        let fr := trapFrameOf xs
        (s.checkTarget h l fr.restart false).bind fun s bad =>
          match bad with
          | some code => .ok s (used, LaneOut.stop l code 5 .none)
          | none =>
            match s.flight? h.c h.fid with
            | none => .ok s (used, LaneOut.plain l .next)
            | some f =>
              .ok (s.setFlight h.c h.fid (f.setThread l ((f.thread l).returnFrom fr)))
                (used, ⟨l, .done Val.zero [.sp fr.psp], .go (fr.restart.setWidth 57)⟩)

/-- Every lane whose guard is true goes on in one way. -/
def State.allLanes (s : State) (v : View) (o : OpSpec) (e : LaneEnd) : Host.Outcome State Fault Refusal :=
  s.flightInstr v o {} fun _ g s => .ok s { lanes := (lanesOf g).map fun l => LaneOut.plain l e }

/-- The flight's next issue follows an instruction that yields (R38, R159). -/
def State.yieldFlight (s : State) (h : Here) : State :=
  match s.flight? h.c h.fid with
  | none => s
  | some f => s.setFlight h.c h.fid { f with yielded := true }

-- ---------------------------------------------------------------------------------------------
-- The meanings

/-- BRA (R154). -/
def execBra (a : ArgsI) (s : State) : Host.Outcome State Fault Refusal := s.branchImm a.view a.imm false

/-- BRX (R154). -/
def execBrx (a : Args) (s : State) : Host.Outcome State Fault Refusal := s.branchReg a.view false

/-- CALL (R154). -/
def execCall (a : ArgsI) (s : State) : Host.Outcome State Fault Refusal := s.branchImm a.view a.imm true

/-- CALLX (R154). -/
def execCallx (a : Args) (s : State) : Host.Outcome State Fault Refusal := s.branchReg a.view true

/-- RET (R154). -/
def execRet (a : Args) (s : State) : Host.Outcome State Fault Refusal :=
  s.flightInstr a.view (specCtl a.view) {} fun h g s =>
    (s.overLanes [] (fun s used l => s.retLane h used l) (lanesOf g)).bind fun s os => .ok s { lanes := os }

/-- EXIT (R157). -/
def execExit (a : Args) (s : State) : Host.Outcome State Fault Refusal := s.allLanes a.view (specCtl a.view) .exit

/-- TRAP (R158). -/
def execTrap (a : Args) (s : State) : Host.Outcome State Fault Refusal :=
  s.allLanes a.view (specTrapOp a.view) (.enter tSOFTWARE)

/-- RTT (R156). -/
def execRtt (a : Args) (s : State) : Host.Outcome State Fault Refusal :=
  s.flightInstr a.view (specCtl a.view) {} fun h g s =>
    (s.overLanes [] (fun s used l => s.rttLane h used l) (lanesOf g)).bind fun s os => .ok s { lanes := os }

/-- YIELD (R159). -/
def execYield (a : Args) (s : State) : Host.Outcome State Fault Refusal :=
  s.flightInstr a.view (specCtl a.view) {} fun h g s =>
    .ok (s.yieldFlight h) { lanes := (lanesOf g).map fun l => LaneOut.plain l .next }

/-- SLEEP (R159): a poisoned count reads as zero, and a count of zero acts as YIELD. -/
def execSleep (a : Args) (s : State) : Host.Outcome State Fault Refusal :=
  s.flightInstr a.view (specSleep a.view) {} fun h g s =>
    let count (l : Nat) : Nat :=
      let x := s.readSrc h.c h.f h.r l a.view.sa false
      if x.psn then 0 else x.lo.toNat
    let s := if (lanesOf g).any fun l => count l = 0 then s.yieldFlight h else s
    .ok s { lanes := (lanesOf g).map fun l => LaneOut.plain l (if count l = 0 then .next else .wait (.sleep s.clock (count l))) }

/-- BKPT (R158). -/
def execBkpt (a : Args) (s : State) : Host.Outcome State Fault Refusal :=
  s.allLanes a.view (specTrapOp a.view) (.enter tBREAKPOINT)

/-- NOP (R159): its latch position is zero. -/
def execNop (a : Args) (s : State) : Host.Outcome State Fault Refusal := s.allLanes a.view (specNop a.view) .next

end Sys2Proof.Machine
end

