-- ==== Sys2Proof/Machine/Special.lean ====
section
/-!
DEFINITION. Sys2Proof/Machine/Special.lean: the special-function instructions of R136. FRCP and FSQRT are rounded from exact integer
arithmetic. For the others the spec publishes only a bound, so their bits within it are the free function `Config.freeSpecial`
of the input (assumption 9, DEDUCED): a free pattern is taken when it meets the bound, else the nearest value.
-/
namespace Sys2Proof

/-- Floor of the square root of n, found bit by bit from bit `b` down. -/
def isqrtFrom (n : Nat) : Nat → Nat → Nat
  | 0, r => r
  | b + 1, r =>
    let r' := r + 2 ^ b
    isqrtFrom n b (if r' * r' ≤ n then r' else r)

/-- Floor of the square root. -/
def isqrt (n : Nat) : Nat := isqrtFrom n (Nat.log2 n / 2 + 1) 0

/-- ln 2 in units of 2^-256. -/
def ln2Fix : Nat := 80260960185991308862233904206310070533990667611589946606122867505419956976171

/-- 2 pi in units of 2^-400. -/
def twoPiFix : Nat := 16224754493461942477724542702601789038322303200358530407182382075230461810747980997491046721853633630855133559454655152472

/-- The Taylor series of e^t, t in units of 2^-256: `k` is the next divisor. -/
def expSeries (t : Nat) : Nat → Nat → Nat → Nat
  | 0, _, _ => 0
  | fuel + 1, term, k => term + expSeries t fuel (term * t / (2 ^ 256 * k)) (k + 1)

/-- 2^f in units of 2^-256 for a fraction f in units of 2^-256 (below one). -/
def exp2Frac (f : Nat) : Nat := expSeries (f * ln2Fix / 2 ^ 256) 70 (2 ^ 256) 1

/-- Bits of log2 of y in [1, 2), y in units of 2^-256, as a fraction in units of 2^-fuel. -/
def log2Bits : Nat → Nat → Nat → Nat
  | 0, _, acc => acc
  | fuel + 1, y, acc =>
    let sq := y * y / 2 ^ 256
    if sq ≥ 2 ^ 257 then log2Bits fuel (sq / 2) (2 * acc + 1) else log2Bits fuel sq (2 * acc)

/-- The alternating series of sine and cosine, t2 the square of the argument in units of 2^-256. -/
def trigSeries (t2 : Nat) : Nat → Nat → Nat → Int
  | 0, _, _ => 0
  | fuel + 1, term, k => (term : Int) - trigSeries t2 fuel (term * t2 / (2 ^ 256 * (k * (k + 1)))) (k + 2)

/-- The argument m * 2^e reduced into [0, 2 pi), in units of 2^-256. -/
def reduceTrig (m : Nat) (e : Int) : Nat :=
  let x : Nat := if 0 ≤ e + 400 then m * 2 ^ (e + 400).toNat else m / 2 ^ (-(e + 400)).toNat
  x % twoPiFix / 2 ^ 144

/-- Sine of a magnitude in units of 2^-256. -/
def sinFix (m : Nat) (e : Int) : Int :=
  let r := reduceTrig m e
  trigSeries (r * r / 2 ^ 256) 60 r 2

/-- Cosine of a magnitude in units of 2^-256. -/
def cosFix (m : Nat) (e : Int) : Int :=
  let r := reduceTrig m e
  trigSeries (r * r / 2 ^ 256) 60 (2 ^ 256) 1

/-- Whether |y - a| is at most the bound, all finite. -/
def FVal.within (y a bound : FVal) : Bool :=
  match y.add a.neg .rne with
  | .fin _ m e => decide ((FVal.fin false m e).cmp bound ≤ 0)
  | _ => false

/-- The unit in the last place of F32 at a nonzero value. -/
def ulpF32 (a : FVal) : FVal :=
  match a with
  | .fin _ m e => .fin false 1 (max ((Nat.log2 m : Int) + e - 23) (-149))
  | _ => .fin false 1 (-149)

/-- The exponent k of a value that is 2^k. -/
def FVal.pow2? : FVal → Option Int
  | .fin false m e => if m ≠ 0 ∧ m = 2 ^ Nat.log2 m then some (e + Nat.log2 m) else none
  | _ => none

/-- Twice a value, or 2^k times it. -/
def FVal.scale (x : FVal) (k : Int) : FVal :=
  match x with
  | .fin n m e => .fin n m (e + k)
  | y => y

/-- A free pattern of a special function where it meets its bound, else the value nearest the approximation. -/
def pickSpecial (fn : Nat) (b : Nat) (ok : FVal → Bool) (near : FVal) : Nat :=
  let c := Config.freeSpecial fn b % 2 ^ 32
  if ok (valueOf fmtF32 c false) then c else roundRne fmtF32 near

/-- FRCP (R136). -/
def frcp (x : FVal) (mode : Rnd) (ftz : Bool) : Nat :=
  match x with
  | .nan => fmtF32.cnan
  | .inf n => fmtF32.pat n 0
  | .fin n m e =>
    if m = 0 then fmtF32.pat n fmtF32.infMag
    else roundModeS fmtF32 (.fin n (2 ^ 80 / m) (-80 - e)) (2 ^ 80 % m != 0) mode ftz false

/-- FSQRT (R136). -/
def fsqrt (x : FVal) (mode : Rnd) (ftz : Bool) : Nat :=
  match x with
  | .nan => fmtF32.cnan
  | .inf n => if n then fmtF32.cnan else fmtF32.pat false fmtF32.infMag
  | .fin n m e =>
    if m = 0 then fmtF32.pat n 0
    else if n then fmtF32.cnan
    else
      let k : Nat := if e % 2 = 0 then 60 else 61
      let big := m * 2 ^ k
      let r := isqrt big
      roundModeS fmtF32 (.fin false r ((e - k) / 2)) (r * r != big) mode ftz false

/-- FRSQ (R136): any value within one ulp of 1 / sqrt x, exact at powers of four. -/
def frsq (x : FVal) (b : Nat) (ftz : Bool) : Nat :=
  match x with
  | .nan => fmtF32.cnan
  | .inf n => if n then fmtF32.cnan else 0
  | .fin n m e =>
    if m = 0 then fmtF32.pat n fmtF32.infMag
    else if n then fmtF32.cnan
    else match x.pow2? with
      | some k =>
        if k % 2 = 0 then roundMode fmtF32 (.fin false 1 (-(k / 2))) .rne ftz false
        else frsqFree m e
      | none => frsqFree m e
where
  /-- The free case of FRSQ: r = 2^j / sqrt (m * 2^e) from an integer square root. -/
  frsqFree (m : Nat) (e : Int) : Nat :=
    let k : Nat := if e % 2 = 0 then 200 else 201
    let a : FVal := .fin false (isqrt (2 ^ k / m)) ((-(k : Int) - e) / 2)
    let u := ulpF32 a
    let x := FVal.fin false m e
    let ok (y : FVal) : Bool :=
      let lo := y.add u.neg .rne
      let hi := y.add u .rne
      !y.isNaN && !y.isNeg
        && (lo.isNeg || decide (((lo.mul lo).mul x).cmp (.fin false 1 0) ≤ 0))
        && decide (((hi.mul hi).mul x).cmp (.fin false 1 0) ≥ 0)
    pickSpecial 0 b ok a

/-- FEX2 (R136): within 2 ulp on the result's grid, exact at integers. A result beyond the range is +∞ where that lies within the bound of it. -/
def fex2 (x : FVal) (b : Nat) (ftz : Bool) : Nat :=
  match x with
  | .nan => fmtF32.cnan
  | .inf n => if n then 0 else fmtF32.infMag
  | .fin n m e =>
    let r : Nat :=
      if m = 0 then 0x3F800000
      else
        -- x in units of 2^-256, clipped: beyond 2^9 the result is out of range on either side
        if (Nat.log2 m : Int) + e ≥ 9 then
          if !n then fmtF32.infMag
          else if decide (e ≥ 0) || m % 2 ^ (-e).toNat == 0 then 0
          -- 2^x is below half an ulp of the grid: every value of up to 2 ulp lies within the bound
          else pickSpecial 1 b (fun y => !y.isNeg && y.within (.fin false 0 0) (.fin false 2 (-149))) (.fin false 0 0)
        else
          let fx : Int := if n then -((m * 2 ^ (e + 256).toNat : Nat) : Int) else ((m * 2 ^ (e + 256).toNat : Nat) : Int)
          let fl := fx / (2 ^ 256 : Nat)
          let fr := (fx % (2 ^ 256 : Nat)).toNat
          if fr = 0 then
            if fl > 127 then fmtF32.infMag
            else if fl < -149 then 0
            else roundMode fmtF32 (.fin false 1 fl) .rne false false
          else
            let a : FVal := .fin false (exp2Frac fr) (fl - 256)
            let two := (ulpF32 a).scale 1
            let ok (y : FVal) : Bool :=
              match y with
              | .inf false => decide ((FVal.fin false 1 128).cmp (a.add two .rne) ≤ 0)
              | y => !y.isNeg && y.within a two
            pickSpecial 1 b ok a
    if ftz && decide (r < 2 ^ 23) then 0 else r

/-- FLG2 (R136): absolute error at most 2^-22 on [0.5, 2], at most 2 ulp elsewhere, exact at powers of two. -/
def flg2 (x : FVal) (b : Nat) (ftz : Bool) : Nat :=
  match x with
  | .nan => fmtF32.cnan
  | .inf n => if n then fmtF32.cnan else fmtF32.infMag
  | .fin n m e =>
    if m = 0 then fmtF32.pat true fmtF32.infMag
    else if n then fmtF32.cnan
    else match x.pow2? with
      | some k => roundRne fmtF32 (FVal.ofUnits k 0 false)
      | none =>
        let l := Nat.log2 m
        let y := m * 2 ^ 256 / 2 ^ l
        let a := FVal.ofUnits ((log2Bits 200 y 0 : Int) + ((l : Int) + e) * (2 ^ 200 : Nat)) (-200) false
        let near := decide (x.cmp (.fin false 1 (-1)) ≥ 0) && decide (x.cmp (.fin false 1 1) ≤ 0)
        let bound := if near then FVal.fin false 1 (-22) else (ulpF32 a).scale 1
        let r := pickSpecial 2 b (fun y => y.within a bound) a
        if ftz && decide (r % 2 ^ 31 < 2 ^ 23) then r - r % 2 ^ 31 else r

/-- Sine or cosine of a value: absolute error at most 2^-22 and magnitude at most one (R136). -/
def trigFree (fn : Nat) (b : Nat) (a : FVal) (ftz : Bool) : Nat :=
  let one := FVal.fin false 1 0
  let r := pickSpecial fn b
    (fun y => y.within a (.fin false 1 (-22)) && y.within (.fin false 0 0) one) a
  if ftz && decide (r % 2 ^ 31 < 2 ^ 23) then r - r % 2 ^ 31 else r

/-- FSIN (R136). -/
def fsin (x : FVal) (b : Nat) (ftz : Bool) : Nat :=
  match x with
  | .nan => fmtF32.cnan
  | .inf _ => fmtF32.cnan
  | .fin n m e =>
    if decide ((FVal.fin false m e).cmp (.fin false 1 (-12)) ≤ 0) then roundMode fmtF32 x .rne ftz false
    else
      let s := sinFix m e
      trigFree 3 b (FVal.ofUnits (if n then -s else s) (-256) n) ftz

/-- FCOS (R136). -/
def fcos (x : FVal) (b : Nat) (ftz : Bool) : Nat :=
  match x with
  | .nan => fmtF32.cnan
  | .inf _ => fmtF32.cnan
  | .fin _ m e =>
    if m = 0 then 0x3F800000
    else trigFree 4 b (FVal.ofUnits (cosFix m e) (-256) false) ftz

end Sys2Proof
end

