-- ==== Sys2Proof/Machine/FloatOps.lean ====
section
/-!
DEFINITION. Sys2Proof/Machine/FloatOps.lean: group 001, floating-point instructions (R131 to R139).
-/
namespace Sys2Proof.Machine

open Sys2Proof

/-- The pattern of an operand of a floating-point type: only its own bits count (R113). -/
def patOf (ty : Ty) (x : Nat) : Nat := x % 2 ^ ty.width

/-- The exact value of an operand of a type. -/
def fval (ty : Ty) (ftz : Bool) (x : Nat) : FVal := valueOf ty.fmt (patOf ty x) ftz

/-- A value rounded to a type (R79, R132). -/
def fround (ty : Ty) (mode : Rnd) (ftz : Bool) (x : FVal) : Nat := roundMode ty.fmt x mode ftz false

-- The exact results of R132 on patterns, rounded once

def faddN (ty : Ty) (mode : Rnd) (ftz : Bool) (a b _c : Nat) : Nat :=
  fround ty mode ftz ((fval ty ftz a).add (fval ty ftz b) mode)
def fsubN (ty : Ty) (mode : Rnd) (ftz : Bool) (a b _c : Nat) : Nat :=
  fround ty mode ftz ((fval ty ftz a).add (fval ty ftz b).neg mode)
def fmulN (ty : Ty) (mode : Rnd) (ftz : Bool) (a b _c : Nat) : Nat :=
  fround ty mode ftz ((fval ty ftz a).mul (fval ty ftz b))
def ffmaN (ty : Ty) (mode : Rnd) (ftz : Bool) (a b c : Nat) : Nat :=
  fround ty mode ftz (((fval ty ftz a).mul (fval ty ftz b)).add (fval ty ftz c) mode)

/-- FMIN and FMAX (R133). -/
def fminmaxN (big : Bool) (ty : Ty) (_mode : Rnd) (ftz : Bool) (a b _c : Nat) : Nat :=
  let x := fval ty ftz a
  let y := fval ty ftz b
  if x.isNaN && y.isNaN then ty.fmt.cnan
  else if x.isNaN then roundRne ty.fmt y
  else if y.isNaN then roundRne ty.fmt x
  else
    let takeY := if big then x.ltz y else y.ltz x
    roundRne ty.fmt (if takeY then y else x)

/-- FRND (R132): the nearest integer; a zero keeps the sign. -/
def frndV (x : FVal) (mode : Rnd) : FVal :=
  match x with
  | .fin n m e => .fin n (roundIntMag n m e mode) 0
  | y => y
def frndN (ty : Ty) (mode : Rnd) (ftz : Bool) (a _b _c : Nat) : Nat := fround ty mode ftz (frndV (fval ty ftz a) mode)

/-- FSCL (R132): n is b read as I32. A power beyond ±2^17 is as good as ±2^17, which is out of every format's range from any value. -/
def fsclN (ty : Ty) (mode : Rnd) (ftz : Bool) (a b _c : Nat) : Nat :=
  let n := asSigned (b % 2 ^ 32) 32
  let n : Int := if n > 131072 then 131072 else if n < -131072 then -131072 else n
  fround ty mode ftz ((fval ty ftz a).scale n)

/-- A function of patterns as an operation. -/
def fltOp (v : View) (f : Ty → Rnd → Bool → Nat → Nat → Nat → Nat) (a b c : Val) : ARes :=
  .val (BitVec.ofNat 64 (f v.ty v.rnd v.flg a.bits.toNat b.bits.toNat c.bits.toNat))

/-- An H-form (R139): both halves of a word by the same function. -/
def halfOp (v : View) (f : Ty → Rnd → Bool → Nat → Nat → Nat → Nat) (a b c : Val) : ARes :=
  let half (i : Nat) : Nat :=
    f v.ty v.rnd v.flg (bitsN a.bits.toNat (16 * i) 16) (bitsN b.bits.toNat (16 * i) 16) (bitsN c.bits.toNat (16 * i) 16) % 2 ^ 16
  .val (BitVec.ofNat 64 (half 0 + 2 ^ 16 * half 1))

/-- FCMP's conditions (R134). -/
def fcondOf (code : Nat) (x y : FVal) : Bool :=
  let uno := x.isNaN || y.isNaN
  let c := x.cmp y
  match code with
  | 0 => !uno && c == 0
  | 1 => uno || c != 0
  | 2 => !uno && decide (c < 0)
  | 3 => !uno && decide (c ≤ 0)
  | 4 => !uno && decide (c > 0)
  | 5 => !uno && decide (c ≥ 0)
  | 6 => !uno
  | _ => uno
def fcmpOp (v : View) (a b _c : Val) : ARes :=
  .val (if fcondOf v.z.toNat (fval v.ty false a.bits.toNat) (fval v.ty false b.bits.toNat) then 1 else 0)

/-- FCLASS (R135). -/
def fclassN (ty : Ty) (b : Nat) : Nat :=
  match valueOf ty.fmt (patOf ty b) false with
  | .nan => 2 ^ 8
  | .inf n => if n then 2 ^ 0 else 2 ^ 7
  | .fin n m _ =>
    let sub := patOf ty b % ty.fmt.signBit / 2 ^ ty.fmt.fbits = 0
    if m = 0 then (if n then 2 ^ 3 else 2 ^ 4)
    else if sub then (if n then 2 ^ 2 else 2 ^ 5)
    else if n then 2 ^ 1 else 2 ^ 6
def fclassOp (v : View) (a _b _c : Val) : ARes := .val (BitVec.ofNat 64 (fclassN v.ty a.bits.toNat))

/-- A special function of an F32 operand (R136): its exact value, its pattern as flushed, the mode and .FTZ. -/
def specialOp (v : View) (f : FVal → Nat → Rnd → Bool → Nat) (a _b _c : Val) : ARes :=
  let p := patOf .f32 a.bits.toNat
  .val (BitVec.ofNat 64 (f (valueOf fmtF32 p v.flg) p v.rnd v.flg))

def frcpF (x : FVal) (_p : Nat) (m : Rnd) (z : Bool) : Nat := frcp x m z
def fsqrtF (x : FVal) (_p : Nat) (m : Rnd) (z : Bool) : Nat := fsqrt x m z
def frsqF (x : FVal) (p : Nat) (_m : Rnd) (z : Bool) : Nat := frsq x p z
def fex2F (x : FVal) (p : Nat) (_m : Rnd) (z : Bool) : Nat := fex2 x p z
def flg2F (x : FVal) (p : Nat) (_m : Rnd) (z : Bool) : Nat := flg2 x p z
def fsinF (x : FVal) (p : Nat) (_m : Rnd) (z : Bool) : Nat := fsin x p z
def fcosF (x : FVal) (p : Nat) (_m : Rnd) (z : Bool) : Nat := fcos x p z

/-- FCVT (R137): FLG is .SAT for the narrow formats, else .FTZ of source and result. The pseudocode holds where formats are the
same: .SAT turns an infinite F8E5 into max (assumption 91, DEDUCED). -/
def fcvtOp (v : View) (a _b _c : Val) : ARes :=
  let narrow := v.ty == .f8e4 || v.ty == .f8e5 || v.ty == .f4
  let x := fval v.srcTy (v.flg && !narrow) a.bits.toNat
  .val (BitVec.ofNat 64 (roundMode v.ty.fmt x v.rnd (v.flg && !narrow) (v.flg && narrow)))

/-- F2I and I2F (R138). -/
def f2iOp (v : View) (a _b _c : Val) : ARes := .val (placeInt (roundInt (fval v.srcTy false a.bits.toNat) v.ty v.rnd) v.ty)
def i2fOp (v : View) (a _b _c : Val) : ARes :=
  .val (BitVec.ofNat 64 (roundMode v.ty.fmt (FVal.ofUnits (intOf v.srcTy a.bits) 0 false) v.rnd false false))

-- ---------------------------------------------------------------------------------------------
-- The meanings

def execFadd (a : Args) (s : State) : Host.Outcome State Fault Refusal :=
  s.alu a.view (specFlt fltTys true 2 a.view) (some a.view.rnd) false (fltOp a.view faddN)
def execFaddI (a : ArgsI) (s : State) : Host.Outcome State Fault Refusal :=
  s.alu a.view (specFlt fltTys true 2 a.view) (some a.view.rnd) false (fltOp a.view faddN)
def execFsub (a : Args) (s : State) : Host.Outcome State Fault Refusal :=
  s.alu a.view (specFlt fltTys true 2 a.view) (some a.view.rnd) false (fltOp a.view fsubN)
def execFsubI (a : ArgsI) (s : State) : Host.Outcome State Fault Refusal :=
  s.alu a.view (specFlt fltTys true 2 a.view) (some a.view.rnd) false (fltOp a.view fsubN)
def execFmul (a : Args) (s : State) : Host.Outcome State Fault Refusal :=
  s.alu a.view (specFlt fltTys true 2 a.view) (some a.view.rnd) false (fltOp a.view fmulN)
def execFmulI (a : ArgsI) (s : State) : Host.Outcome State Fault Refusal :=
  s.alu a.view (specFlt fltTys true 2 a.view) (some a.view.rnd) false (fltOp a.view fmulN)
def execFfma (a : Args) (s : State) : Host.Outcome State Fault Refusal :=
  s.alu a.view (specFlt fltTys true 3 a.view) (some a.view.rnd) false (fltOp a.view ffmaN)
def execFmin (a : Args) (s : State) : Host.Outcome State Fault Refusal :=
  s.alu a.view (specFlt flt3Tys false 2 a.view) (some a.view.rnd) false (fltOp a.view (fminmaxN false))
def execFminI (a : ArgsI) (s : State) : Host.Outcome State Fault Refusal :=
  s.alu a.view (specFlt flt3Tys false 2 a.view) (some a.view.rnd) false (fltOp a.view (fminmaxN false))
def execFmax (a : Args) (s : State) : Host.Outcome State Fault Refusal :=
  s.alu a.view (specFlt flt3Tys false 2 a.view) (some a.view.rnd) false (fltOp a.view (fminmaxN true))
def execFmaxI (a : ArgsI) (s : State) : Host.Outcome State Fault Refusal :=
  s.alu a.view (specFlt flt3Tys false 2 a.view) (some a.view.rnd) false (fltOp a.view (fminmaxN true))
def execFcmp (a : Args) (s : State) : Host.Outcome State Fault Refusal :=
  s.alu a.view (specFcmp a.view) (some .rne) false (fcmpOp a.view)
def execFcmpI (a : ArgsI) (s : State) : Host.Outcome State Fault Refusal :=
  s.alu a.view (specFcmp a.view) (some .rne) false (fcmpOp a.view)
def execFclass (a : Args) (s : State) : Host.Outcome State Fault Refusal :=
  s.alu a.view (specFclass a.view) (some a.view.rnd) false (fclassOp a.view)
def execFrcp (a : Args) (s : State) : Host.Outcome State Fault Refusal :=
  s.alu a.view (specFlt [.f32] true 1 a.view) (some a.view.rnd) true (specialOp a.view frcpF)
def execFrsq (a : Args) (s : State) : Host.Outcome State Fault Refusal :=
  s.alu a.view (specFlt [.f32] false 1 a.view) (some a.view.rnd) true (specialOp a.view frsqF)
def execFsqrt (a : Args) (s : State) : Host.Outcome State Fault Refusal :=
  s.alu a.view (specFlt [.f32] true 1 a.view) (some a.view.rnd) true (specialOp a.view fsqrtF)
def execFex2 (a : Args) (s : State) : Host.Outcome State Fault Refusal :=
  s.alu a.view (specFlt [.f32] false 1 a.view) (some a.view.rnd) true (specialOp a.view fex2F)
def execFlg2 (a : Args) (s : State) : Host.Outcome State Fault Refusal :=
  s.alu a.view (specFlt [.f32] false 1 a.view) (some a.view.rnd) true (specialOp a.view flg2F)
def execFsin (a : Args) (s : State) : Host.Outcome State Fault Refusal :=
  s.alu a.view (specFlt [.f32] false 1 a.view) (some a.view.rnd) true (specialOp a.view fsinF)
def execFcos (a : Args) (s : State) : Host.Outcome State Fault Refusal :=
  s.alu a.view (specFlt [.f32] false 1 a.view) (some a.view.rnd) true (specialOp a.view fcosF)
def execFcvt (a : Args) (s : State) : Host.Outcome State Fault Refusal :=
  s.alu a.view (specCvt allFltTys allFltTys true a.view) (some a.view.rnd) false (fcvtOp a.view)
def execF2i (a : Args) (s : State) : Host.Outcome State Fault Refusal :=
  s.alu a.view (specCvt wordTys fltTys false a.view) (some a.view.rnd) false (f2iOp a.view)
def execI2f (a : Args) (s : State) : Host.Outcome State Fault Refusal :=
  s.alu a.view (specCvt fltTys wordTys false a.view) (some a.view.rnd) false (i2fOp a.view)
def execFrnd (a : Args) (s : State) : Host.Outcome State Fault Refusal :=
  s.alu a.view (specFlt flt3Tys true 1 a.view) (some a.view.rnd) false (fltOp a.view frndN)
def execFscl (a : Args) (s : State) : Host.Outcome State Fault Refusal :=
  s.alu a.view (specFscl a.view) (some a.view.rnd) false (fltOp a.view fsclN)
def execHvadd (a : Args) (s : State) : Host.Outcome State Fault Refusal :=
  s.alu a.view (specFlt halfTys true 2 a.view) (some a.view.rnd) false (halfOp a.view faddN)
def execHvmul (a : Args) (s : State) : Host.Outcome State Fault Refusal :=
  s.alu a.view (specFlt halfTys true 2 a.view) (some a.view.rnd) false (halfOp a.view fmulN)
def execHvfma (a : Args) (s : State) : Host.Outcome State Fault Refusal :=
  s.alu a.view (specFlt halfTys true 3 a.view) (some a.view.rnd) false (halfOp a.view ffmaN)
def execHvmin (a : Args) (s : State) : Host.Outcome State Fault Refusal :=
  s.alu a.view (specFlt halfTys false 2 a.view) (some a.view.rnd) false (halfOp a.view (fminmaxN false))
def execHvmax (a : Args) (s : State) : Host.Outcome State Fault Refusal :=
  s.alu a.view (specFlt halfTys false 2 a.view) (some a.view.rnd) false (halfOp a.view (fminmaxN true))

end Sys2Proof.Machine
end

