-- ==== Sys2Proof/Machine/Access.lean ====
section
/-!
DEFINITION. Sys2Proof/Machine/Access.lean: what the memory instructions share: effective addresses (R162), the checks of R163 in their order, deferred failures
and their tokens (R101), landings (R45, R167), scratchpad bytes (R222 to R225, R302, R303), and atomic operations (R173).
-/
namespace Sys2Proof.Machine

open Sys2Proof

/-- Do something for each lane of a list, with what the lanes share. -/
def State.foldLanes {σ : Type} (s : State) (x : σ) (f : State → σ → Nat → Acc σ) : List Nat → Acc σ
  | [] => .ok s x
  | l :: rest => (f s x l).bind fun s x => s.foldLanes x f rest

-- ---------------------------------------------------------------------------------------------
-- Operands of memory instructions

/-- The first poisoned operand of a list in the order of R55: its OPND code and token. -/
def poisonOf (xs : List (Nat × Val)) : Option (Nat × Nat) := (xs.find? fun x => x.2.psn).map fun x => (x.1, x.2.tok)

/-- The offset that SB or the immediate gives (R162), and the operand itself. -/
def State.offsetOf (s : State) (h : Here) (l : Nat) (v : View) : Int × Val :=
  match v.sb with
  | .imm x => (x.toInt, Val.zero)
  | .src b =>
    let o := s.readSrc h.c h.f h.r l b false
    if b.cls = .imm then (b.idx.toInt, o)
    else ((if v.o 7 1 = 1 then o.lo.toInt else (o.lo.toNat : Int)) * (2 ^ v.o 4 3 : Nat), o)

/-- eff_addr of R162 for a global address, and its operands. -/
def State.effAddr (s : State) (h : Here) (l : Nat) (v : View) : W64 × List (Nat × Val) :=
  let b := s.readSrc h.c h.f h.r l v.sa true
  let (off, o) := s.offsetOf h l v
  (b.bits + BitVec.ofInt 64 off, [(1, b), (2, o)])

/-- eff_addr of R162 for a scratchpad address. -/
def State.effSpad (s : State) (h : Here) (l : Nat) (v : View) : W32 × List (Nat × Val) :=
  let b := s.readSrc h.c h.f h.r l v.sa false
  let (off, o) := s.offsetOf h l v
  (b.lo + BitVec.ofInt 32 off, [(1, b), (2, o)])

/-- The data operand SC: its number and its poison (R168). -/
def State.dataOf (s : State) (h : Here) (l : Nat) (v : View) : Nat × Val :=
  if v.ty = .xa320 then
    let ws := h.r.group l v.sc.idx.toNat 12
    let n := ws.foldr (fun w acc => w.1.toNat + 2 ^ 32 * acc) 0
    match ws.find? (·.2) with
    | some w => (n, Val.of32 w.1 true)
    | none => (n, Val.zero)
  else
    let d := s.readSrc h.c h.f h.r l v.sc (v.ty.bytes == 8)
    (d.bits.toNat % 2 ^ (8 * v.ty.bytes), d)

-- ---------------------------------------------------------------------------------------------
-- Translation of an access

/-- A first-stage failure of an access. -/
structure XFail where
  kind  : Nat
  malf  : Bool
  stage : Nat
  gpa   : Nat
deriving DecidableEq, Repr

/-- A translated piece of an access: its guest-physical address, its class, its size. -/
structure Piece where
  gpa : Nat
  cls : Bool
  n   : Nat
deriving DecidableEq, Repr

/-- The pieces of an access (R165): three of 16 bytes for an XA320 slot. -/
def piecesOf (va : W64) (n : Nat) : List (W64 × Nat) :=
  if n = 48 then [(va, 16), (va + 16, 16), (va + 32, 16)] else [(va, n)]

/-- Translate pieces in order (R163, steps 3, 5 and 6). -/
def State.transPieces (s : State) (c ctx : Nat) (acc : Access) : List (W64 × Nat) → Acc (Except XFail (List Piece))
  | [] => .ok s (.ok [])
  | (va, n) :: rest =>
    match s.translate c ctx va acc with
    | (s, .noncanon) => .ok s (.error ⟨1, false, 0, 0⟩)
    | (s, .fault kind malf stage gpa) => .ok s (.error ⟨kind, malf, stage, gpa⟩)
    | (_, .wait need) => .wait need
    | (s, .ok gpa cls) =>
      (s.routeHere ctx gpa).bind fun s _ => (s.transPieces c ctx acc rest).bind fun s r =>
        .ok s (match r with
          | .ok ps => .ok (⟨gpa, cls, n⟩ :: ps)
          | .error e => .error e)

/-- The trap of an access that fails at step 3, 5 or 6 (R163), with its record (R351). -/
def State.accessTrap (s : State) (h : Here) (l : Nat) (va : W64) (e : XFail) (wrt : Bool) : Acc LaneOut :=
  let code := if e.kind = 0 then tSTOREFAULT else tFORBIDDEN
  let record : Acc (Option Nat) :=
    if e.stage = 0 then .ok s none
    else s.lantern h.f.ctx { ty := 2, kind := e.kind, cause := code, stage := e.stage, wrt := wrt, malf := e.malf, core := h.c
                             flight := h.f.idx, va := va.toNat, gpa := e.gpa, info := some (h.f.thread l).trapaddr }
  record.bind fun s _ => .ok s (LaneOut.stop l code 1 .none)

-- ---------------------------------------------------------------------------------------------
-- Deferred failures (R101)

/-- What the threads of one issue of a load share: their results so far. -/
structure LoadAcc where
  outs : List LaneOut := []
  res  : List (Nat × LRes) := []
  remote : List (Nat × Nat × W64 × Nat) := []
deriving DecidableEq, Repr

/-- Add a lane to the threads that received a token. -/
def Flight.tokLane (f : Flight) (k l : Nat) : Flight :=
  match f.toks.get? k with
  | some e => { f with toks := f.toks.set k { e with lanes := e.lanes ||| laneBit l } }
  | none => f

/-- The entries that an issue of a load has taken, as KIND and number. -/
def Flight.issueToks (f : Flight) (issue : Nat) : List (Nat × Nat) :=
  (f.toks.entries.filter fun e => e.2.issue == issue).map fun e => (e.2.kind, e.1)

/-- A failure of a load found at issue, in one lane: the token of its KIND, one for the whole issue, or the trap TOKEN_FULL. The issue is numbered by the key that its
record will have. -/
def State.deferAt (s : State) (h : Here) (x : LoadAcc) (l : Nat) (va : W64) (e : XFail) (lpc : W57) (dest : Nat) (sup : Bool) : Acc LoadAcc :=
  let done (tok : LRes) : LoadAcc := { x with outs := x.outs ++ [LaneOut.plain l .next], res := x.res ++ [(l, tok)] }
  if sup then .ok s (done (.words []))
  else
    match s.flight? h.c h.fid with
    | none => .ok s x
    | some f =>
      match (f.issueToks f.nextId).find? fun u => u.1 == e.kind with
      | some u => .ok (s.setFlight h.c h.fid (f.tokLane u.2 l)) (done (.tok u.2))
      | none =>
        match f.freeTok with
        | none => .ok s { x with outs := x.outs ++ [LaneOut.stop l tTOKENFULL 0 (.kind e.kind)] }
        | some k =>
          let record : Acc (Option Nat) :=
            if e.stage = 0 then .ok s none
            else s.lantern f.ctx { ty := 1, kind := e.kind, stage := e.stage, tok := k, malf := e.malf, core := h.c, flight := f.idx
                                   va := va.toNat, gpa := e.gpa, info := some (f.thread l).trapaddr }
          record.bind fun s seq =>
            match s.flight? h.c h.fid with
            | none => .ok s x
            | some f =>
              let entry : Tok := ⟨e.kind, lpc, dest, laneBit l, if e.kind = 0 ∨ e.kind = 3 then seq else none, .open, f.nextId⟩
              .ok (s.setFlight h.c h.fid { f with toks := f.toks.set k entry }) (done (.tok k))

/-- Record what an issue has read, to land later, and set the pending bits of its destination (R45). A MONW that read again belongs to its first issue. -/
def State.addLoad (s : State) (c fid : Nat) (p : PLoad) (issue : Option Nat := none) : State :=
  if p.res = [] then s
  else
    match s.flight? c fid with
    | none => s
    | some f =>
      let s := p.remote.foldl (fun (s : State) x =>
        let r := s.fabricPort x.2.1 x.2.2.2
        let q : Request :=
          { pkg := x.2.1, via := r.1.2, port := r.1.1, ctx := f.ctx, since := s.clock, core := c, fid := fid, va := x.2.2.1, gpa := x.2.2.2
            what := .load f.nextId x.1 }
        { r.2 with reqs := s.reqs ++ [q] }) s
      let f := { f with loads := f.loads.set f.nextId { p with issue := issue.getD f.nextId }, nextId := f.nextId + 1 }
      let f := p.res.foldl (fun (f : Flight) r =>
        let f := f.pendV r.1 p.dst p.n true
        if p.acq.isSome then f.setThread r.1 { f.thread r.1 with acqLoads := (f.thread r.1).acqLoads + 1 } else f) f
      s.setFlight c fid f

/-- The registers that a value of a type fills (R82, R167). -/
def loadWords (ty : Ty) (x : Nat) : List W32 :=
  match ty with
  | .i8 => [(BitVec.ofNat 8 x).signExtend 32]
  | .i16 => [(BitVec.ofNat 16 x).signExtend 32]
  | _ => (List.range ((ty.bytes + 3) / 4)).map fun k => BitVec.ofNat 32 (x / 2 ^ (32 * k))

/-- What a value read delivers: poison(0) in every register when any byte of it was poisoned (R167). -/
def loadRes (ty : Ty) (x : Nat) (psn : Bool) : LRes :=
  .words ((loadWords ty x).map fun w => if psn then (poisonBits 0, true) else (w, false))

/-- Read the pieces of an access at a site: the number, whether any byte is poisoned; or the failure found after issue. -/
def State.readPieces (s : State) (c ctx : Nat) (site : Site) (func : Nat) : List Piece → Acc (Except (Nat × Nat × Nat) (Nat × Bool))
  | [] => .ok s (.ok (0, false))
  | p :: rest =>
    (s.drainFor c ctx p.gpa).bind fun s _ =>
      match s.readN c site func p.gpa p.cls p.n with
      | .wait need => .wait need
      | .bad kind stage => .ok s (.error (kind, stage, p.gpa))
      | .ok s (x, psn) =>
        (s.readPieces c ctx site func rest).bind fun s r =>
          .ok s (match r with
            | .ok (y, q) => .ok (x + 2 ^ (8 * p.n) * y, psn || q)
            | .error e => .error e)

/-- The site of a global access (R164, R315, R320): a plain access with CP .cg is performed at the home. -/
def State.siteFor (s : State) (h : Here) (v : View) (cp : Bool) : Site :=
  if v.scp = 0 ∧ cp ∧ v.o 2 2 = 1 then .home else s.siteOf h.c h.f v.scp

/-- The package that a read of a piece sends a request to: its home is remote and no copy within reach of the site serves it (R318, R320). -/
def State.leaves (s : State) (c : Nat) (site : Site) (func : Nat) (p : Piece) : Option Nat :=
  let k := secKey func (p.gpa / 64)
  let cached : Bool := (s.home k).copy.isSome || !(s.home k).reg.entries.isEmpty
  let here : Bool := match site with
    | .own => s.l1Has c k (maskOf (p.gpa % 64) p.n) || cached
    | .l1 _ => cached
    | .home => cached
    | .ctl => false
    | .agent => false
  if here then none
  else match s.extent func p.gpa with
    | some e => if e.tgt = 1 ∨ e.tgt = 2 then some e.pkg else none
    | none => none

/-- A load in one lane (R163, R167). -/
def State.loadLane (s : State) (h : Here) (v : View) (lpc : W57) (x : LoadAcc) (l : Nat) : Acc LoadAcc :=
  let (a, ops) := s.effAddr h l v
  match poisonOf ops with
  | some (opnd, k) => .ok s { x with outs := x.outs ++ [LaneOut.stop l tPOISON opnd (.tok k)] }
  | none =>
    if a.toNat % v.ty.align ≠ 0 then .ok s { x with outs := x.outs ++ [LaneOut.stop l tMISALIGNED 1 .none] }
    else
      (s.transPieces h.c h.f.ctx .read (piecesOf a v.ty.bytes)).bind fun s tr =>
        match tr with
        | .error e => s.deferAt h x l a e lpc v.dst.idx.toNat v.dst.n
        | .ok ps =>
          let remote := ps.filterMap fun p => (s.leaves h.c (s.siteFor h v (!v.isI)) (s.funcOf h.f.ctx) p).map fun k => (l, k, a, p.gpa)
          (s.readPieces h.c h.f.ctx (s.siteFor h v (!v.isI)) (s.funcOf h.f.ctx) ps).bind fun s r =>
            let res : LRes := match r with
              | .ok (y, psn) => loadRes v.ty y psn
              | .error (kind, stage, gpa) => .late kind stage false a (BitVec.ofNat 64 gpa)
            .ok s { x with outs := x.outs ++ [LaneOut.plain l .next], res := x.res ++ [(l, res)], remote := x.remote ++ remote }

/-- The pending record of an issue of a load. -/
def loadOf (v : View) (lpc : W57) (n : Nat) (acq : Bool) (x : LoadAcc) : PLoad :=
  { lpc := lpc, dst := v.dst.idx.toNat, n := n, sup := v.dst.n, acq := if acq then some v.scp else none, res := x.res, issue := 0, remote := x.remote }

-- ---------------------------------------------------------------------------------------------
-- Landings

/-- n registers of one poisoned value. -/
def poisonWords (k n : Nat) : List (W32 × Bool) := List.replicate n (poisonBits k, true)

/-- A failure found after issue, at landing (R101): the token of its KIND, or poison(0). `rec?` says whether a record of TYPE 1 is due. -/
def State.lateTok (s : State) (c fid : Nat) (p : PLoad) (used : List (Nat × Nat)) (l kind stage : Nat) (malf : Bool) (va gpa : W64) (rec1 : Bool) :
    Acc (List (Nat × Nat)) :=
  match s.flight? c fid with
  | none => .ok s used
  | some f =>
    match used.find? fun u => u.1 == kind with
    | some u => .ok (s.setFlight c fid ((f.tokLane u.2 l).landRegs l p.dst p.n p.sup (poisonWords u.2 p.n))) used
    | none =>
      let k := f.freeTok.getD 0
      let record : Acc (Option Nat) :=
        if !rec1 then .ok s none
        else s.lantern f.ctx { ty := 1, kind := kind, stage := stage, tok := k, malf := malf, core := c, flight := f.idx, va := va.toNat
                               gpa := gpa.toNat, info := some (f.thread l).trapaddr }
      record.bind fun s seq =>
        match s.flight? c fid with
        | none => .ok s used
        | some f =>
          let f := if k = 0 then f
            else { f with toks := f.toks.set k ⟨kind, p.lpc, p.dst, laneBit l, if kind = 0 ∨ kind = 3 then seq else none, .open, p.issue⟩ }
          .ok (s.setFlight c fid (f.landRegs l p.dst p.n p.sup (poisonWords k p.n))) ((kind, k) :: used)

/-- One lane of a landing. A thread that has exited discards it (R157). -/
def State.landLane (s : State) (c fid : Nat) (p : PLoad) (used : List (Nat × Nat)) (x : Nat × LRes) : Acc (List (Nat × Nat)) :=
  match s.flight? c fid with
  | none => .ok s used
  | some f =>
    let (l, r) := x
    if !(f.thread l).live then .ok s used
    else
      let f := if p.acq.isSome then f.setThread l { f.thread l with acqLoads := (f.thread l).acqLoads - 1 } else f
      let s := s.setFlight c fid f
      match r with
      | .words ws => .ok (s.setFlight c fid (f.landRegs l p.dst p.n p.sup ws)) used
      | .tok k => .ok (s.setFlight c fid (f.landRegs l p.dst p.n p.sup (poisonWords k p.n))) used
      | .late kind stage malf va gpa =>
        if p.sup then .ok (s.setFlight c fid (f.landRegs l p.dst p.n true [])) used
        else s.lateTok c fid p used l kind stage malf va gpa true
      | .failed =>
        if p.sup then .ok (s.setFlight c fid (f.landRegs l p.dst p.n true [])) used
        else s.lateTok c fid p used l 3 0 false 0 0 false

/-- The landing of a pending load (R45, R104, R167): its acquire takes effect, and its record goes. -/
def State.landLoad (s : State) (c fid id : Nat) : State :=
  match s.flight? c fid with
  | none => s
  | some f =>
    match f.loads.get? id with
    | none => s
    | some p =>
      let done := p.res.foldl (fun (acc : Acc (List (Nat × Nat))) x => acc.bind fun s used => s.landLane c fid p used x) (.ok s (f.issueToks p.issue))
      match done with
      | .bad _ _ => s
      | .wait n => s.request n
      | .ok s _ =>
        match s.flight? c fid with
        | none => s
        | some f =>
          let f := ({ f with loads := f.loads.erase id }).gcToks
          let s := { s.setFlight c fid f with reqs := s.reqs.filter fun q => !(q.core == c && q.fid == fid && q.isLoad id) }
          match p.acq with
          | some scope => s.acquireBy c f scope
          | none => s

-- ---------------------------------------------------------------------------------------------
-- Stores

/-- A store of one lane that has passed its checks. -/
structure StoreOp where
  lane   : Nat
  va     : W64
  pieces : List Piece
  data   : Nat
deriving DecidableEq, Repr

/-- Whether two of some accesses meet in a byte: each is a list of ranges, first byte and length, of guest-physical or scratchpad addresses. -/
def anyMeet : List (List (Nat × Nat)) → Bool
  | [] => false
  | a :: rest => rest.any (fun b => a.any fun x => b.any fun y => decide (x.1 < y.1 + y.2 ∧ y.1 < x.1 + x.2)) || anyMeet rest

/-- The accesses of a bundle in a free order where the bytes of two lanes meet, under whatever virtual addresses (R165). -/
def State.bundleOrder {α : Type} (s : State) (xs : List α) (at_ : α → List (Nat × Nat)) : List α × State :=
  if anyMeet (xs.map at_) then s.shuffle xs.length xs else (xs, s)

/-- The guest-physical ranges of some pieces. -/
def rangesOf (ps : List Piece) : List (Nat × Nat) := ps.map fun p => (p.gpa, p.n)

/-- Write the pieces of one store. A refusal past the translation is a failure after issue (R169). -/
def State.writePieces (s : State) (h : Here) (site : Site) (data : Nat) : List Piece → Acc Unit
  | [] => .ok s ()
  | p :: rest =>
    (s.drainFor h.c h.f.ctx p.gpa).bind fun s _ =>
      match s.writeN h.c site (s.funcOf h.f.ctx) p.gpa p.cls p.n data with
      | .wait need => .wait need
      | .bad kind stage => (s.noteFailure h.f.ctx h.c h.f.idx kind stage p.gpa).writePieces h site (data / 2 ^ (8 * p.n)) rest
      | .ok s _ => s.writePieces h site (data / 2 ^ (8 * p.n)) rest

/-- The checks of a store in one lane (R163, R168): the store to perform, or the lane's trap. -/
def State.planStore (s : State) (h : Here) (v : View) (x : List LaneOut × List StoreOp) (l : Nat) : Acc (List LaneOut × List StoreOp) :=
  let (a, ops) := s.effAddr h l v
  let (d, dv) := s.dataOf h l v
  match poisonOf (ops ++ [(3, dv)]) with
  | some (opnd, k) => .ok s (x.1 ++ [LaneOut.stop l tPOISON opnd (.tok k)], x.2)
  | none =>
    if a.toNat % v.ty.align ≠ 0 then .ok s (x.1 ++ [LaneOut.stop l tMISALIGNED 1 .none], x.2)
    else
      (s.transPieces h.c h.f.ctx .write (piecesOf a v.ty.bytes)).bind fun s tr =>
        match tr with
        | .error e => (s.accessTrap h l a e true).bind fun s o => .ok s (x.1 ++ [o], x.2)
        | .ok ps => .ok s (x.1 ++ [LaneOut.plain l .next], x.2 ++ [⟨l, a, ps, d⟩])

-- ---------------------------------------------------------------------------------------------
-- Scratchpad

/-- The place of a scratchpad access of a flight (R163 step 4, R222, R303). -/
def State.spadPlace (s : State) (h : Here) (cl : Bool) (a n : Nat) : Option (Nat × Nat × Nat) :=
  match s.blockOf h.f with
  | none => none
  | some (home, b) =>
    if cl then s.windowPlace b a n
    else if h.c ≠ home then none
    else if b.inGrant a n then some (home, h.f.block, a) else none

-- ---------------------------------------------------------------------------------------------
-- Atomic operations

/-- The new memory value of R173, on patterns. -/
def atomNew (op : Nat) (ty : Ty) (b c : Nat) (m : Nat) : Nat :=
  let w := ty.width
  let mi := intOf ty (BitVec.ofNat 64 m)
  let bi := intOf ty (BitVec.ofNat 64 b)
  match op with
  | 0 => lowBits (mi + bi) w
  | 1 => if bi < mi then b else m
  | 2 => if mi < bi then b else m
  | 3 => m &&& b
  | 4 => m ||| b
  | 5 => m ^^^ b
  | 6 => b
  | 7 => if m = b then c else m
  | 8 => roundRne ty.fmt ((fval ty false m).add (fval ty false b) .rne)
  | 9 => fminmaxN false ty .rne false m b 0
  | 10 => fminmaxN true ty .rne false m b 0
  | 11 => ((XA.ofNat m).add (fval ty false b)).toNat
  | _ => if m ≥ b then 0 else m + 1

/-- An atomic of one lane that has passed its checks. -/
structure AtomOp where
  lane : Nat
  at_  : Nat
  cls  : Bool
  b    : Nat
  c    : Nat
deriving DecidableEq, Repr

/-- The operands of an atomic, with their poison. -/
def State.atomOperands (s : State) (h : Here) (l : Nat) (v : View) : Val × Val :=
  let wide := v.ty.bytes == 8
  (s.readB h.c h.f h.r l v wide none, if v.aop = 7 then s.readSrc h.c h.f h.r l v.sc wide else Val.zero)

/-- An operand as the pattern of its type. -/
def patBits (ty : Ty) (x : Val) : Nat := x.bits.toNat % 2 ^ ty.width

/-- The checks of a global atomic in one lane (R163, R174). -/
def State.planAtom (s : State) (h : Here) (v : View) (x : List LaneOut × List AtomOp) (l : Nat) : Acc (List LaneOut × List AtomOp) :=
  let a := s.readSrc h.c h.f h.r l v.sa true
  let (b, c) := s.atomOperands h l v
  match poisonOf [(1, a), (2, b), (3, c)] with
  | some (opnd, k) => .ok s (x.1 ++ [LaneOut.stop l tPOISON opnd (.tok k)], x.2)
  | none =>
    if a.bits.toNat % v.atomAlign ≠ 0 then .ok s (x.1 ++ [LaneOut.stop l tMISALIGNED 1 .none], x.2)
    else
      (s.transPieces h.c h.f.ctx .rmw [(a.bits, v.atomBytes)]).bind fun s tr =>
        match tr with
        | .error e => (s.accessTrap h l a.bits e true).bind fun s o => .ok s (x.1 ++ [o], x.2)
        | .ok ps =>
          match ps.head? with
          | none => .ok s x
          | some p => .ok s (x.1 ++ [LaneOut.plain l .next], x.2 ++ [⟨l, p.gpa, p.cls, patBits v.ty b, patBits v.ty c⟩])

/-- Perform the atomics of a bundle, one after another: the old value of each, or its failure (R174, R176). -/
def State.doAtoms (s : State) (h : Here) (v : View) (xs : List AtomOp) : Acc (List (Nat × LRes)) :=
  xs.foldl (fun (acc : Acc (List (Nat × LRes))) x => acc.bind fun s res =>
    (s.drainFor h.c h.f.ctx x.at_).bind fun s _ =>
      match s.rmwN h.c (s.siteOf h.c h.f v.scp) (s.funcOf h.f.ctx) x.at_ x.cls v.atomBytes (atomNew v.aop v.ty x.b x.c) with
      | .wait need => .wait need
      | .bad kind stage => .ok (s.noteFailure h.f.ctx h.c h.f.idx kind stage x.at_) (res ++ [(x.lane, .failed)])
      | .ok s (m, psn) => .ok s (res ++ [(x.lane, loadRes v.ty m psn)])) (.ok s [])

-- ---------------------------------------------------------------------------------------------
-- Ranges

/-- The pages of [a, a + len) in rising order: the first byte of the range in each, and how many (R178, R179). -/
def pagesOf (a : W64) (len : Nat) : List (W64 × Nat) :=
  if len = 0 then []
  else
    let o := a.toNat % 4096
    (List.range ((o + len + 4095) / 4096)).map fun k =>
      let lo := if k = 0 then 0 else 4096 * k - o
      let hi := min len (4096 * (k + 1) - o)
      (a + BitVec.ofNat 64 lo, hi - lo)

/-- The sectors that n bytes from an address overlap. -/
def sectorsOf (gpa n : Nat) : List Nat := (List.range ((gpa % 64 + n + 63) / 64)).map fun k => gpa / 64 + k

/-- Write the dirty words that one core holds of a sector to the home, where they stay cached (R178, CWB.dv). -/
def State.cleanL1 (s : State) (k c : Nat) : State :=
  match s.l1? c k with
  | none => s
  | some x =>
    if x.dirty = 0 then s
    else
      let s := s.roomL2 k
      let h := s.home k
      let cp := (h.copy.getD (Sector.none x.coh)).merge x.data x.dirty x.psn true
      (s.setHome k { h with copy := some cp }).setL1 c k { x with dirty := 0 }

/-- Write the dirty data of a sector in the L2 to its home memory (R178, CWB.pl and .sy). A dirty host line goes back to the host's home agent,
and with it the copy. -/
def State.cleanHome (s : State) (k : Nat) : State :=
  match s.second (k / 2 ^ 51) (k % 2 ^ 51 * 64) false false with
  | .error _ => s
  | .ok (.host _, _) => if ((s.home k).copy.map (·.dirty)).getD 0 = 0 then s else s.evictL2 k
  | .ok (t, _) => s.writeBack k t

end Sys2Proof.Machine
end

