-- ==== Sys2Proof/Machine/MemOps.lean ====
section
/-!
DEFINITION. Sys2Proof/Machine/MemOps.lean: the instructions of group 100 (R160 to R185), and the events of their landings and waits.
-/
namespace Sys2Proof.Machine

open Sys2Proof

-- ---------------------------------------------------------------------------------------------
-- Loads and stores

/-- LD (R167). -/
def State.load (s : State) (v : View) : Host.Outcome State Fault Refusal :=
  s.flightInstr v (specLd v) {} fun h g s =>
    (s.foldLanes {} (fun s x l => s.loadLane h v h.r.addr x l) (lanesOf g)).bind fun s x =>
      .ok (s.addLoad h.c h.fid (loadOf v h.r.addr v.ty.regs v.acq x)) { lanes := x.outs }

def execLd (a : Args) (s : State) : Host.Outcome State Fault Refusal := s.load a.view
def execLdI (a : ArgsI) (s : State) : Host.Outcome State Fault Refusal := s.load a.view

/-- ST (R168): the release before it (R322), then the stores of the bundle. -/
def execSt (a : Args) (s : State) : Host.Outcome State Fault Refusal :=
  let v := a.view
  s.flightInstr v (specSt v) {} fun h g s =>
    (s.foldLanes ([], []) (fun s x l => s.planStore h v x l) (lanesOf g)).bind fun s (outs, ops) =>
      (if v.rel && !ops.isEmpty then s.release h.c h.f.ctx v.scp else .ok s ()).bind fun s _ =>
        let (ops, s) := s.bundleOrder ops (fun x => rangesOf x.pieces)
        (ops.foldl (fun (acc : Acc Unit) x => acc.bind fun s _ => s.writePieces h (s.siteFor h v true) x.data x.pieces)
          (.ok s ())).bind fun s _ => .ok s { lanes := outs }

/-- The trap of a scratchpad access outside its grant (R163 step 4, R170). -/
def spadTrap (l : Nat) : LaneOut := LaneOut.stop l tFORBIDDEN 1 .none

/-- LDS in one lane (R170). -/
def State.ldsLane (s : State) (h : Here) (v : View) (x : LoadAcc) (l : Nat) : LoadAcc :=
  let (a, ops) := s.effSpad h l v
  match poisonOf ops with
  | some (opnd, k) => { x with outs := x.outs ++ [LaneOut.stop l tPOISON opnd (.tok k)] }
  | none =>
    if a.toNat % v.ty.align ≠ 0 then { x with outs := x.outs ++ [LaneOut.stop l tMISALIGNED 1 .none] }
    else
      match s.spadPlace h v.cl a.toNat v.ty.bytes with
      | none => { x with outs := x.outs ++ [spadTrap l] }
      | some (c, key, off) =>
        match s.block? c key with
        | none => { x with outs := x.outs ++ [spadTrap l] }
        | some b =>
          { x with outs := x.outs ++ [LaneOut.plain l .next]
                   res := x.res ++ [(l, loadRes v.ty (b.spadNum off v.ty.bytes) (b.spadPsn off v.ty.bytes))] }

/-- LDS (R170). -/
def State.loadSpad (s : State) (v : View) : Host.Outcome State Fault Refusal :=
  s.flightInstr v (specLds v) {} fun h g s =>
    let x := (lanesOf g).foldl (fun x l => s.ldsLane h v x l) {}
    .ok (s.addLoad h.c h.fid (loadOf v h.r.addr v.ty.regs false x)) { lanes := x.outs }

def execLds (a : Args) (s : State) : Host.Outcome State Fault Refusal := s.loadSpad a.view
def execLdsI (a : ArgsI) (s : State) : Host.Outcome State Fault Refusal := s.loadSpad a.view

/-- A scratchpad store that has passed its checks: where, and what. -/
structure SpadOp where
  lane : Nat
  core : Nat
  key  : Nat
  off  : Nat
  data : Nat
deriving DecidableEq, Repr

/-- The checks of STS in one lane (R170). -/
def State.planSts (s : State) (h : Here) (v : View) (x : List LaneOut × List SpadOp) (l : Nat) : List LaneOut × List SpadOp :=
  let (a, ops) := s.effSpad h l v
  let (d, dv) := s.dataOf h l v
  match poisonOf (ops ++ [(3, dv)]) with
  | some (opnd, k) => (x.1 ++ [LaneOut.stop l tPOISON opnd (.tok k)], x.2)
  | none =>
    if a.toNat % v.ty.align ≠ 0 then (x.1 ++ [LaneOut.stop l tMISALIGNED 1 .none], x.2)
    else
      match s.spadPlace h v.cl a.toNat v.ty.bytes with
      | none => (x.1 ++ [spadTrap l], x.2)
      | some (c, key, off) => (x.1 ++ [LaneOut.plain l .next], x.2 ++ [⟨l, c, key, off, d⟩])

/-- A change of the scratchpad of a block. -/
def State.onBlock (s : State) (c key : Nat) (f : Block → Block) : State :=
  match s.block? c key with
  | some b => s.setBlock c key (f b)
  | none => s

/-- STS (R170, R225). -/
def execSts (a : Args) (s : State) : Host.Outcome State Fault Refusal :=
  let v := a.view
  s.flightInstr v (specSts v) {} fun h g s =>
    let (outs, ops) := (lanesOf g).foldl (fun x l => s.planSts h v x l) ([], [])
    let (ops, s) := s.bundleOrder ops (fun x => [((x.core * 2 ^ 16 + x.key) * 2 ^ 32 + x.off, v.ty.bytes)])
    .ok (ops.foldl (fun (s : State) x => s.onBlock x.core x.key fun b => b.spadPut x.off v.ty.bytes x.data false) s) { lanes := outs }

/-- LDC in one lane (R171). -/
def State.ldcLane (s : State) (h : Here) (v : View) (x : LoadAcc) (l : Nat) : LoadAcc :=
  let b := s.readSrc h.c h.f h.r l v.sa false
  let off : Int := match v.sb with
    | .imm y => y.toInt
    | .src y => y.idx.toInt
  let o := (b.lo + BitVec.ofInt 32 off).toNat
  if b.psn then { x with outs := x.outs ++ [LaneOut.stop l tPOISON 1 (.tok b.tok)] }
  else if o % v.ty.bytes ≠ 0 then { x with outs := x.outs ++ [LaneOut.stop l tMISALIGNED 1 .none] }
  else if o ≥ 2048 then { x with outs := x.outs ++ [LaneOut.stop l tFORBIDDEN 1 .none] }
  else
    { x with outs := x.outs ++ [LaneOut.plain l .next]
             res := x.res ++ [(l, .words ((List.range v.ty.regs).map fun k => (s.cbankWord h.f (o / 4 + k), false)))] }

/-- LDC (R171). -/
def State.loadConst (s : State) (v : View) : Host.Outcome State Fault Refusal :=
  s.flightInstr v (specLdc v) {} fun h g s =>
    let x := (lanesOf g).foldl (fun x l => s.ldcLane h v x l) {}
    .ok (s.addLoad h.c h.fid (loadOf v h.r.addr v.ty.regs false x)) { lanes := x.outs }

def execLdc (a : Args) (s : State) : Host.Outcome State Fault Refusal := s.loadConst a.view
def execLdcI (a : ArgsI) (s : State) : Host.Outcome State Fault Refusal := s.loadConst a.view

/-- The registers of LDT (R172): `rows` are the places of the four rows, each in a block's scratchpad. -/
def ldtWords (rows : List (Block × Nat)) (w : Nat) : List (W32 × Bool) :=
  let elem (r c : Nat) : Nat × Bool :=
    match rows[r]? with
    | none => (0, false)
    | some (b, off) =>
      let at_ := off + c * w / 8
      if w = 4 then (bitsN (b.spadNum at_ 1) (4 * (c % 2)) 4, b.spadPsn at_ 1) else (b.spadNum at_ (w / 8), b.spadPsn at_ (w / 8))
  (List.range (2 * w)).map fun j =>
    -- the elements whose bits [4c + r] * w fall in register j, from its low end up
    let per := 32 / w
    let es := (List.range per).map fun i => let k := j * per + i; elem (k % 4) (k / 4)
    let val := es.foldr (fun e acc => e.1 + 2 ^ w * acc) 0
    if es.any (·.2) then (poisonBits 0, true) else (BitVec.ofNat 32 val, false)

/-- LDT in one lane (R172). -/
def State.ldtLane (s : State) (h : Here) (v : View) (x : LoadAcc) (l : Nat) : LoadAcc :=
  let b := s.readSrc h.c h.f h.r l v.sa false
  let p := s.readB h.c h.f h.r l v false none
  let w := v.ty.width
  match poisonOf [(1, b), (2, p)] with
  | some (opnd, k) => { x with outs := x.outs ++ [LaneOut.stop l tPOISON opnd (.tok k)] }
  | none =>
    if b.lo.toNat % 8 ≠ 0 then { x with outs := x.outs ++ [LaneOut.stop l tMISALIGNED 1 .none] }
    else if p.lo.toNat % 8 ≠ 0 then { x with outs := x.outs ++ [LaneOut.stop l tMISALIGNED 2 .none] }
    else
      let rows := (List.range 4).filterMap fun r =>
        (s.spadPlace h v.cl (b.lo.toNat + r * p.lo.toNat) (2 * w)).bind fun x => (s.block? x.1 x.2.1).map fun k => (k, x.2.2)
      if rows.length = 4 then
        { x with outs := x.outs ++ [LaneOut.plain l .next], res := x.res ++ [(l, .words (ldtWords rows w))] }
      else { x with outs := x.outs ++ [spadTrap l] }

/-- LDT (R172). -/
def execLdt (a : Args) (s : State) : Host.Outcome State Fault Refusal :=
  let v := a.view
  s.flightInstr v (specLdt v) {} fun h g s =>
    let x := (lanesOf g).foldl (fun x l => s.ldtLane h v x l) {}
    .ok (s.addLoad h.c h.fid (loadOf v h.r.addr (2 * v.ty.width) false x)) { lanes := x.outs }

-- ---------------------------------------------------------------------------------------------
-- Atomics

/-- The atomics of a bundle: checks, the release, the operations in a free order, the results. -/
def State.atomics (s : State) (h : Here) (g : W32) (v : View) : Acc (List LaneOut × List (Nat × LRes)) :=
  (s.foldLanes ([], []) (fun s x l => s.planAtom h v x l) (lanesOf g)).bind fun s (outs, ops) =>
    (if v.rel && !ops.isEmpty then s.release h.c h.f.ctx v.scp else .ok s ()).bind fun s _ =>
      let (ops, s) := s.bundleOrder ops (fun x => [(x.at_, v.atomBytes)])
      (s.doAtoms h v ops).bind fun s res => .ok s (outs, res)

/-- ATOM (R174). -/
def execAtom (a : Args) (s : State) : Host.Outcome State Fault Refusal :=
  let v := a.view
  s.flightInstr v (specAtom v) {} fun h g s =>
    (s.atomics h g v).bind fun s (outs, res) =>
      .ok (s.addLoad h.c h.fid (loadOf v h.r.addr v.ty.regs v.acq { res := res })) { lanes := outs }

/-- RED (R174, R175): the acquire takes effect at once. -/
def execRed (a : Args) (s : State) : Host.Outcome State Fault Refusal :=
  let v := a.view
  s.flightInstr v (specRed v) {} fun h g s =>
    (s.atomics h g v).bind fun s (outs, res) =>
      .ok (if v.acq && !res.isEmpty then s.acquireBy h.c h.f v.scp else s) { lanes := outs }

/-- A scratchpad atomic that has passed its checks. -/
structure SpadAtom where
  lane : Nat
  core : Nat
  key  : Nat
  off  : Nat
  b    : Nat
  c    : Nat
deriving DecidableEq, Repr

/-- The checks of ATOMS in one lane (R163, R174). -/
def State.planAtoms (s : State) (h : Here) (v : View) (x : List LaneOut × List SpadAtom) (l : Nat) : List LaneOut × List SpadAtom :=
  let a := s.readSrc h.c h.f h.r l v.sa false
  let (b, c) := s.atomOperands h l v
  match poisonOf [(1, a), (2, b), (3, c)] with
  | some (opnd, k) => (x.1 ++ [LaneOut.stop l tPOISON opnd (.tok k)], x.2)
  | none =>
    if a.lo.toNat % v.ty.bytes ≠ 0 then (x.1 ++ [LaneOut.stop l tMISALIGNED 1 .none], x.2)
    else
      match s.spadPlace h (v.o 6 1 == 1) a.lo.toNat v.ty.bytes with
      | none => (x.1 ++ [spadTrap l], x.2)
      | some (co, key, off) => (x.1 ++ [LaneOut.plain l .next], x.2 ++ [⟨l, co, key, off, patBits v.ty b, patBits v.ty c⟩])

/-- One scratchpad atomic: the old value; a poisoned word stays poisoned (R174, R225). -/
def State.doSpadAtom (s : State) (v : View) (x : SpadAtom) : State × (Nat × LRes) :=
  match s.block? x.core x.key with
  | none => (s, (x.lane, .words []))
  | some b =>
    let m := b.spadNum x.off v.ty.bytes
    if b.spadPsn x.off v.ty.bytes then (s, (x.lane, loadRes v.ty m true))
    else
      (s.setBlock x.core x.key (b.spadPut x.off v.ty.bytes (atomNew v.aop v.ty x.b x.c m) false), (x.lane, loadRes v.ty m false))

/-- ATOMS (R174). -/
def execAtoms (a : Args) (s : State) : Host.Outcome State Fault Refusal :=
  let v := a.view
  s.flightInstr v (specAtoms v) {} fun h g s =>
    let (outs, ops) := (lanesOf g).foldl (fun x l => s.planAtoms h v x l) ([], [])
    (if v.rel && !ops.isEmpty then s.release h.c h.f.ctx v.scp else .ok s ()).bind fun s _ =>
      let (ops, s) := s.bundleOrder ops (fun x => [((x.core * 2 ^ 16 + x.key) * 2 ^ 32 + x.off, v.ty.bytes)])
      let (s, res) := ops.foldl (fun (sr : State × List (Nat × LRes)) x =>
        let (s, r) := sr.1.doSpadAtom v x
        (s, sr.2 ++ [r])) (s, [])
      .ok (s.addLoad h.c h.fid (loadOf v h.r.addr v.ty.regs v.acq { res := res })) { lanes := outs }

-- ---------------------------------------------------------------------------------------------
-- Fences and cache maintenance

/-- Every lane of a mask goes on in sequence. -/
def plainLanes (g : W32) : Outs := { lanes := (lanesOf g).map fun l => LaneOut.plain l .next }

/-- FENCE (R177). -/
def execFence (a : Args) (s : State) : Host.Outcome State Fault Refusal :=
  let v := a.view
  s.flightInstr v (specFence v) {} fun h g s =>
    (if v.rel then s.release h.c h.f.ctx v.scp else .ok s ()).bind fun s _ =>
      .ok (if v.acq then s.acquireBy h.c h.f v.scp else s) (plainLanes g)

/-- What CWB and CINV do to one sector (R178). A sector that a transfer owns is waited for (R281). -/
def State.maintSector (s : State) (h : Here) (v : View) (inv : Bool) (func sec : Nat) : Acc Unit :=
  let k := secKey func sec
  if (s.home k).owner.isSome then .wait .held
  else
    (s.drainFor h.c h.f.ctx (sec * 64)).bind fun s _ =>
      let s := s.cleanL1 k h.c
      let s := if v.scp ≥ 5 then s.cleanHome k else s
      if !inv then .ok s ()
      else
        let s := (s.recallFrom k (BitVec.allOnes 16) h.c).dropL1 h.c k
        let hm := s.home k
        let s := s.setHome k { hm with sharers := hm.sharers.filter fun c => c != h.c }
        if v.scp < 5 then .ok s ()
        else
          -- the L2's copy goes too; words that other cores hold dirty stay with them
          let s := s.cleanHome k
          let hm := s.home k
          .ok (s.setHome k { hm with copy := if (hm.copy.map (·.dirty)).getD 0 = 0 then none else hm.copy }) ()

/-- The pages of a range for one thread of CWB or CINV, in order (R178): none when all are done, else the lane's trap. -/
def State.maintPages (s : State) (h : Here) (v : View) (inv : Bool) (l : Nat) : List (W64 × Nat) → Acc LaneOut
  | [] => .ok s (LaneOut.plain l .next)
  | (va, n) :: rest =>
    match s.translate h.c h.f.ctx va .read with
    | (_, .wait need) => .wait need
    | (s, .noncanon) => s.accessTrap h l va ⟨1, false, 0, 0⟩ false
    | (s, .fault kind malf stage gpa) =>
      if kind = 0 then s.maintPages h v inv l rest else s.accessTrap h l va ⟨kind, malf, stage, gpa⟩ false
    | (s, .ok gpa _) =>
      let func := s.funcOf h.f.ctx
      ((sectorsOf gpa n).foldl (fun (acc : Acc Unit) sec => acc.bind fun s _ => s.maintSector h v inv func sec) (.ok s ())).bind
        fun s _ => s.maintPages h v inv l rest

/-- CWB and CINV (R178). -/
def State.maintain (s : State) (v : View) (scps : List Nat) (inv : Bool) : Host.Outcome State Fault Refusal :=
  s.flightInstr v (specCwb scps v) {} fun h g s =>
    (s.overLanes () (fun s _ l =>
      let a := s.readSrc h.c h.f h.r l v.sa true
      let n := s.readB h.c h.f h.r l v false none
      match poisonOf [(1, a), (2, n)] with
      | some (opnd, k) => .ok s ((), LaneOut.stop l tPOISON opnd (.tok k))
      | none => (s.maintPages h v inv l (pagesOf a.bits n.lo.toNat)).bind fun s o => .ok s ((), o)) (lanesOf g)).bind
      fun s os => .ok s { lanes := os }

def execCwb (a : Args) (s : State) : Host.Outcome State Fault Refusal := s.maintain a.view [4, 5, 6] false
def execCinv (a : Args) (s : State) : Host.Outcome State Fault Refusal := s.maintain a.view [2, 5, 6] true

/-- The check of the pages of CDISC (R179): the sectors to discard, or the trap with whether a record is due. -/
def State.cdiscPages (s : State) (h : Here) (l : Nat) (secs : List Nat) : List (W64 × Nat) → Acc (Except Unit (List Nat))
  | [] => .ok s (.ok secs)
  | (va, n) :: rest =>
    match s.translate h.c h.f.ctx va .write with
    | (_, .wait need) => .wait need
    | (s, .noncanon) => .ok s (.error ())
    | (s, .fault kind malf stage gpa) =>
      if kind = 0 then s.cdiscPages h l secs rest
      else
        (s.lantern h.f.ctx { ty := 2, kind := kind, cause := tFORBIDDEN, stage := stage, wrt := true, malf := malf, core := h.c
                             flight := h.f.idx, va := va.toNat, gpa := gpa, info := some (h.f.thread l).trapaddr }).bind fun s _ => .ok s (.error ())
    | (s, .ok gpa cls) =>
      if s.isCoherent (s.funcOf h.f.ctx) gpa cls then .ok s (.error ())
      else s.cdiscPages h l (secs ++ sectorsOf gpa n) rest

/-- Whether any cache of the package holds dirty data of a sector. -/
def State.dirtySector (s : State) (k : Nat) : Bool :=
  ((s.home k).copy.map fun x => x.dirty != 0).getD false
    || s.cores.entries.any fun e => match e.2.l1.get? k with
        | some x => x.dirty != 0
        | none => false

/-- Drop every copy of a sector in the package and its registrations, writing nothing back. -/
def State.discardSector (s : State) (k : Nat) : State :=
  let s := s.cores.entries.foldl (fun (s : State) e => s.dropL1 e.1 k) s
  let h := s.home k
  s.setHome k { h with copy := none, reg := .empty, sharers := [] }

/-- CDISC (R179). -/
def execCdisc (a : Args) (s : State) : Host.Outcome State Fault Refusal :=
  let v := a.view
  s.flightInstr v (specCdisc v) { once := true } fun h g s =>
    let l := (lanesOf g).headD 0
    let a := (s.readSrc h.c h.f h.r l v.sa true).bits
    let len := (s.readB h.c h.f h.r l v false none).lo.toNat
    if a.toNat % 64 ≠ 0 then .ok s (trapLanes g tMISALIGNED 1)
    else if len % 64 ≠ 0 then .ok s (trapLanes g tMISALIGNED 2)
    else if !canonical a then .ok s (trapLanes g tFORBIDDEN 1)
    else
      (s.cdiscPages h l [] (pagesOf a len)).bind fun s r =>
        match r with
        | .error _ => .ok s (trapLanes g tFORBIDDEN 1)
        | .ok secs =>
          let func := s.funcOf h.f.ctx
          (secs.foldl (fun (acc : Acc Unit) sec => acc.bind fun s _ => s.drainFor h.c h.f.ctx (sec * 64)) (.ok s ())).bind fun s _ =>
            let keys := uniqN (secs.map (secKey func))
            if keys.any fun k => (s.home k).owner.isSome then .wait .held
            else
              let n := (keys.filter s.dirtySector).length
              let s := keys.foldl (fun (s : State) k => s.discardSector k) s
              .ok s { plainLanes g with fwrites := if v.dst.n then [] else [.s v.dst.idx.toNat (BitVec.ofNat 64 n)] }

/-- PREF in one lane (R180). -/
def State.prefLane (s : State) (h : Here) (v : View) (l : Nat) : Acc (Unit × LaneOut) :=
  let (a, ops) := s.effAddr h l v
  match poisonOf ops with
  | some (opnd, k) => .ok s ((), LaneOut.stop l tPOISON opnd (.tok k))
  | none =>
    match s.translate h.c h.f.ctx a .read with
    | (_, .wait need) => .wait need
    | (s, .noncanon) => .ok s ((), LaneOut.plain l .next)
    | (s, .fault _ _ _ _) => .ok s ((), LaneOut.plain l .next)
    | (s, .ok gpa cls) =>
      let func := s.funcOf h.f.ctx
      ((List.range 4).foldl (fun (acc : Acc Unit) j => acc.bind fun s _ =>
        let sec := gpa / 256 * 4 + j
        if v.scp = 2 then
          match s.readCls h.c .own func sec cls (BitVec.allOnes 64) with
          | .ok s _ => .ok s ()
          | .bad _ _ => .ok s ()
          | .wait need => .wait need
        else
          match s.readyHome func sec true false false false with
          | .ok s (t, coh) => .ok (s.fillHome (secKey func sec) t coh) ()
          | .bad _ _ => .ok s ()
          | .wait need => .wait need) (.ok s ())).bind fun s _ => .ok s ((), LaneOut.plain l .next)

/-- PREF (R180). -/
def State.prefetch (s : State) (v : View) : Host.Outcome State Fault Refusal :=
  s.flightInstr v (specPref v) {} fun h g s =>
    (s.overLanes () (fun s _ l => s.prefLane h v l) (lanesOf g)).bind fun s os => .ok s { lanes := os }

def execPref (a : Args) (s : State) : Host.Outcome State Fault Refusal := s.prefetch a.view
def execPrefI (a : ArgsI) (s : State) : Host.Outcome State Fault Refusal := s.prefetch a.view

-- ---------------------------------------------------------------------------------------------
-- Waiting and remote stores

/-- One read of MONW (R181): the result with which it exits, or none while the value is the comparand and the time is not up. -/
def State.monwRead (s : State) (c : Nat) (f : Flight) (site : Site) (ty : Ty) (va : W64) (p : Piece) (cmp : Nat) (expired : Bool) :
    Acc (Option LRes) :=
  match s.readPieces c f.ctx site (s.funcOf f.ctx) [p] with
  | .wait need => .wait need
  | .bad kind stage => .bad kind stage
  | .ok s (.error (kind, stage, gpa)) => .ok s (some (.late kind stage false va (BitVec.ofNat 64 gpa)))
  | .ok s (.ok (m, psn)) => .ok s (if psn || m != cmp || expired then some (loadRes ty m psn) else none)

/-- MONW in one lane (R163, R181). -/
def State.monwLane (s : State) (h : Here) (v : View) (lpc : W57) (x : LoadAcc) (l : Nat) : Acc LoadAcc :=
  let a := s.readSrc h.c h.f h.r l v.sa true
  let cmp := s.readB h.c h.f h.r l v (v.ty.bytes == 8) none
  let lim := s.readSrc h.c h.f h.r l v.sc false
  match poisonOf [(1, a), (2, cmp), (3, lim)] with
  | some (opnd, k) => .ok s { x with outs := x.outs ++ [LaneOut.stop l tPOISON opnd (.tok k)] }
  | none =>
    if a.bits.toNat % v.ty.bytes ≠ 0 then .ok s { x with outs := x.outs ++ [LaneOut.stop l tMISALIGNED 1 .none] }
    else
      (s.transPieces h.c h.f.ctx .read [(a.bits, v.ty.bytes)]).bind fun s tr =>
        match tr with
        | .error e => s.deferAt h x l a.bits e lpc v.dst.idx.toNat v.dst.n
        | .ok ps =>
          match ps.head? with
          | none => .ok s x
          | some p =>
            if !s.isCoherent (s.funcOf h.f.ctx) p.gpa p.cls then
              .ok s { x with outs := x.outs ++ [LaneOut.stop l tFORBIDDEN 1 .none] }
            else
              (s.monwRead h.c h.f (s.siteOf h.c h.f v.scp) v.ty a.bits p (patBits v.ty cmp) false).bind fun s r =>
                match r with
                | some res => .ok s { x with outs := x.outs ++ [LaneOut.plain l .next], res := x.res ++ [(l, res)] }
                | none =>
                  let w : Wait := .monw a.bits v.scp v.acq (v.ty == .b64) (BitVec.ofNat 64 (patBits v.ty cmp)) lim.lo.toNat s.clock
                    v.dst lpc ((s.flight? h.c h.fid).elim 0 (·.nextId))
                  .ok s { x with outs := x.outs ++ [LaneOut.plain l (.wait w)] }

/-- MONW (R181). -/
def execMonw (a : Args) (s : State) : Host.Outcome State Fault Refusal :=
  let v := a.view
  s.flightInstr v (specMonw v) {} fun h g s =>
    (s.foldLanes {} (fun s x l => s.monwLane h v h.r.addr x l) (lanesOf g)).bind fun s x =>
      .ok (s.addLoad h.c h.fid (loadOf v h.r.addr v.ty.regs v.acq x)) { lanes := x.outs }

/-- A thread held by MONW reads again (R181). When it exits, its run commits and its result is on its way; a failure of the translation defers as at
issue (R101). -/
def State.monwAgain (s : State) (c fid l : Nat) : State :=
  match s.flight? c fid with
  | none => s
  | some f =>
    match (f.thread l).hold with
    | .monw va scope acq wide cmp limit start dst lpc issue pass =>
      let ty := if wide then Ty.b64 else Ty.b32
      let expired := limit != 0 && decide (s.clock - start ≥ limit)
      let p (res : LRes) : PLoad :=
        { lpc := lpc, dst := dst.idx.toNat, n := ty.regs, sup := dst.n, acq := if acq then some scope else none, res := [(l, res)], issue := issue, remote := [] }
      let go (s : State) (res : LRes) : State :=
        match s.flight? c fid with
        | none => s
        | some f => (s.setFlight c fid (f.pass l pass)).addLoad c fid (p res) (some issue)
      match s.transPieces c f.ctx .read [(va, ty.bytes)] with
      | .wait need => s.request need
      | .bad _ _ => s
      | .ok s (.error e) => go s (.late e.kind e.stage e.malf va (BitVec.ofNat 64 e.gpa))
      | .ok s (.ok ps) =>
        match ps.head? with
        | none => s
        | some q =>
          match s.monwRead c f (s.siteOf c f scope) ty va q cmp.toNat expired with
          | .wait need => s.request need
          | .bad _ _ => s
          | .ok s (some res) => go s res
          | .ok s none => s
    | _ => s

/-- The checks of RST are those of a store (R182); its bytes merge into the entry of their line, which drains when it is whole. -/
def State.mergeWcb (s : State) (h : Here) (x : StoreOp) (p : Piece) : Acc Unit :=
  let ctx := h.f.ctx
  let func := s.funcOf ctx
  let line := p.gpa / 256
  let o := p.gpa % 256
  let mask : BitVec 256 := BitVec.ofNat 256 ((2 ^ p.n - 1) * 2 ^ o)
  let hole : BitVec 2048 := BitVec.ofNat 2048 ((2 ^ (8 * p.n) - 1) * 2 ^ (8 * o))
  let bytes : BitVec 2048 := BitVec.ofNat 2048 (x.data % 2 ^ (8 * p.n) * 2 ^ (8 * o))
  let k := s.core h.c
  match k.wcb.find? fun w => w.ctx == ctx && w.line == line with
  | some w =>
    let w' := { w with mask := w.mask ||| mask, data := (w.data &&& ~~~hole) ||| bytes, cls := w.cls || p.cls }
    let s := s.setCore h.c { k with wcb := k.wcb.map fun y => if y = w then w' else y }
    if w'.mask = BitVec.allOnes 256 then s.drainFor h.c ctx p.gpa else .ok s ()
  | none =>
    if k.wcb.length ≥ 64 then .wait .held
    else .ok (s.setCore h.c { k with wcb := k.wcb ++ [⟨ctx, func, line, p.cls, mask, bytes, s.clock⟩] }) ()

/-- RST (R182): a store to an address homed in the issuing package is a plain store. -/
def execRst (a : Args) (s : State) : Host.Outcome State Fault Refusal :=
  let v := a.view
  s.flightInstr v (specRst v) {} fun h g s =>
    (s.foldLanes ([], []) (fun s x l => s.planStore h v x l) (lanesOf g)).bind fun s (outs, ops) =>
      let (ops, s) := s.bundleOrder ops (fun x => rangesOf x.pieces)
      (ops.foldl (fun (acc : Acc Unit) x => acc.bind fun s _ =>
        match x.pieces with
        | [p] =>
          if s.isRemote (s.funcOf h.f.ctx) p.gpa then s.mergeWcb h x p else s.writePieces h (s.siteFor h v true) x.data x.pieces
        | ps => s.writePieces h (s.siteFor h v true) x.data ps) (.ok s ())).bind fun s _ => .ok s { lanes := outs }

/-- WCFL (R183). -/
def execWcfl (a : Args) (s : State) : Host.Outcome State Fault Refusal :=
  s.flightInstr a.view (specCtl a.view) {} fun h g s =>
    (s.drainWcb h.c h.f.ctx).bind fun s _ => .ok s (plainLanes g)

-- ---------------------------------------------------------------------------------------------
-- Poison

/-- PTST (R184). -/
def execPtst (a : Args) (s : State) : Host.Outcome State Fault Refusal :=
  let v := a.view
  s.flightInstr v (specPtst v) {} fun h g s =>
    .ok s { lanes := (lanesOf g).map fun l =>
      let x := s.readSrc h.c h.f h.r l v.sa (v.ty == .b64)
      let y : W32 := if v.o 0 1 = 0 then (if x.psn then 1 else 0) else if x.psn then tokWord x.tok (h.f.tokKind x.tok) else 0
      ⟨l, writeDst v.dst false (y.setWidth 64) none, .next⟩ }

/-- The load that REPLAY re-issues for one thread (R185): LD or MONW under the view of its word, with the checks that its operands still need. -/
def State.replayLoad (s : State) (h : Here) (i : Instr) (lpc : W57) (l : Nat) : Acc (Unit × LaneOut) :=
  let go (v : View) (o : OpSpec) (f : State → LoadAcc → Acc LoadAcc) : Acc (Unit × LaneOut) :=
    match overAllot o v h.f.allot with
    | some opnd => .ok s ((), LaneOut.stop l tALLOTMENT opnd .none)
    | none =>
      if !h.f.noPending (laneBit l) o v [] then .wait .held
      else
        (f s {}).bind fun s x =>
          .ok (s.addLoad h.c h.fid (loadOf v lpc v.ty.regs v.acq x)) ((), x.outs.headD (LaneOut.plain l .next))
  match i with
  | .ld a => go a.view (specLd a.view) fun s x => s.loadLane h a.view lpc x l
  | .ldI a => go a.view (specLd a.view) fun s x => s.loadLane h a.view lpc x l
  | .monw a => go a.view (specMonw a.view) fun s x => s.monwLane h a.view lpc x l
  | _ => .ok s ((), LaneOut.stop l tREPLAYREFUSED 1 .none)

/-- Whether a word is an LD or MONW that reads no latch and names a destination (R185). -/
def replayable (w : W96) (dest : Nat) : Option Instr :=
  match decodeWord w with
  | .ok (.ld a) => pick (.ld a) a.view
  | .ok (.ldI a) => pick (.ldI a) a.view
  | .ok (.monw a) => pick (.monw a) a.view
  | _ => none
where
  pick (i : Instr) (v : View) : Option Instr :=
    let lat (x : Src) : Bool := x.cls == .latch
    if lat v.sa || lat v.sc || lat v.sbSrc || v.dst.idx.toNat != dest then none else some i

/-- REPLAY in one lane (R185, R353). A word that can no longer be fetched is no LD or MONW. -/
def State.replayLane (s : State) (h : Here) (v : View) (l : Nat) : Acc (Unit × LaneOut) :=
  let x := s.readSrc h.c h.f h.r l v.sa false
  if !x.psn then .ok s ((), LaneOut.plain l .next)
  else
    let k := x.tok
    let refuse : LaneOut := LaneOut.stop l tREPLAYREFUSED 1 (.tok k)
    match h.f.toks.get? k with
    | none => .ok s ((), refuse)
    | some e =>
      if e.kind = 1 ∨ e.kind = 2 ∨ !e.lanes.getLsbD l ∨ e.res = .refused then .ok s ((), refuse)
      else
        match s.fetch h.c h.f.ctx e.lpc with
        | (_, .wait need) => .wait need
        | (s, .fault _ _ _ _ _) => .ok s ((), refuse)
        | (s, .ok w) =>
          match replayable w e.dest with
          | none => .ok s ((), refuse)
          | some i =>
            if e.res = .open ∧ e.lrec.isSome then .wait .held
            -- the release of LQDONE synchronises with the load that is issued again
            else (if e.res = .retry then s.acquire h.c 4 false else s).replayLoad h i e.lpc l

/-- REPLAY (R185). -/
def execReplay (a : Args) (s : State) : Host.Outcome State Fault Refusal :=
  s.flightInstr a.view (specReplay a.view) {} fun h g s =>
    (s.overLanes () (fun s _ l => s.replayLane h a.view l) (lanesOf g)).bind fun s os => .ok s { lanes := os }

-- ---------------------------------------------------------------------------------------------
-- Events

/-- LOAD_LANDING (R45, R167). -/
def execLoadLanding (core fid id : Nat) (s : State) : Host.Outcome State Fault Refusal := .next (s.landLoad core fid id)

/-- A run that ended in a pending latency commits (R42, R115, R116): its pending bits clear and its threads go on. A thread that has exited discards its own. -/
def State.landLong (s : State) (c fid id : Nat) : State :=
  match s.flight? c fid with
  | none => s
  | some f =>
    match f.longs.get? id with
    | none => s
    | some p =>
      let f := p.writes.foldl (fun (f : Flight) x => if (f.thread x.1).live then f.commit x.1 x.2 else f) (f.commit 0 p.fwrites)
      let f := f.pendAll false p.pend
      let f := { f with longs := f.longs.erase id, threads := f.threads.mapV fun _ t => if t.hold = Hold.commit id then { t with hold := .none } else t }
      s.setFlight c fid f.gcToks

/-- LONG_OP_COMPLETE (R115). -/
def execLongOpComplete (core fid id : Nat) (s : State) : Host.Outcome State Fault Refusal := .next (s.landLong core fid id)

/-- STORE_FAILURE (R169): a record of TYPE 4 and the context trap. -/
def execStoreFailure (i : Nat) (s : State) : Host.Outcome State Fault Refusal :=
  match s.failures[i]? with
  | none => .next s
  | some x =>
    match { s with failures := s.failures.eraseIdx i }.reportFailure x with
    | .ok s _ => .next s
    | .bad _ _ => .next s
    | .wait n => .next (s.request n)

/-- SLEEP_EXPIRY (R159): due when the clock has advanced by the count. -/
def execSleepExpiry (core fid lane : Nat) (s : State) : Host.Outcome State Fault Refusal :=
  match s.flight? core fid with
  | none => .next s
  | some f =>
    match (f.thread lane).hold with
    | .sleep start count p => if s.clock - start ≥ count then .next (s.setFlight core fid (f.pass lane p)) else .next s
    | _ => .next s

/-- MONW_WAKE (R181): the sector may have been written by any agent. -/
def execMonwWake (core fid lane : Nat) (s : State) : Host.Outcome State Fault Refusal := .next (s.monwAgain core fid lane)

/-- MONW_TIMEOUT (R181): due when the limit has passed. -/
def execMonwTimeout (core fid lane : Nat) (s : State) : Host.Outcome State Fault Refusal :=
  match s.flight? core fid with
  | none => .next s
  | some f =>
    match (f.thread lane).hold with
    | .monw _ _ _ _ _ limit start _ _ _ _ =>
      if limit ≠ 0 ∧ s.clock - start ≥ limit then .next (s.monwAgain core fid lane) else .next s
    | _ => .next s

/-- WCB_DRAIN_TIMEOUT (R182): an entry 4096 cycles old drains. -/
def execWcbDrainTimeout (core i : Nat) (s : State) : Host.Outcome State Fault Refusal :=
  match (s.core core).wcb[i]? with
  | none => .next s
  | some w =>
    if s.clock - w.start < 4096 then .next s
    else
      match s.drainEntry core w with
      | .ok s _ =>
        let k := s.core core
        .next (s.setCore core { k with wcb := k.wcb.erase w })
      | .bad _ _ => .next s
      | .wait n => .next (s.request n)

end Sys2Proof.Machine
end

