-- ==== Sys2Proof/Machine/FlightWide.lean ====
section
/-!
DEFINITION. Sys2Proof/Machine/FlightWide.lean: the flight-wide instructions of group 101 (R198 to R210), ALLOC and FREE (R216 to R218), and the events of the slots.
-/
namespace Sys2Proof.Machine

open Sys2Proof

/-- What follows an instruction at its flight. -/
def State.afterFlight (s : State) (o : Host.Outcome State Fault Refusal) (f : State → Nat → Nat → State) : Host.Outcome State Fault Refusal :=
  match o with
  | .next t => .next (f t s.cur.core s.cur.fid)
  | x => x

/-- Whether a destination is written once for the bundle (R201). -/
def onceDst (v : View) : Bool := v.dst.cls == .s || v.dst.cls == .k

/-- A result for each thread of exec, or one for the bundle (R201). -/
def wideOut (v : View) (wide : Bool) (g : W32) (f : Nat → W64 × Option Nat) : Outs :=
  laneOuts (onceDst v) g fun l => writeDst v.dst wide (f l).1 (f l).2

-- ---------------------------------------------------------------------------------------------
-- Votes, shuffles, matches

/-- The mask of the lanes that satisfy a condition. -/
def maskWhere (g : W32) (p : Nat → Bool) : W32 := (lanesOf g).foldl (fun (m : W32) l => if p l then m ||| laneBit l else m) 0

/-- VOTE (R203). -/
def execVote (a : Args) (s : State) : Host.Outcome State Fault Refusal :=
  let v := a.view
  s.flightInstr v (specVote v) {} fun h g s =>
    let b (l : Nat) : Bool := (s.readSrc h.c h.f h.r l v.sa false).lo != 0
    let ones := maskWhere g b
    let y : W64 := match v.o 0 2 with
      | 0 => if ones != 0 then 1 else 0
      | 1 => if ones == g then 1 else 0
      | 2 => if ones == g || ones == 0 then 1 else 0
      | _ => ones.setWidth 64
    .ok s (wideOut v false g fun _ => (y, none))

/-- The lane that SHFL reads (R204): none when the lane is not valid. -/
def shflLane (mode w l d : Nat) : Option Nat :=
  let base := l / w * w
  match mode with
  | 0 => some (base + d % w)
  | 1 => if d ≤ l - base then some (l - d) else none
  | 2 => if l + d < base + w then some (l + d) else none
  | _ => some (base + ((l - base) ^^^ d) % w)

/-- SHFL (R204). -/
def execShfl (a : Args) (s : State) : Host.Outcome State Fault Refusal :=
  let v := a.view
  let wide := v.ty == .b64
  s.flightInstr v (specShfl v) {} fun h g s =>
    .ok s (wideOut v wide g fun l =>
      let d := s.readB h.c h.f h.r l v false none
      let from_ : Nat := match shflLane (v.o 0 2) v.sc.idx.toNat l d.lo.toNat with
        | some k => if g.getLsbD k then k else l
        | none => l
      let x := s.readSrc h.c h.f h.r from_ v.sa wide
      (x.bits, if x.psn then some x.tok else if d.psn then some d.tok else none))

/-- MATCH (R205). -/
def execMatchV (a : Args) (s : State) : Host.Outcome State Fault Refusal :=
  let v := a.view
  let wide := v.ty == .b64
  s.flightInstr v (specMatch v) {} fun h g s =>
    let x (l : Nat) : Val := s.readSrc h.c h.f h.r l v.sa wide
    if v.o 0 1 = 0 then
      .ok s (wideOut v false g fun l =>
        ((maskWhere g fun u => !(x u).psn && (x u).bits == (x l).bits).setWidth 64, if (x l).psn then some (x l).tok else none))
    else
      let clean := (lanesOf g).filter fun l => !(x l).psn
      let y := match clean with
        | [] => true
        | u :: rest => rest.all fun l => (x l).bits == (x u).bits
      .ok s { lanes := (lanesOf g).map fun l =>
        ⟨l, if (x l).psn then .trap tPOISON 4 (.tok (x l).tok) else writePred v.dst y, .next⟩ }

-- ---------------------------------------------------------------------------------------------
-- Reductions

/-- One level of the tree of FREDUX.FADD (R206). -/
def faddLevel (mode : Rnd) (ftz : Bool) : List (Option FVal) → List (Option FVal)
  | a :: b :: rest =>
    (match a, b with
     | none, y => y
     | x, none => x
     | some x, some y => some (valueOf fmtF32 (roundMode fmtF32 (x.add y mode) mode ftz false) false)) :: faddLevel mode ftz rest
  | l => l

/-- FREDUX on the patterns of the threads of exec, lowest lane first (R206). -/
def freduxN (op : Nat) (ty : Ty) (mode : Rnd) (ftz : Bool) (g : W32) (x : Nat → Nat) : Nat :=
  let xs := (lanesOf g).map x
  let ints := xs.map fun n => intOf ty (BitVec.ofNat 64 n)
  let first := xs.headD 0
  match op with
  | 0 => lowBits (ints.foldl (· + ·) 0) ty.width
  | 1 =>
    if ty = .f32 then xs.foldl (fun a b => fminmaxN false ty .rne false a b 0) first
    else lowBits (ints.foldl (fun a b => if b < a then b else a) (ints.headD 0)) ty.width
  | 2 =>
    if ty = .f32 then xs.foldl (fun a b => fminmaxN true ty .rne false a b 0) first
    else lowBits (ints.foldl (fun a b => if a < b then b else a) (ints.headD 0)) ty.width
  | 3 => xs.foldl (· &&& ·) first
  | 4 => xs.foldl (· ||| ·) first
  | 5 => xs.foldl (· ^^^ ·) 0
  | _ =>
    let leaves := (List.range 32).map fun l => if g.getLsbD l then some (valueOf fmtF32 (x l % 2 ^ 32) ftz) else none
    let lvl := faddLevel mode ftz
    match (lvl (lvl (lvl (lvl (lvl leaves))))).head? with
    | some (some y) => roundRne fmtF32 y
    | _ => 0

/-- FREDUX (R206): the pending bits of a v destination are set. -/
def execFredux (a : Args) (s : State) : Host.Outcome State Fault Refusal :=
  let v := a.view
  let wide := v.ty.wide
  s.flightInstr v (specFredux v) { long := v.dst.cls == .v } fun h g s =>
    let x (l : Nat) : Val := s.readSrc h.c h.f h.r l v.sa wide
    let psn := (lanesOf g).find? fun l => (x l).psn
    let y := freduxN (v.o 0 3) v.ty v.rnd v.flg g fun l => (x l).bits.toNat % 2 ^ v.ty.width
    .ok s (wideOut v wide g fun _ => (BitVec.ofNat 64 y, psn.map fun l => (x l).tok))

-- ---------------------------------------------------------------------------------------------
-- Masks

/-- KMOV from a k mask to an s register, v registers or predicates, or from a uniform source to a k mask (R207). -/
def State.kmov (s : State) (v : View) : Host.Outcome State Fault Refusal :=
  s.flightInstr v (specKmov v) {} fun h g s =>
    .ok s (wideOut v false g fun l =>
      let x : W32 := match v.sb with
        | .imm y => y
        | .src _ => (s.readSrc h.c h.f h.r l v.sa false).lo
      ((if v.dst.cls = .pred then (if x.getLsbD l then 1 else 0) else x.setWidth 64), none))

def execKmov (a : Args) (s : State) : Host.Outcome State Fault Refusal := s.kmov a.view
def execKmovI (a : ArgsI) (s : State) : Host.Outcome State Fault Refusal := s.kmov a.view

/-- KLOP (R208). -/
def execKlop (a : Args) (s : State) : Host.Outcome State Fault Refusal :=
  let v := a.view
  s.flightInstr v (specKlop v) {} fun h g s =>
    .ok s (wideOut v false g fun l =>
      ((lutMask v.opt (s.readSrc h.c h.f h.r l v.sa false).lo (s.readB h.c h.f h.r l v false none).lo
        (s.readSrc h.c h.f h.r l v.sc false).lo).setWidth 64, none))

/-- KPOPC (R209). -/
def execKpopc (a : Args) (s : State) : Host.Outcome State Fault Refusal :=
  let v := a.view
  s.flightInstr v (specKpopc v) {} fun h g s =>
    .ok s (wideOut v false g fun l =>
      let m := (s.readSrc h.c h.f h.r l v.sa false).lo.toNat
      let n := match v.o 0 2 with
        | 0 => popCount m 32
        | 1 => popCount (m % 2 ^ l) 32
        | _ => popCount (m % 2 ^ (l + 1)) 32
      (BitVec.ofNat 64 n, none))

/-- The index of one bit number n of a mask, or 32 (R209). -/
def kfindN (mode : Nat) (m : W32) (n : Nat) : Nat :=
  let ones := lanesOf m
  match mode with
  | 0 => ones.headD 32
  | 1 => ones.getLast?.getD 32
  | _ => ones.getD n 32

/-- KFIND (R209). -/
def execKfind (a : Args) (s : State) : Host.Outcome State Fault Refusal :=
  let v := a.view
  s.flightInstr v (specKfind v) {} fun h g s =>
    .ok s (wideOut v false g fun l =>
      let n := if v.o 0 2 = 2 then s.readB h.c h.f h.r l v false none else Val.zero
      (BitVec.ofNat 64 (kfindN (v.o 0 2) (s.readSrc h.c h.f h.r l v.sa false).lo n.lo.toNat), if n.psn then some n.tok else none))

-- ---------------------------------------------------------------------------------------------
-- Reconvergence

/-- RCV (R210): the threads of exec arrive and are held; the decision of release follows. -/
def execRcv (a : Args) (s : State) : Host.Outcome State Fault Refusal :=
  let v := a.view
  let id := v.sbSrc.idx.toNat
  s.afterFlight (s.flightInstr v (specRcv v) {} fun h g s =>
      let s := match s.flight? h.c h.fid with
        | some f => s.setFlight h.c h.fid { f with arrive := f.arrive.set id (f.arrive.getD id 0 ||| g) }
        | none => s
      .ok s { lanes := (lanesOf g).map fun l =>
        LaneOut.plain l (.held (.rcv id ((s.readSrc h.c h.f h.r l v.sa false).lo &&& ~~~laneBit l))) })
    fun s c fid => match s.flight? c fid with
      | some f => s.setFlight c fid f.rcvCheck
      | none => s

-- ---------------------------------------------------------------------------------------------
-- Allotment

/-- ALLOC (R216): only a block's first ALLOC can wait. -/
def execAlloc (a : Args) (s : State) : Host.Outcome State Fault Refusal :=
  let v := a.view
  s.flightInstr v (specWide0 v) {} fun h g s =>
    if g ≠ h.f.liveMask then .ok s (trapLanes g tPARTIAL 0)
    else if h.f.freed then .ok s (trapLanes g tALLOTMENT 0)
    else
      match s.blockOf h.f with
      | none => .ok s (plainLanes g)
      | some (home, b) =>
        if b.granted then
          .ok (if h.f.allot = kRegs (s.kdesc h.f.launch) then s else s.raiseAllot h.c h.fid) (plainLanes g)
        else if (s.core home).grantQ.head? = some (home, h.f.block) ∧ s.grantFits home b then
          .ok ((s.grantBlock home h.f.block).raiseAllot h.c h.fid) (plainLanes g)
        else .ok s { lanes := (lanesOf g).map fun l => LaneOut.plain l (.wait .alloc) }

/-- Whether a register from v16 up of a live thread is pending for anything but the run in progress, which commits before FREE drops the registers (R98, R218). -/
def Here.highPending (h : Here) : Bool :=
  h.f.threads.entries.any fun t => t.2.live && t.2.v.entries.any fun r =>
    decide (r.1 ≥ 16) && r.2.pend && !(h.r.pend.any fun x => x.1 == t.1 && (match x.2 with
      | .v i _ _ => i == r.1
      | _ => false))

/-- FREE (R218): it waits while a register from v16 up is pending. -/
def execFree (a : Args) (s : State) : Host.Outcome State Fault Refusal :=
  let v := a.view
  s.flightInstr v (specWide0 v) {} fun h g s =>
    if g ≠ h.f.liveMask then .ok s (trapLanes g tPARTIAL 0)
    else if h.highPending then .wait .held
    else
      let s := s.setFlight h.c h.fid { h.f with freed := true }
      let out : Outs := { plainLanes g with lower := true }
      match s.blockOf h.f with
      | none => .ok s out
      | some (home, b) =>
        if (s.flightsOf b).all fun e => e.2.2.freed then
          .ok ((s.setBlock home h.f.block { b with spadOpen := false }).releaseSpad home h.f.block) out
        else .ok s out

-- ---------------------------------------------------------------------------------------------
-- Events

/-- ALLOC_GRANT (R217). -/
def execAllocGrant (core : Nat) (s : State) : Host.Outcome State Fault Refusal := .next (s.grantHead core)

/-- SCRATCHPAD_RELEASE (R218). -/
def execScratchpadRelease (core block : Nat) (s : State) : Host.Outcome State Fault Refusal := .next (s.releaseSpad core block)

/-- FLIGHT_OVERDUE (R190): the flight has waited 2048 cycles with a ready thread since its last issue. -/
def execFlightOverdue (core fid : Nat) (s : State) : Host.Outcome State Fault Refusal :=
  match s.flight? core fid with
  | none => .next s
  | some f => .next (if f.waited ≥ 2048 then s.setFlight core fid { f with overdue := true } else s)

/-- THREAD_AGED (R195): the counter has reached 64. -/
def execThreadAged (core fid lane : Nat) (s : State) : Host.Outcome State Fault Refusal :=
  match s.flight? core fid with
  | none => .next s
  | some f =>
    let t := f.thread lane
    .next (if t.live ∧ t.agedCount ≥ 64 then s.setFlight core fid (f.setThread lane { t with aged := true }) else s)

end Sys2Proof.Machine
end

