-- ==== Sys2Proof/Machine/BarrierOps.lean ====
section
/-!
DEFINITION. Sys2Proof/Machine/BarrierOps.lean: BAR and CBAR (R226 to R228, R305, R306), the counted-barrier instructions (R229 to R241), and arrivals from outside
the core (R234).
-/
namespace Sys2Proof.Machine

open Sys2Proof

-- ---------------------------------------------------------------------------------------------
-- Block and cluster barriers

/-- The names of the threads of a bundle in their block: flight index * 32 + lane. -/
def bundleNames (f : Flight) (g : W32) : List Nat := (lanesOf g).map fun l => f.idx * 32 + l

/-- BAR (R227): the release at .bk, the arrival of exec, and check(id). -/
def execBar (a : Args) (s : State) : Host.Outcome State Fault Refusal :=
  let v := a.view
  let id := v.sa.idx.toNat
  s.afterFlight (s.flightInstr v (specBar v) {} fun h g s =>
      (s.release h.c h.f.ctx 2).bind fun s _ =>
        let s := match s.blockOf h.f with
          | some (home, b) =>
            s.setBlock home h.f.block { b with bars := b.bars.set id ((bundleNames h.f g).foldr insertN (b.bars.getD id [])) }
          | none => s
        .ok s { lanes := (lanesOf g).map fun l => LaneOut.plain l (.held (.bar id)) })
    fun s c fid => match s.flight? c fid with
      | some f => match s.blockOf f with
        | some (home, _) => s.barCheck home f.block id
        | none => s
      | none => s

/-- CBAR (R306): as BAR over the cluster group, with a release at .cl. -/
def execCbar (a : Args) (s : State) : Host.Outcome State Fault Refusal :=
  let v := a.view
  let id := v.sa.idx.toNat
  s.afterFlight (s.flightInstr v (specCbar v) {} fun h g s =>
      (s.release h.c h.f.ctx 3).bind fun s _ =>
        let s := match s.blockOf h.f with
          | some (_, b) => match s.groups.get? b.group with
            | some gr =>
              let names := (bundleNames h.f g).map fun t => b.member * 2 ^ 16 + t
              { s with groups := s.groups.set b.group { gr with cbars := gr.cbars.set id (names.foldr insertN (gr.cbars.getD id [])) } }
            | none => s
          | none => s
        .ok s { lanes := (lanesOf g).map fun l => LaneOut.plain l (.held (.cbar id)) })
    fun s c fid => match s.flight? c fid with
      | some f => match s.blockOf f with
        | some (_, b) => s.cbarCheck b.group id
        | none => s
      | none => s

-- ---------------------------------------------------------------------------------------------
-- Counted barriers

/-- The barrier of a lane and its amount (R236, R237): or the trap, before any change is made. CBWAIT and CBREAD have no amount. -/
def State.cbOperands (s : State) (h : Here) (v : View) (amt : Bool) (l : Nat) : Except LaneOut (Nat × W32) :=
  match cbNum v.sa (s.readSrc h.c h.f h.r l v.sa false) with
  | .trap code opnd tok => .error (LaneOut.stop l code opnd tok)
  | .ok n =>
    let x := if amt then s.readB h.c h.f h.r l v false none else Val.zero
    if x.psn then .error (LaneOut.stop l tPOISON 2 (.tok x.tok)) else .ok (n, x.lo)

/-- Each lane in rising order, one after another in a barrier's update order (R235). -/
def State.eachCb (s : State) (h : Here) (v : View) (amt : Bool) (g : W32) (f : State → Nat → Nat → W32 → Acc LaneOut) : Acc Outs :=
  (s.overLanes () (fun s _ l =>
    match s.cbOperands h v amt l with
    | .error o => .ok s ((), o)
    | .ok (n, x) => (f s l n x).bind fun s o => .ok s ((), o)) (lanesOf g)).bind fun s os => .ok s { lanes := os }

/-- CBARM in one lane (R237). -/
def State.cbArm (s : State) (h : Here) (v : View) (l n : Nat) (x : W32) : Acc LaneOut :=
  let b := s.cb h.c n
  let s := if v.o 0 1 = 1 then s.setCb h.c n { b with count := 0, armed := false, sat := false, scope := v.scp }
    else (s.setCb h.c n { b with scope := v.scp, armed := true }).cbUpdate h.c n x.toNat h.f.ctx (h.f.thread l).trapaddr
  .ok s (LaneOut.plain l .next)

def execCbarm (a : Args) (s : State) : Host.Outcome State Fault Refusal :=
  s.flightInstr a.view (specCbarm a.view) {} fun h g s => s.eachCb h a.view true g fun s l n x => s.cbArm h a.view l n x
def execCbarmI (a : ArgsI) (s : State) : Host.Outcome State Fault Refusal :=
  s.flightInstr a.view (specCbarm a.view) {} fun h g s => s.eachCb h a.view true g fun s l n x => s.cbArm h a.view l n x

/-- CBADD in one lane (R238). -/
def State.cbAdd (s : State) (h : Here) (l n : Nat) (x : W32) : Acc LaneOut :=
  (s.release h.c h.f.ctx (s.cb h.c n).scope).bind fun s _ => .ok (s.cbUpdate h.c n (-x.toInt) h.f.ctx (h.f.thread l).trapaddr) (LaneOut.plain l .next)

def execCbadd (a : Args) (s : State) : Host.Outcome State Fault Refusal :=
  s.flightInstr a.view (specCbadd a.view) {} fun h g s => s.eachCb h a.view true g fun s l n x => s.cbAdd h l n x
def execCbaddI (a : ArgsI) (s : State) : Host.Outcome State Fault Refusal :=
  s.flightInstr a.view (specCbadd a.view) {} fun h g s => s.eachCb h a.view true g fun s l n x => s.cbAdd h l n x

/-- CBWAIT (R239): it passes at an armed zero, with the acquire of R233. -/
def execCbwait (a : Args) (s : State) : Host.Outcome State Fault Refusal :=
  let v := a.view
  s.flightInstr v (specCbwait v) {} fun h g s => s.eachCb h v false g fun s l n _ =>
    let b := s.cb h.c n
    if b.armed ∧ b.count = 0 then .ok (s.acquireBy h.c h.f b.scope) (LaneOut.plain l .next)
    else .ok s (LaneOut.plain l (.wait (.cbWait n)))

/-- CBACQ (R240): the queue is first in, first out; a thread at its head that the count covers is served at once. -/
def execCbacq (a : Args) (s : State) : Host.Outcome State Fault Refusal :=
  let v := a.view
  s.flightInstr v (specCbadd v) {} fun h g s => s.eachCb h v true g fun s l n x =>
    let b := s.cb h.c n
    let k := x.toNat
    if k = 0 then .ok (s.acquireBy h.c h.f b.scope) (LaneOut.plain l .next)
    else if b.queue = [] ∧ b.count ≥ (k : Int) then
      .ok (((s.setCb h.c n (b.moved (b.count - k))).cbZero h.c n).acquireBy h.c h.f b.scope) (LaneOut.plain l .next)
    else .ok (s.setCb h.c n { b with queue := b.queue ++ [(h.fid, l, k)] }) (LaneOut.plain l (.wait (.cbAcq n k)))

/-- The 64-bit state of a barrier (R230). -/
def CBar.word (b : CBar) : W64 :=
  BitVec.ofNat 64 (lowBits b.count 40 + b2n b.armed * 2 ^ 40 + b.scope % 8 * 2 ^ 41 + b2n b.sat * 2 ^ 44)

/-- CBREAD (R241): its latency is pending. -/
def execCbread (a : Args) (s : State) : Host.Outcome State Fault Refusal :=
  let v := a.view
  s.flightInstr v (specCbread v) { long := true } fun h g s => s.eachCb h v false g fun s l n _ =>
    .ok s ⟨l, writeDst v.dst true (s.cb h.c n).word none, .next⟩

-- ---------------------------------------------------------------------------------------------
-- Arrivals from outside the core

/-- What becomes of an arrival (R234). -/
inductive Arrived where
  | applied (s : State)
  | held
  | refused

/-- Whether a core holds a launch of a context: by its sys.launch. -/
def State.holdsLaunch (s : State) (c ctx launch : Nat) : Bool :=
  match (s.core c).launch with
  | some k => match s.launch? k with
    | some la => la.ctx == ctx && la.id % 2 ^ 32 == launch % 2 ^ 32
    | none => false
  | none => false

/-- An arrival of a signed amount at a counted barrier (R232, R234). -/
def State.arrive (s : State) (c cb ctx launch : Nat) (amount : Int) : Arrived :=
  if (s.ctx ctx).st = .saved then .held
  else if s.holdsLaunch c ctx launch then .applied (s.cbUpdate c (cb % 64) (-amount) ctx)
  else .refused

/-- REMOTE_ARRIVAL (R234): one for a saved-out context is held and retried. The sender hears whether it was applied or refused: a refusal faults into its own context. -/
def execRemoteArrival (core cb ctx launch : Nat) (amount : BitVec 32) (s : State) : Host.Outcome State Fault Refusal :=
  match s.arrive core cb ctx launch amount.toInt with
  | .applied s => .next (s.emit (.arrivalAck core cb ctx launch true))
  | .held => .next { s with arrivals := s.arrivals ++ [⟨core, cb, ctx, launch, amount.toInt⟩] }
  | .refused => .next (s.emit (.arrivalAck core cb ctx launch false))

/-- ARRIVAL_RETRY (R234): applied once when its context is no longer saved out. -/
def execArrivalRetry (i : Nat) (s : State) : Host.Outcome State Fault Refusal :=
  match s.arrivals[i]? with
  | none => .next s
  | some x =>
    match s.arrive x.core x.cb x.ctx x.launch x.amount with
    | .applied t => .next ({ t with arrivals := s.arrivals.eraseIdx i }.emit (.arrivalAck x.core x.cb x.ctx x.launch true))
    | .held => .next s
    | .refused => .next ({ s with arrivals := s.arrivals.eraseIdx i }.emit (.arrivalAck x.core x.cb x.ctx x.launch false))

end Sys2Proof.Machine
end

