-- ==== Sys2Proof/Machine/Bank.lean ====
section
/-!
DEFINITION. Sys2Proof/Machine/Bank.lean: the constant bank of a launch (R171, R394): its read at dispatch, its held copy, and the read that replaces a copy that was lost.
-/
namespace Sys2Proof.Machine

open Sys2Proof

-- Two fields of a node record (R393)

def nCtx (r : Nat) : Nat := bitsN r 16 12
def nCbank (r : Nat) : W64 := BitVec.ofNat 64 (bitsN r 320 64)

/-- The words of a constant bank, read at dispatch (R394). -/
def wordsOfNum (x n : Nat) : KMap W32 := .ofList ((List.range n).map fun i => (i, BitVec.ofNat 32 (x / 2 ^ (32 * i))))

/-- A node's constant bank. -/
def State.readBank (s : State) (node : Node) : State × VaRd :=
  let n := kCbWords node.desc
  if n = 0 then (s, .ok 0) else s.readBytes (nCtx node.recd.toNat) (nCbank node.recd.toNat) (4 * n)

/-- The die reads the bank of a launch again from CBANK (R394). A read that fails halts the context, and the bank is read once more before a word of it is needed. -/
def State.refillBank (s : State) (l : Nat) : Acc Unit :=
  match s.launch? l with
  | none => .ok s ()
  | some la =>
    match la.node.bind fun n => (s.part n.1).nodes.get? n.2 with
    | none => .ok s ()
    | some node =>
      let put (s : State) (x : Launch) : State := { s with launches := s.launches.set l x }
      match s.readBank node with
      | (_, .wait n) => .wait n
      | (s, .ok bank) => .ok (put s { la with cbank := wordsOfNum bank (kCbWords la.desc), bankBad := false }) ()
      | (s, _) => .ok ((put s { la with bankBad := true }).trapContext la.ctx causeLaunchFault (nCbank node.recd.toNat)) ()

end Sys2Proof.Machine
end

