-- ==== Sys2Proof/Machine/Issue.lean ====
section
/-!
DEFINITION. Sys2Proof/Machine/Issue.lean: which instruction a slot or a racking processor issues next: readiness (R189), the picker (R190), the vote (R191,
R198), ageing (R195), fetching a run and starting it (R40, R43, R105), and the rotation of the engine threads (R263).
-/
namespace Sys2Proof.Machine

open Sys2Proof

/-- The execution class of an opcode (R115, R166, R197, R226, R242, R260, R265, R305, R364). -/
def classOf (opc : Nat) (ty : Nat) : Nat :=
  let integer := 0; let fp := 1; let special := 2; let loadStore := 3; let scratch := 4; let press := 5; let rack := 6
  let o := if opc / 64 % 2 = 1 then opc - 64 else opc
  let g := opc / 128
  if g = 0 then integer
  else if g = 1 then (if 0x088 ≤ o ∧ o ≤ 0x08E then special else fp)
  else if g = 2 then (if 0x102 ≤ o ∧ o ≤ 0x106 then fp else integer)
  else if g = 3 then (if [0x182, 0x183, 0x184, 0x186, 0x187, 0x18A].contains o then loadStore else integer)
  else if g = 4 then
    (if [0x202, 0x203, 0x205, 0x207].contains o then scratch else if o = 0x211 then integer else loadStore)
  else if g = 5 then
    (if o = 0x283 ∧ ty = 12 then integer else if 0x291 ≤ o ∧ o ≤ 0x295 then scratch else integer)
  else if g = 6 then (if o < 0x310 then press else if o < 0x320 then rack else loadStore)
  else loadStore

/-- What a run reads beyond the fields of its members: the argument registers of RFORK (R266) and the first of the group of CGRUN. -/
def extraRegs (i : Instr) : List Nat :=
  match i with
  | .rfork a => (List.range 4).map fun k => a.sb.idx.toNat + k
  | .cgrun a => (List.range 8).map fun k => a.sb.idx.toNat + k
  | _ => []

/-- The number of members that follow the first (R38). -/
def runOf (w : W96) : Nat := (hntField w).run.toNat

/-- Whether a member may stand before the last one (R43): a legal one by its encoding, an illegal one by the group of its opcode (000, 001, 010, or NOP). A word of
no allocated opcode is no instruction that R43 names: it traps in its own place. -/
def memberAnywhere (w : W96) : Bool :=
  match decodeWord w with
  | .ok i => match i.view? with
    | some (_, o) => o.anyPos
    | none => true
  | .illegal _ => decide (opcField w / 128 ≤ 2) || opcField w == 0x18B

/-- Whether a run breaks R43. -/
def runBreaks (ws : List W96) : Bool := ws.dropLast.any fun w => !memberAnywhere w

/-- Whether a run holds a flight-wide member (R198). -/
def runWide (ws : List W96) : Bool :=
  ws.any fun w => match decodeWord w with
    | .ok i => match i.view? with
      | some (_, o) => o.wide
      | none => false
    | .illegal _ => false

/-- Whether no register that a run reads or writes is pending in a lane (R45). -/
def Flight.runUnpended (f : Flight) (l : Nat) (ws : List W96) : Bool :=
  ws.all fun w => match decodeWord w with
    | .ok i => match i.view? with
      | some (v, o) => f.noPending (laneBit l) o v (extraRegs i)
      | none => true
    | .illegal _ => true

/-- The result of fetching a run (R40): its words, the failure of one member with its position, or a wait. -/
inductive RunFetch where
  | ok (ws : List W96)
  | fault (k : Nat) (e : Fetch)
  | wait (n : Need)
deriving DecidableEq, Repr

/-- Fetch members from position k on. -/
def State.fetchFrom (s : State) (c ctx : Nat) (pc : W57) (k : Nat) : Nat → List W96 → State × RunFetch
  | 0, acc => (s, .ok acc)
  | n + 1, acc =>
    match s.fetch c ctx (pc + BitVec.ofNat 57 (12 * k)) with
    | (s, .ok w) => s.fetchFrom c ctx pc (k + 1) n (acc ++ [w])
    | (s, .wait need) => (s, .wait need)
    | (s, e) => (s, .fault k e)

/-- Fetch the run that starts at a pc. -/
def State.fetchRun (s : State) (c ctx : Nat) (pc : W57) : State × RunFetch :=
  match s.fetch c ctx pc with
  | (s, .ok w) => s.fetchFrom c ctx pc 1 (runOf w) [w]
  | (s, .wait need) => (s, .wait need)
  | (s, e) => (s, .fault 0 e)

/-- Readiness of a thread whose next run is `rf` (R189). A thread with an acquire load outstanding makes no later access before it lands (R167). -/
def Thread.ready (t : Thread) (f : Flight) (l clock : Nat) (rf : RunFetch) : Bool :=
  t.live && t.hold == .none && t.stallTo ≤ clock && t.acqLoads == 0 &&
    (match rf with
     | .ok ws => f.runUnpended l ws
     | .fault _ _ => true
     | .wait _ => false)

/-- The distinct pcs of a flight's live threads, lowest first, each with its run. -/
def State.runsOf (s : State) (c : Nat) (f : Flight) : List (Nat × RunFetch) :=
  (uniqN (f.threads.entries.filterMap fun t => if t.2.live then some t.2.pc.toNat else none)).map fun p =>
    (p, (s.fetchRun c f.ctx (BitVec.ofNat 57 p)).2)

/-- The ready lanes of a flight at a pc. -/
def Flight.readyAt (f : Flight) (clock p : Nat) (rf : RunFetch) : W32 :=
  f.threads.entries.foldl (fun m t =>
    if t.2.pc.toNat = p && t.2.ready f t.1 clock rf then m ||| laneBit t.1 else m) 0

/-- The live lanes of a flight at a pc. -/
def Flight.liveAt (f : Flight) (p : Nat) : W32 :=
  f.threads.entries.foldl (fun m t => if t.2.live && t.2.pc.toNat = p then m ||| laneBit t.1 else m) 0

/-- The ready lanes of a flight by pc, lowest first, each with its run (R189). -/
def State.readyRuns (s : State) (c : Nat) (f : Flight) : List (Nat × W32 × RunFetch) :=
  (s.runsOf c f).filterMap fun e =>
    let m := f.readyAt s.clock e.1 e.2
    if m = 0 then none else some (e.1, m, e.2)

/-- Whether a thread is aged (R195): its counter has reached 64, or the event THREAD_AGED has said so. -/
def Thread.isAged (t : Thread) : Bool := t.aged || decide (t.agedCount ≥ 64)

/-- Whether a flight is overdue (R190): it has waited 2048 cycles with a ready thread, or the event FLIGHT_OVERDUE has said so. -/
def Flight.isOverdue (f : Flight) : Bool := f.overdue || decide (f.waited ≥ 2048)

/-- The vote of a flight (R191, R198): pc, exec, and its other ready lanes. None when it has no ready thread; a bundle that waits keeps its pc. -/
def State.bundle? (s : State) (c : Nat) (f : Flight) : Option (Nat × W32 × W32 × RunFetch) :=
  let ready := s.readyRuns c f
  let kept := ready.filter fun e => f.wideAt == some e.1
  let aged := ready.filter fun e => (lanesOf e.2.1).any fun l => (f.thread l).isAged
  match (kept ++ aged ++ ready).head? with
  | none => none
  | some (p, m, rf) => some (p, m, ready.foldl (fun (x : W32) e => if e.1 = p then x else x ||| e.2.1) 0, rf)

/-- Whether a bundle is flight-wide and some live thread at its address is not ready (R198). -/
def Flight.mustWait (f : Flight) (b : Nat × W32 × W32 × RunFetch) : Bool :=
  match b.2.2.2 with
  | .ok ws => runWide ws && b.2.1 != f.liveAt b.1
  | _ => false

/-- Whether a flight-wide bundle of a flight waits for its threads (R198): nothing else of the flight issues. -/
def State.wideWaits (s : State) (c : Nat) (f : Flight) : Bool :=
  match f.wideAt with
  | none => false
  | some p => f.liveAt p != 0 && (match s.bundle? c f with
    | some b => b.1 != p || f.mustWait b
    | none => true)

/-- The key of the last issue of a class: per slot, but for press and racking-fork per core (R190). -/
def classKey (cls slot : Nat) : Nat := if cls = 5 ∨ cls = 6 then cls else 8 * (slot + 1) + cls

/-- The first word of a bundle. -/
def RunFetch.first : RunFetch → W96
  | .ok ws => ws.headD 0
  | _ => 0

/-- Idle time of the class that a bundle would issue to. -/
def State.idleTime (s : State) (c slot : Nat) (rf : RunFetch) : Nat :=
  let w := rf.first
  s.clock - (s.core c).lastClass.getD (classKey (classOf (opcField w) (tyField w)) slot) 0

/-- A slot's choice among its flights (R190): an overdue flight, the oldest first; else one whose last instruction did not carry YLD, whose class has been idle
longest, the oldest first. -/
def State.pickFlight (s : State) (c slot : Nat) : Option (Nat × Nat × W32 × W32 × RunFetch) :=
  let cands := (s.core c).flights.entries.filterMap fun e =>
    if e.2.slot = slot && e.2.run.isNone && s.mayRun e.2.ctx && !s.wideWaits c e.2 then
      (s.bundle? c e.2).map fun b => (e.1, e.2, b)
    else none
  let better (x y : Nat × Flight × Nat × W32 × W32 × RunFetch) : Bool :=
    if x.2.1.isOverdue != y.2.1.isOverdue then x.2.1.isOverdue
    else if x.2.1.isOverdue then x.2.1.age < y.2.1.age
    else if x.2.1.yielded != y.2.1.yielded then y.2.1.yielded
    else
      let ix := s.idleTime c slot x.2.2.2.2.2
      let iy := s.idleTime c slot y.2.2.2.2.2
      if ix ≠ iy then ix > iy else x.2.1.age < y.2.1.age
  match cands with
  | [] => none
  | x :: rest =>
    let b := rest.foldl (fun best y => if better y best then y else best) x
    some (b.1, b.2.2)

/-- What a turn of a slot comes to: nothing more to execute, or a word to execute at the cursor. -/
inductive Prep where
  | done (s : State)
  | word (s : State) (w : W96)

/-- The flight's counters when a bundle of it issues (R190, R195): the exec starts a run. -/
def Flight.issueBundle (f : Flight) (exec others : W32) (r : Run) : Flight :=
  let threads := f.threads.mapV fun l t =>
    if exec.getLsbD l then { t with agedCount := 0, aged := false, entering := none }
    else if others.getLsbD l then { t with agedCount := t.agedCount + 1 }
    else t
  { f with threads := threads, waited := 0, overdue := false, yielded := false, wideAt := none, run := some r }

/-- A run as it issues (R42). -/
def Flight.newRun (f : Flight) (exec : W32) (pc : W57) (ws : List W96) : Run :=
  { exec := exec, start := pc, pos := 0, len := ws.length, snap := f.threads.filter fun l _ => exec.getLsbD l, snapS := f.s, snapK := f.k
    lat := .empty, staged := .empty, fstaged := [], pend := [], words := ws, waiting := false }

/-- A fetch that fails (R40, R105, R351): a TYPE 5 record; the threads trap at the run's first instruction with FETCH_FAULT, or halt their context with TRAP_FRAME where
trap entry started the run. sys.trapaddr names the member that failed; RUNPOS is 0, the run's first instruction, where the spec does not say which it is (assumption 23,
DEDUCED). -/
def State.fetchFault (s : State) (c fid : Nat) (exec : W32) (pc : W57) (k : Nat) (e : Fetch) : State :=
  match s.flight? c fid, e with
  | some f, .fault kind malf stage gpa va =>
    let entering (l : Nat) : Bool := (f.thread l).entering.isSome
    let rec1 : Acc (Option Nat) :=
      if stage = 0 then .ok s none
      else s.lantern f.ctx { ty := 5, kind := kind, cause := tFETCHFAULT, stage := stage, ex := true, malf := malf, core := c, flight := f.idx
                             va := va.toNat, gpa := gpa, info := (lanesOf exec).head?.map fun l => (f.thread l).trapaddr }
    let done := rec1.bind fun s _ =>
      (lanesOf exec).foldl (fun (acc : Acc Unit) l => acc.bind fun s _ =>
        if entering l then .ok (s.trapContext f.ctx causeTrapFrame (f.thread l).trapaddr) ()
        else s.takeTrap c fid l pc (causeWord tFETCHFAULT 0 0) (pcWord (pc + BitVec.ofNat 57 (12 * k))) 0) (.ok s ())
    match done with
    | .ok s _ => s
    | .bad _ _ => s
    | .wait n => s.request n
  | _, _ => s

/-- A word issues from a slot: its class is idle from now (R190). -/
def State.issued (s : State) (c slot : Nat) (w : W96) : State :=
  let k := s.core c
  s.setCore c { k with lastClass := k.lastClass.set (classKey (classOf (opcField w) (tyField w)) slot) s.clock }

/-- A slot has made a choice: YLD ranked flights for that choice alone (R190). -/
def State.choiceMade (s : State) (c slot : Nat) : State :=
  let k := s.core c
  s.setCore c { k with flights := k.flights.mapV fun _ f => if f.slot = slot && f.yielded then { f with yielded := false } else f }

/-- Whether a thread entered its handler at a vector that is not canonical: its fetch fails without a record (R105). -/
def Flight.badVector (f : Flight) (l : Nat) : Bool :=
  match (f.thread l).entering with
  | some v => !canonical v
  | none => false

/-- A member that is an illegal encoding, or a run that breaks R43: every thread of exec traps (R49). -/
def State.illegalMember (s : State) : State :=
  match s.here? with
  | none => s
  | some h => s.finishMember s h default false (trapLanes h.r.exec tILLEGAL 0)

/-- Go on with the run in progress of a flight. That of a stopped context is dropped, but for a member that waits for the device (R426). -/
def State.resumeRun (s : State) (c fid : Nat) (f : Flight) : Prep :=
  match f.run with
  | some r =>
    if !r.waiting && !s.mayRun f.ctx then .done (s.setFlight c fid { f.pendAll false r.pend with run := none })
    else
      let w := r.words.getD r.pos 0
      .word { s.issued c f.slot w with cur := ⟨c, fid, false⟩ } w
  | none => .done s

/-- Whether an instruction needs words of the constant bank: a c operand, or LDC (R32, R171). -/
def needsBank (w : W96) : Bool :=
  opcField w == 0x204 || opcField w == 0x244 || match decodeWord w with
  | .ok i => match i.view? with
    | some (v, _) => v.sa.cls == .cbank || v.sc.cls == .cbank || match v.sb with
      | .src b => b.cls == .cbank
      | .imm _ => false
    | none => false
  | .illegal _ => false

/-- Before instructions that need words of a bank whose held copy was lost, the die reads it again (R394). False where it cannot: the context has halted, or the read waits. -/
def State.bankReady (s : State) (launch : Nat) (ws : List W96) : State × Bool :=
  if ((s.launch? launch).elim false (·.bankBad)) && ws.any needsBank then
    match s.refillBank launch with
    | .ok s _ => (s, !((s.launch? launch).elim false (·.bankBad)))
    | .bad _ _ => (s, false)
    | .wait n => (s.request n, false)
  else (s, true)

/-- Start the run that the picker and the vote of a slot choose. -/
def State.startRun (s : State) (c slot : Nat) : Prep :=
  match s.pickFlight c slot with
  | none => .done s
  | some (fid, b) =>
    let (p, exec, others, _) := b
    let s := { s.choiceMade c slot with cur := ⟨c, fid, false⟩ }
    match s.flight? c fid with
    | none => .done s
    | some f =>
      if f.mustWait b then .done (s.setFlight c fid { f with wideAt := some p }) else
      let pc := BitVec.ofNat 57 p
      let bad := (lanesOf exec).filter (f.badVector ·)
      if bad ≠ [] then .done (bad.foldl (fun (s : State) l => s.trapContext f.ctx causeTrapFrame (f.thread l).trapaddr) s)
      else
        match s.fetchRun c f.ctx pc with
        | (s, .wait n) => .done (s.request n)
        | (s, .fault k e) => .done (s.fetchFault c fid exec pc k e)
        | (s, .ok ws) =>
          match s.bankReady f.launch ws with
          | (s, false) => .done s
          | (s, true) =>
            let w := ws.headD 0
            let s := s.issued c slot w
            let s := s.setFlight c fid (f.issueBundle exec others (f.newRun exec pc (if runBreaks ws then [w] else ws)))
            if runBreaks ws then .done s.illegalMember else .word s w

/-- Whether a flight's run waits for the device. -/
def Flight.waits (f : Flight) : Bool := match f.run with
  | some r => r.waiting
  | none => false

/-- The issue of a slot: go on with a run in progress, or start a run. Runs that wait for the device stand aside; which of them, or of the others, goes on is
free. -/
def State.prepareSlot (s : State) (c slot : Nat) : Prep :=
  if s.recovery then .done s
  else
    match (s.core c).flights.entries.find? fun e => e.2.slot = slot && e.2.run.isSome && !e.2.waits with
    | some (fid, f) => s.resumeRun c fid f
    | none =>
      let ws := (s.core c).flights.entries.filter fun e => e.2.slot = slot && e.2.waits
      let (k, s) := s.pick (ws.length + 1)
      match ws[k]? with
      | some (fid, f) => s.resumeRun c fid f
      | none => s.startRun c slot

-- ---------------------------------------------------------------------------------------------
-- Engine threads

/-- Whether an engine thread is ready (R263). -/
def State.engReady (s : State) (c e : Nat) : Bool :=
  let g := s.eng c e
  g.run == .running && g.load == none && s.mayRun g.ctx

/-- The next ready engine thread of a core, in rotation (R263). -/
def State.nextEngine (s : State) (c : Nat) : Option Nat :=
  ((List.range 8).map fun k => ((s.core c).engTurn + k) % 8).find? fun e => s.engReady c e

/-- The issue of an engine thread: its instruction is fetched (R263); a fetch that fails pauses or ends the thread (R272, R273, R295). -/
def State.prepareEngine (s : State) (c e : Nat) : Prep :=
  if s.recovery ∨ s.nextEngine c ≠ some e then .done s
  else
    let g := s.eng c e
    let k := s.core c
    let s := { s.setCore c { k with engTurn := (e + 1) % 8 } with cur := ⟨c, e, true⟩ }
    match s.fetch c g.ctx g.pc with
    | (s, .ok w) =>
      match s.bankReady g.launch [w] with
      | (s, false) => .done s
      | (s, true) => .word s w
    | (s, .wait n) => .done (s.request n)
    | (s, .fault kind malf stage gpa va) =>
      if kind = 3 then
        -- a read whose home is unreachable (R296): VA is zero (R350)
        .done (match s.lantern g.ctx { ty := 4, kind := kind, cause := 2, stage := stage, ex := true, core := c, flight := g.flight
                                       gpa := gpa } with
          | .ok s _ => s.trapContext g.ctx causeMemberLost (BitVec.ofNat 64 gpa)
          | .bad _ _ => s
          | .wait n => s.request n)
      else
        .done (s.engFault c e { cause := if kind = 2 then ePOISON else if kind = 0 then eNOTPRESENT else eFORBIDDEN, kind := kind
                                stage := stage, malf := malf, ex := true, va := va.toNat, gpa := gpa })

/-- An engine thread's illegal encoding (R49). -/
def State.illegalEngine (s : State) : State := s.engFault s.cur.core s.cur.fid { cause := eILLEGAL }

end Sys2Proof.Machine
end

