-- ==== Sys2Proof/Machine/IntOps.lean ====
section
/-!
DEFINITION. Sys2Proof/Machine/IntOps.lean: group 000, integer and address instructions (R119 to R130).
-/
namespace Sys2Proof.Machine

open Sys2Proof

/-- An integer result of a type: saturated under .SAT, else wrapped (R84, R120). -/
def intRes (ty : Ty) (sat : Bool) (x : Int) : W64 := placeInt (if sat then satInt x ty else wrapInt x ty) ty

/-- An operation on exact integers (R120). -/
def intOp (v : View) (f : Int → Int → Int → Int) (a b c : Val) : ARes :=
  .val (intRes v.ty v.flg (f (intOf v.ty a.bits) (intOf v.ty b.bits) (intOf v.ty c.bits)))

/-- An operation on raw bits (R120). -/
def bitOp (f : W64 → W64 → W64) (a b _c : Val) : ARes := .val (f a.bits b.bits)

-- The results of R120

def addX (a b _c : Int) : Int := a + b
def subX (a b _c : Int) : Int := a - b
def mulX (a b _c : Int) : Int := a * b
def mulhiX (w : Nat) (a b _c : Int) : Int := a * b / (2 ^ w : Nat)
def madX (a b c : Int) : Int := a * b + c
def negX (a _b _c : Int) : Int := -a
def absX (a _b _c : Int) : Int := if a < 0 then -a else a
def minX (a b _c : Int) : Int := if b < a then b else a
def maxX (a b _c : Int) : Int := if a < b then b else a
def andX (a b : W64) : W64 := a &&& b
def orX (a b : W64) : W64 := a ||| b
def xorX (a b : W64) : W64 := a ^^^ b
def andnX (a b : W64) : W64 := a &&& ~~~b
def notX (a _b : W64) : W64 := ~~~a

/-- DIV and REM (R121). -/
def divOp (v : View) (rem : Bool) (a b _c : Val) : ARes :=
  let x := intOf v.ty a.bits
  let y := intOf v.ty b.bits
  if !a.psn && !b.psn && y = 0 then
    if v.opt.getLsbD 0 then .trap tDIVIDE 2
    else .val (if rem then placeInt x v.ty else placeInt (wrapInt (-1) v.ty) v.ty)
  else
    let q := Int.tdiv x y
    .val (intRes v.ty v.flg (if rem then x - y * q else q))

/-- The operand of a width, as a number. -/
def wordOf (ty : Ty) (a : Val) : Nat := a.bits.toNat % 2 ^ ty.width

/-- The shifts of R122: the count is SB read as N32. -/
def shlOp (v : View) (a b _c : Val) : ARes :=
  let n := b.lo.toNat
  .val (if n ≥ v.ty.width then 0 else BitVec.ofNat 64 (wordOf v.ty a * 2 ^ n % 2 ^ v.ty.width))
def shrOp (v : View) (a b _c : Val) : ARes :=
  let n := b.lo.toNat
  .val (if n ≥ v.ty.width then 0 else BitVec.ofNat 64 (wordOf v.ty a / 2 ^ n))
def sarOp (v : View) (a b _c : Val) : ARes :=
  let n := if b.lo.toNat ≥ v.ty.width then v.ty.width - 1 else b.lo.toNat
  .val (placeInt (intOf v.ty a.bits / (2 ^ n : Nat)) v.ty)
def rolOp (v : View) (a b _c : Val) : ARes :=
  let w := v.ty.width
  let n := b.lo.toNat % w
  let x := wordOf v.ty a
  .val (BitVec.ofNat 64 ((x * 2 ^ n + x / 2 ^ (w - n)) % 2 ^ w))

/-- The length of a bit field that starts at pos (R123). -/
def fieldLen (w pos len : Nat) : Nat := if pos ≥ w then 0 else Nat.min len (w - pos)

def bfxOp (v : View) (a b c : Val) : ARes :=
  let w := v.ty.width
  let pos := b.lo.toNat % 256
  let len := fieldLen w pos (c.lo.toNat % 256)
  let f := wordOf v.ty a / 2 ^ pos % 2 ^ len
  .val (if len = 0 then 0 else if v.ty.signed then placeInt (asSigned f len) v.ty else BitVec.ofNat 64 f)

def bfiOp (v : View) (a b c : Val) : ARes :=
  let w := v.ty.width
  let pos := c.lo.toNat % 256
  let len := fieldLen w pos (c.lo.toNat / 256 % 256)
  let x := wordOf v.ty a
  let old := x / 2 ^ pos % 2 ^ len
  .val (if len = 0 then BitVec.ofNat 64 x else BitVec.ofNat 64 (x - old * 2 ^ pos + wordOf v.ty b % 2 ^ len * 2 ^ pos))

/-- Counts and reversal (R124). -/
def popcOp (v : View) (a _b _c : Val) : ARes := .val (BitVec.ofNat 64 (popCount (wordOf v.ty a) v.ty.width))
def clzOp (v : View) (a _b _c : Val) : ARes :=
  let x := wordOf v.ty a
  .val (BitVec.ofNat 64 (if x = 0 then v.ty.width else v.ty.width - 1 - Nat.log2 x))
def brevOp (v : View) (a _b _c : Val) : ARes :=
  let x := wordOf v.ty a
  let w := v.ty.width
  .val (BitVec.ofNat 64 ((List.range w).foldl (fun acc i => acc + x / 2 ^ i % 2 * 2 ^ (w - 1 - i)) 0))

/-- SEL (R127). -/
def selOp (a b c : Val) : ARes := .one (if c.bits ≠ 0 then a else b)

/-- CMP (R125). -/
def cmpOp (v : View) (a b _c : Val) : ARes :=
  .val (if condInt v.z.toNat (intOf v.ty a.bits) (intOf v.ty b.bits) then 1 else 0)

/-- PLOP (R126). -/
def plopOp (v : View) (a b c : Val) : ARes :=
  .val (if lutBit v.opt (a.bits != 0) (b.bits != 0) (c.bits != 0) then 1 else 0)

/-- MOV and MOVI (R128). -/
def movOp (a _b _c : Val) : ARes := .copy a
def moviOp (_a b _c : Val) : ARes := .copy b

/-- LEA (R129): the index is scaled and the displacement sign-extended. -/
def leaOp (v : View) (a b c : Val) : ARes :=
  let idx : W64 := if v.opt.getLsbD 3 then b.lo.signExtend 64 else b.lo.setWidth 64
  .val (a.bits + (idx <<< (v.o 0 3)) + c.lo.signExtend 64)
def leaIOp (a b _c : Val) : ARes := .val (a.bits + b.lo.signExtend 64)

/-- ICVT (R130). -/
def icvtOp (v : View) (a _b _c : Val) : ARes :=
  .val (intRes v.ty v.flg (intOf v.srcTy a.bits))

-- ---------------------------------------------------------------------------------------------
-- The meanings

def execAdd (a : Args) (s : State) : Host.Outcome State Fault Refusal :=
  s.alu a.view (specInt intTys true false 2 a.view) none false (intOp a.view addX)
def execAddI (a : ArgsI) (s : State) : Host.Outcome State Fault Refusal :=
  s.alu a.view (specInt intTys true false 2 a.view) none false (intOp a.view addX)
def execSub (a : Args) (s : State) : Host.Outcome State Fault Refusal :=
  s.alu a.view (specInt intTys true false 2 a.view) none false (intOp a.view subX)
def execSubI (a : ArgsI) (s : State) : Host.Outcome State Fault Refusal :=
  s.alu a.view (specInt intTys true false 2 a.view) none false (intOp a.view subX)
def execMul (a : Args) (s : State) : Host.Outcome State Fault Refusal :=
  s.alu a.view (specInt intTys true false 2 a.view) none false (intOp a.view mulX)
def execMulI (a : ArgsI) (s : State) : Host.Outcome State Fault Refusal :=
  s.alu a.view (specInt intTys true false 2 a.view) none false (intOp a.view mulX)
def execMulhi (a : Args) (s : State) : Host.Outcome State Fault Refusal :=
  s.alu a.view (specInt wordTys false false 2 a.view) none false (intOp a.view (mulhiX a.view.ty.width))
def execMad (a : Args) (s : State) : Host.Outcome State Fault Refusal :=
  s.alu a.view (specInt wordTys true false 3 a.view) none false (intOp a.view madX)
def execNeg (a : Args) (s : State) : Host.Outcome State Fault Refusal :=
  s.alu a.view (specInt [.i8, .i16, .i32, .i64] true false 1 a.view) none false (intOp a.view negX)
def execAbs (a : Args) (s : State) : Host.Outcome State Fault Refusal :=
  s.alu a.view (specInt [.i8, .i16, .i32, .i64] true false 1 a.view) none false (intOp a.view absX)
def execMin (a : Args) (s : State) : Host.Outcome State Fault Refusal :=
  s.alu a.view (specInt intTys false false 2 a.view) none false (intOp a.view minX)
def execMinI (a : ArgsI) (s : State) : Host.Outcome State Fault Refusal :=
  s.alu a.view (specInt intTys false false 2 a.view) none false (intOp a.view minX)
def execMax (a : Args) (s : State) : Host.Outcome State Fault Refusal :=
  s.alu a.view (specInt intTys false false 2 a.view) none false (intOp a.view maxX)
def execMaxI (a : ArgsI) (s : State) : Host.Outcome State Fault Refusal :=
  s.alu a.view (specInt intTys false false 2 a.view) none false (intOp a.view maxX)
def execDiv (a : Args) (s : State) : Host.Outcome State Fault Refusal :=
  s.alu a.view (specInt wordTys true true 2 a.view) none true (divOp a.view false)
def execRem (a : Args) (s : State) : Host.Outcome State Fault Refusal :=
  s.alu a.view (specInt wordTys false true 2 a.view) none true (divOp a.view true)
def execAnd (a : Args) (s : State) : Host.Outcome State Fault Refusal :=
  s.alu a.view (specInt bitTys false false 2 a.view) none false (bitOp andX)
def execAndI (a : ArgsI) (s : State) : Host.Outcome State Fault Refusal :=
  s.alu a.view (specInt bitTys false false 2 a.view) none false (bitOp andX)
def execOr (a : Args) (s : State) : Host.Outcome State Fault Refusal :=
  s.alu a.view (specInt bitTys false false 2 a.view) none false (bitOp orX)
def execOrI (a : ArgsI) (s : State) : Host.Outcome State Fault Refusal :=
  s.alu a.view (specInt bitTys false false 2 a.view) none false (bitOp orX)
def execXor (a : Args) (s : State) : Host.Outcome State Fault Refusal :=
  s.alu a.view (specInt bitTys false false 2 a.view) none false (bitOp xorX)
def execXorI (a : ArgsI) (s : State) : Host.Outcome State Fault Refusal :=
  s.alu a.view (specInt bitTys false false 2 a.view) none false (bitOp xorX)
def execNot (a : Args) (s : State) : Host.Outcome State Fault Refusal :=
  s.alu a.view (specInt bitTys false false 1 a.view) none false (bitOp notX)
def execAndn (a : Args) (s : State) : Host.Outcome State Fault Refusal :=
  s.alu a.view (specInt bitTys false false 2 a.view) none false (bitOp andnX)
def execAndnI (a : ArgsI) (s : State) : Host.Outcome State Fault Refusal :=
  s.alu a.view (specInt bitTys false false 2 a.view) none false (bitOp andnX)
def execShl (a : Args) (s : State) : Host.Outcome State Fault Refusal :=
  s.alu a.view (specShift bitTys a.view) none false (shlOp a.view)
def execShlI (a : ArgsI) (s : State) : Host.Outcome State Fault Refusal :=
  s.alu a.view (specShift bitTys a.view) none false (shlOp a.view)
def execShr (a : Args) (s : State) : Host.Outcome State Fault Refusal :=
  s.alu a.view (specShift bitTys a.view) none false (shrOp a.view)
def execShrI (a : ArgsI) (s : State) : Host.Outcome State Fault Refusal :=
  s.alu a.view (specShift bitTys a.view) none false (shrOp a.view)
def execSar (a : Args) (s : State) : Host.Outcome State Fault Refusal :=
  s.alu a.view (specShift [.i32, .i64] a.view) none false (sarOp a.view)
def execSarI (a : ArgsI) (s : State) : Host.Outcome State Fault Refusal :=
  s.alu a.view (specShift [.i32, .i64] a.view) none false (sarOp a.view)
def execRol (a : Args) (s : State) : Host.Outcome State Fault Refusal :=
  s.alu a.view (specShift bitTys a.view) none false (rolOp a.view)
def execRolI (a : ArgsI) (s : State) : Host.Outcome State Fault Refusal :=
  s.alu a.view (specShift bitTys a.view) none false (rolOp a.view)
def execBfx (a : Args) (s : State) : Host.Outcome State Fault Refusal :=
  s.alu a.view (specBfx a.view) none false (bfxOp a.view)
def execBfi (a : Args) (s : State) : Host.Outcome State Fault Refusal :=
  s.alu a.view (specBfi a.view) none false (bfiOp a.view)
def execPopc (a : Args) (s : State) : Host.Outcome State Fault Refusal :=
  s.alu a.view (specCount a.view) none false (popcOp a.view)
def execClz (a : Args) (s : State) : Host.Outcome State Fault Refusal :=
  s.alu a.view (specCount a.view) none false (clzOp a.view)
def execBrev (a : Args) (s : State) : Host.Outcome State Fault Refusal :=
  s.alu a.view (specInt bitTys false false 1 a.view) none false (brevOp a.view)
def execSel (a : Args) (s : State) : Host.Outcome State Fault Refusal :=
  s.alu a.view (specSel a.view) none false selOp
def execCmp (a : Args) (s : State) : Host.Outcome State Fault Refusal :=
  s.alu a.view (specCmp a.view) none false (cmpOp a.view)
def execCmpI (a : ArgsI) (s : State) : Host.Outcome State Fault Refusal :=
  s.alu a.view (specCmp a.view) none false (cmpOp a.view)
def execPlop (a : Args) (s : State) : Host.Outcome State Fault Refusal :=
  s.alu a.view (specPlop a.view) none false (plopOp a.view)
def execMov (a : Args) (s : State) : Host.Outcome State Fault Refusal :=
  s.alu a.view (specMov a.view) none false movOp
def execMovi (a : ArgsI) (s : State) : Host.Outcome State Fault Refusal :=
  s.alu a.view (specMov a.view) none false moviOp
def execLea (a : Args) (s : State) : Host.Outcome State Fault Refusal :=
  s.alu a.view (specLea a.view) none false (leaOp a.view)
def execLeaI (a : ArgsI) (s : State) : Host.Outcome State Fault Refusal :=
  s.alu a.view (specLea a.view) none false leaIOp
def execIcvt (a : Args) (s : State) : Host.Outcome State Fault Refusal :=
  s.alu a.view (specIcvt a.view) none false (icvtOp a.view)

end Sys2Proof.Machine
end

