-- ==== Sys2Proof/Machine/PackedOps.lean ====
section
/-!
DEFINITION. Sys2Proof/Machine/PackedOps.lean: group 010: packed dot products, packing, scaling and the exact accumulator in registers (R140 to R151).
-/
namespace Sys2Proof.Machine

open Sys2Proof

/-- Element i of a packed word, m bits wide (R83). -/
def elemN (x m i : Nat) : Nat := bitsN x (m * i) m

/-- The value of an element of DP8 and DP4 under its kind; z is the zero point of a Q operand (R141). -/
def dpElem (m kind e z : Nat) : Int :=
  if kind = 0 then asSigned e m else if kind = 1 then (e : Int) else (e : Int) - (z % 2 ^ m : Nat)

/-- DP8 (m = 8) and DP4 (m = 4) (R141). -/
def dpOp (v : View) (m : Nat) (a b c : Val) : ARes :=
  let term (i : Nat) : Int :=
    dpElem m (v.o 0 2) (elemN (a.bits.toNat % 2 ^ 32) m i) (bitsN a.bits.toNat 32 8)
      * dpElem m (v.o 2 2) (elemN (b.bits.toNat % 2 ^ 32) m i) (bitsN b.bits.toNat 32 8)
  .val (intRes .i32 v.flg ((List.range (32 / m)).foldl (fun acc i => acc + term i) (intOf .i32 c.bits)))

/-- The exact sum of R142 with its rule for a zero. -/
def fdpSum (terms : List FVal) (mode : Rnd) : FVal :=
  let isZero (neg : Bool) (x : FVal) : Bool := match x with
    | .fin n m _ => m == 0 && n == neg
    | _ => false
  match terms.foldl (fun (acc x : FVal) => acc.add x .rne) (FVal.fin false 0 0) with
  | .fin n m e => if m = 0 then .fin (terms.all (isZero true) || (mode == .rd && !terms.all (isZero false))) 0 0 else .fin n m e
  | x => x

/-- FDP8 and FDP4: n elements of m bits in the formats fa and fb (R142). -/
def fdpOp (v : View) (m : Nat) (fa fb : Fmt) (a b c : Val) : ARes :=
  let term (i : Nat) : FVal :=
    (valueOf fa (elemN (a.bits.toNat % 2 ^ 32) m i) v.flg).mul (valueOf fb (elemN (b.bits.toNat % 2 ^ 32) m i) v.flg)
  .val (BitVec.ofNat 64 (roundMode fmtF32
    (fdpSum (fval .f32 v.flg c.bits.toNat :: (List.range (32 / m)).map term) v.rnd) v.rnd v.flg false))

def fdp8Op (v : View) : Val → Val → Val → ARes :=
  fdpOp v 8 (if v.opt.getLsbD 0 then fmtF8E5 else fmtF8E4) (if v.opt.getLsbD 1 then fmtF8E5 else fmtF8E4)
def fdp4Op (v : View) : Val → Val → Val → ARes := fdpOp v 4 fmtF4 fmtF4

/-- Whether a type is an integer type. -/
def intTy (ty : Ty) : Bool := intTys.contains ty

/-- One converted element of PACK (R143). -/
def packElem (v : View) (x : Val) : Nat :=
  if intTy v.ty then lowBits (if v.flg then satInt (intOf .i32 x.bits) v.ty else wrapInt (intOf .i32 x.bits) v.ty) v.ty.width
  else
    let half := v.ty == .f16 || v.ty == .bf16
    roundMode v.ty.fmt (fval .f32 (v.flg && half) x.bits.toNat) v.rnd (v.flg && half) (v.flg && !half)

/-- PACK (R143). -/
def packOp (v : View) (a b c : Val) : ARes :=
  let w := v.ty.width
  let p := v.o 0 2
  let x := c.bits.toNat % 2 ^ 32
  let old := bitsN x (2 * p * w) (2 * w)
  .val (BitVec.ofNat 64 (x - old * 2 ^ (2 * p * w) + (packElem v a % 2 ^ w + packElem v b % 2 ^ w * 2 ^ w) * 2 ^ (2 * p * w)))

/-- UNPK (R144). -/
def unpkOp (v : View) (a _b _c : Val) : ARes :=
  let e := elemN (a.bits.toNat % 2 ^ 32) v.ty.width (v.o 0 3)
  .val (if intTy v.ty then placeInt (intOf v.ty (BitVec.ofNat 64 e)) v.ty
        else BitVec.ofNat 64 (roundRne fmtF32 (valueOf v.ty.fmt e false)))

/-- XSCL (R145). -/
def xsclOp (v : View) (a b _c : Val) : ARes :=
  let e := elemN (b.bits.toNat % 2 ^ 32) 8 (v.o 0 2)
  .val (BitVec.ofNat 64 (if e = 255 then fmtF32.cnan
    else roundMode fmtF32 ((fval .f32 v.flg a.bits.toNat).scale ((e : Int) - 127)) v.rnd v.flg false))

-- ---------------------------------------------------------------------------------------------
-- XA groups (R146)

/-- The token of the first poisoned register of a group. -/
def groupPoison (ws : List (W32 × Bool)) : Option Nat := (ws.find? (·.2)).map fun w => tokenOf w.1

/-- An XA group operand of a lane. -/
def Run.xaGroup (r : Run) (l : Nat) (x : Src) : List (W32 × Bool) := r.group l x.idx.toNat 12

/-- A lane of XACC (R147). -/
def State.xaccLane (s : State) (h : Here) (v : View) (l : Nat) : LaneRes :=
  let ga := h.r.xaGroup l v.sa
  let b := s.readB h.c h.f h.r l v false none
  let x := (xaOfWords ga).add (fval v.ty false b.bits.toNat)
  writeGroup v.dst (wordsOfXa x) ((groupPoison ga).orElse fun _ => if b.psn then some b.tok else none)

/-- A lane of XADD (R148). -/
def xaddLane (h : Here) (v : View) (l : Nat) : LaneRes :=
  let ga := h.r.xaGroup l v.sa
  let gb := match v.sb with
    | .src b => h.r.xaGroup l b
    | .imm _ => []
  writeGroup v.dst (wordsOfXa ((xaOfWords ga).merge (xaOfWords gb))) ((groupPoison ga).orElse fun _ => groupPoison gb)

/-- A lane of XRND (R149). -/
def xrndLane (h : Here) (v : View) (l : Nat) : LaneRes :=
  let ga := h.r.xaGroup l v.sa
  writeDst v.dst false (BitVec.ofNat 64 ((xaOfWords ga).round v.ty.fmt)) (groupPoison ga)

/-- A lane of XCLR (R150). -/
def xclrLane (v : View) : LaneRes := writeGroup v.dst (wordsOfXa XA.zero) none

/-- An instruction whose lanes each have their own result. -/
def State.lanewise (s : State) (v : View) (o : OpSpec) (f : Here → Nat → LaneRes) : Host.Outcome State Fault Refusal :=
  s.flightInstr v o {} fun h g s => .ok s (laneOuts false g (f h))

-- ---------------------------------------------------------------------------------------------
-- The meanings

def execDp8 (a : Args) (s : State) : Host.Outcome State Fault Refusal :=
  s.alu a.view (specDp a.view) none false (dpOp a.view 8)
def execDp4 (a : Args) (s : State) : Host.Outcome State Fault Refusal :=
  s.alu a.view (specDp a.view) none false (dpOp a.view 4)
def execFdp8 (a : Args) (s : State) : Host.Outcome State Fault Refusal :=
  s.alu a.view (specFdp 2 a.view) none false (fdp8Op a.view)
def execFdp4 (a : Args) (s : State) : Host.Outcome State Fault Refusal :=
  s.alu a.view (specFdp 0 a.view) none false (fdp4Op a.view)
def execPack (a : Args) (s : State) : Host.Outcome State Fault Refusal :=
  s.alu a.view (specPack a.view) none false (packOp a.view)
def execUnpk (a : Args) (s : State) : Host.Outcome State Fault Refusal :=
  s.alu a.view (specUnpk a.view) none false (unpkOp a.view)
def execXscl (a : Args) (s : State) : Host.Outcome State Fault Refusal :=
  s.alu a.view (specXscl a.view) none false (xsclOp a.view)
def execXacc (a : Args) (s : State) : Host.Outcome State Fault Refusal :=
  s.lanewise a.view (specXacc a.view) fun h l => s.xaccLane h a.view l
def execXadd (a : Args) (s : State) : Host.Outcome State Fault Refusal :=
  s.lanewise a.view (specXadd a.view) fun h l => xaddLane h a.view l
def execXrnd (a : Args) (s : State) : Host.Outcome State Fault Refusal :=
  s.lanewise a.view (specXrnd a.view) fun h l => xrndLane h a.view l
def execXclr (a : Args) (s : State) : Host.Outcome State Fault Refusal :=
  s.lanewise a.view (specXclr a.view) fun _ _ => xclrLane a.view

end Sys2Proof.Machine
end

