-- ==== Sys2Proof/Machine/PressOps.lean ====
section
/-!
DEFINITION. Sys2Proof/Machine/PressOps.lean: the press: ownership and pair mode (R245 to R247), bricks (R248, R249), the checks of R252, the press instructions (R253 to
R259) and the events that perform them.
-/
namespace Sys2Proof.Machine

open Sys2Proof

-- ---------------------------------------------------------------------------------------------
-- Ownership

/-- A press that a flight or a claim could take: it has no owner and is not slaved. -/
def Press.free (p : Press) : Bool := p.owner.isNone && !p.slaved

/-- The threads of a flight that MXACQ holds go on. -/
def Flight.passAcq (f : Flight) : Flight :=
  f.threads.entries.foldl (fun (f : Flight) t => match t.2.hold with
    | .mxacq _ p => f.pass t.1 p
    | _ => f) f

/-- The press of a core goes to a flight, its banks cleared (R245). In pair mode the odd press is claimed, and granted at once when it is free and
unclaimed (R246). Answers whether the acquisition is complete. -/
def State.grantPress (s : State) (c fid : Nat) (pair : Bool) : State × Bool :=
  let p := (s.core c).press
  let p := { p with owner := some fid, z0 := Bank.cleared, z1 := Bank.cleared, pair := false, closing := false, acquiring := false
                    waiting := p.waiting.filter fun w => w.1 != fid, asked := p.asked.filter fun w => w.1 != fid }
  if !pair then (s.setPress c p, true)
  else
    let q := (s.core (c + 1)).press
    if q.free && !q.claim then ((s.setPress c { p with pair := true }).setPress (c + 1) { q with slaved := true }, true)
    else ((s.setPress c { p with acquiring := true }).setPress (c + 1) { q with claim := true }, false)

/-- A free press without a claim goes to the head of its waiting queue. -/
def State.servePress (s : State) (c : Nat) : State :=
  let p := (s.core c).press
  if !p.free || p.claim then s
  else
    match p.waiting.head? with
    | none => s
    | some (fid, pair) =>
      match s.grantPress c fid pair with
      | (s, false) => s
      | (s, true) => match s.flight? c fid with
        | some f => s.setFlight c fid f.passAcq
        | none => s

/-- A free odd press goes to the pair claim on it (R246). -/
def State.serveClaim (s : State) (c : Nat) : State :=
  let q := (s.core c).press
  if c % 2 = 0 || !q.free || !q.claim then s
  else
    let p := (s.core (c - 1)).press
    match p.owner with
    | none => s
    | some fid =>
      let s := (s.setPress c { q with claim := false, slaved := true }).setPress (c - 1) { p with pair := true, acquiring := false }
      match s.flight? (c - 1) fid with
      | some f => s.setFlight (c - 1) fid f.passAcq
      | none => s

/-- The block whose flight owns the press of a core. -/
def State.pressBlock (s : State) (c : Nat) : Option (Nat × Nat × Block) :=
  match (s.core c).press.owner with
  | none => none
  | some fid => s.cores.entries.findSome? fun k => (k.2.blocks.entries.find? fun b => b.2.flights.contains (c, fid)).map fun b => (k.1, b.1, b.2)

/-- A press that is being given up is released when it can be, and with it the scratchpad that waited for it (R218, R247). -/
def State.endPress (s : State) (c : Nat) : State :=
  let home := s.pressBlock c
  let s := s.settlePress c
  match home with
  | some (h, key, _) => if (s.core c).press.owner.isNone then s.releaseSpad h key else s
  | none => s

-- ---------------------------------------------------------------------------------------------
-- Bricks

/-- Whether a press format is floating, and whether it is an MX format (R250). -/
def pressFlt (f : Nat) : Bool := f ≤ 4
def pressMx (f : Nat) : Bool := 2 ≤ f && f ≤ 4
def pressFmt (f : Nat) : Fmt :=
  match f with
  | 0 => fmtBF16
  | 1 => fmtF16
  | 2 => fmtF8E4
  | 3 => fmtF8E5
  | _ => fmtF4

/-- The bytes of a brick (R248). -/
def brickBytes (f : Nat) : Nat := 64 * pressWidth f + 96

/-- One element of a brick row: its value for a float format, its integer otherwise, and its NZ bit. -/
structure PElem where
  x  : FVal
  n  : Int
  nz : Bool
deriving DecidableEq, Repr

/-- One row of a brick: its 32 elements, its scale byte, and whether the brick is poisoned. -/
structure BRow where
  es    : List PElem
  scale : Nat
  psn   : Bool
deriving DecidableEq, Repr

/-- Row r of the brick at an offset (R248, R80, R81, R254). -/
def Block.brickRow (b : Block) (f base r : Nat) : BRow :=
  let w := pressWidth f
  let row := b.spadNum (base + 4 * w * r) (4 * w)
  let nz := b.spadNum (base + 64 * w + 4 * r) 4
  let sc := b.spadNum (base + 64 * w + 64 + r) 1
  let zp := b.spadNum (base + 64 * w + 80 + r) 1
  let elem (k : Nat) : PElem :=
    let e := bitsN row (w * k) w
    { x := if pressMx f && sc == 255 then .nan else if pressFlt f then valueOf (pressFmt f) e false else .fin false 0 0
      n := if pressFlt f then 0 else dpElem w (if f = 6 ∨ f = 8 then 2 else 0) e zp
      nz := nz.testBit k }
  { es := (List.range 32).map elem, scale := if pressMx f then sc else 127, psn := b.spadPsn base (brickBytes f) }

/-- One product of MMA and MMAS (R254, R91). -/
def pressProd (sparse : Bool) (sf : Int) (a b : PElem) : FVal :=
  if sparse && (!a.nz || !b.nz) then .fin false 0 0
  else if a.x.isZero || b.x.isZero then .fin false 0 0
  else (a.x.mul b.x).scale sf

/-- The same for integer formats. -/
def pressInt (sparse : Bool) (a b : PElem) : Int := if sparse && (!a.nz || !b.nz) then 0 else a.n * b.n

/-- One cell after one chunk. The bits of a poisoned cell are unspecified: they are `free` (R255, assumption 19, DEDUCED). -/
def cellStep (sparse : Bool) (ty : BankTy) (free : W32) (z : SpWord) (a b : BRow) : SpWord :=
  if z.psn || a.psn || b.psn then ⟨free, true⟩
  else
    match ty with
    | .f32 =>
      let sf : Int := (a.scale : Int) + b.scale - 254
      let sum := chunkSum ((a.es.zip b.es).map fun e => pressProd sparse sf e.1 e.2)
      ⟨BitVec.ofNat 32 (roundRne fmtF32 ((valueOf fmtF32 z.val.toNat false).add sum .rne)), false⟩
    | .i32 =>
      let sum := (a.es.zip b.es).foldl (fun (n : Int) e => n + pressInt sparse e.1 e.2) 0
      ⟨BitVec.ofInt 32 (z.val.toInt + sum), false⟩

/-- The cells of rows by columns, keeping those that are not a plain zero. -/
def cellsOf (cols : Nat) (f : Nat → Nat → SpWord) : KMap SpWord :=
  .ofList ((List.range 192).flatMap fun i => (List.range cols).filterMap fun j =>
    let z := f i j
    if !z.psn && z.val == 0 then none else some (384 * i + j, z))

def Bank.cell (z : Bank) (i j : Nat) : SpWord := (z.cells.get? (384 * i + j)).getD ⟨0, false⟩

/-- One chunk of an MMA over a bank (R249, R254). `seed` names the free bits of the cells that are poisoned. -/
def Bank.mmaChunk (seed : Nat) (z : Bank) (k : Block) (sparse : Bool) (cols a b fa fb c : Nat) : Bank :=
  let per := cols / 16
  let arow := (List.range 192).map fun i => k.brickRow fa (a + (12 * c + i / 16) * brickBytes fa) (i % 16)
  let brow := (List.range cols).map fun j => k.brickRow fb (b + (per * c + j / 16) * brickBytes fb) (j % 16)
  { z with cells := cellsOf cols fun i j =>
      match arow[i]?, brow[j]? with
      | some x, some y => cellStep sparse z.ty (Config.freeCell seed (384 * i + j)) (z.cell i j) x y
      | _, _ => z.cell i j }

/-- MMA and MMAS over n chunks, in increasing K (R253, R254). -/
def Bank.mma (seed : Nat) (z : Bank) (k : Block) (sparse : Bool) (cols a b fa fb n : Nat) : Bank :=
  (List.range n).foldl (fun z c => z.mmaChunk seed k sparse cols a b fa fb c) z

/-- MXLDZ (R256): the bands' cells take words of scratchpad; the bits of a cell loaded from a poisoned word are free (R255). -/
def Bank.load (seed : Nat) (z : Bank) (k : Block) (cols base pitch first count : Nat) : Bank :=
  let row0 := 16 * first
  { z with cells := cellsOf cols fun i j =>
      if row0 ≤ i ∧ i < row0 + 16 * count then
        let w := k.word ((base + (i - row0) * pitch + 4 * j) / 4)
        if w.psn then ⟨Config.freeCell seed (384 * i + j), true⟩ else w
      else z.cell i j }

/-- The output size and pattern of MXSTZ (R257). -/
def outBytes (o : Nat) : Nat := match o with
  | 0 => 4
  | 1 => 2
  | _ => 1
def outPat (o : Nat) (sat : Bool) (v : W32) : Nat :=
  match o with
  | 0 => v.toNat
  | 1 => roundMode fmtBF16 (valueOf fmtF32 v.toNat false) .rne false sat
  | 2 => roundMode fmtF8E4 (valueOf fmtF32 v.toNat false) .rne false sat
  | _ => roundMode fmtF8E5 (valueOf fmtF32 v.toNat false) .rne false sat

/-- MXSTZ in its scratchpad form (R257). -/
def Bank.store (z : Bank) (k : Block) (cols base pitch first count o : Nat) (sat : Bool) : Block :=
  let ob := outBytes o
  let per := 4 / ob
  (List.range (16 * count)).foldl (fun (k : Block) r =>
    (List.range (cols * ob / 4)).foldl (fun (k : Block) w =>
      let cs := (List.range per).map fun t => z.cell (16 * first + r) (w * per + t)
      let place := base + r * pitch + 4 * w
      if cs.any (·.psn) then k.spadPut place 4 0x7FFFFFF0 true
      else k.spadPut place 4 (cs.foldr (fun c acc => outPat o sat c.val + 2 ^ (8 * ob) * acc) 0) false) k) k

-- ---------------------------------------------------------------------------------------------
-- Issue

/-- The type of a bank after the instructions in the queue (R252). -/
def Press.bankTy (p : Press) (z : Nat) : BankTy :=
  p.queue.foldl (fun t o => match o with
    | .zero b ty => if b = z then ty else t
    | _ => t) (if z = 0 then p.z0.ty else p.z1.ty)

def bankTyOf (ty : Ty) : BankTy := if ty = .i32 then .i32 else .f32

/-- The columns of a press: 384 in pair mode. -/
def Press.cols (p : Press) : Nat := if p.pair then 384 else 192

/-- The checks of R252, steps 4 to 8, for an instruction that joins the queue: the cause of the trap, if any. -/
def pressCheck (p : Press) (b : Block) (o : PressOp) (ty : BankTy) : Option Nat :=
  let cols := p.cols
  let band (base pitch first count eb : Nat) (bank : Nat) : Option Nat :=
    if count = 0 ∨ first + count > 12 then some tFORBIDDEN
    else if base % 4 ≠ 0 ∨ pitch % 4 ≠ 0 then some tMISALIGNED
    else if pitch < cols * eb then some tFORBIDDEN
    else if !b.holds (base + (16 * count - 1) * pitch) (cols * eb) then some tFORBIDDEN
    else if p.bankTy bank ≠ ty then some tFORBIDDEN
    else none
  match o with
  | .mma _ bank a bb fa fb n =>
    if n = 0 ∨ n > 256 then some tFORBIDDEN
    else if a % 32 ≠ 0 ∨ bb % 32 ≠ 0 then some tMISALIGNED
    else if !b.holds a (12 * n * brickBytes fa) || !b.holds bb (cols / 16 * n * brickBytes fb) then some tFORBIDDEN
    else if p.bankTy bank ≠ ty then some tFORBIDDEN
    else none
  | .zero _ _ => none
  | .ldz bank base pitch first count => band base pitch first count 4 bank
  | .stz bank base pitch first count ofmt _ => band base pitch first count (outBytes ofmt) bank
  | .stzReg bank _ col0 row0 _ =>
    if col0 % 8 ≠ 0 ∨ col0 ≥ cols ∨ row0 % 32 ≠ 0 ∨ row0 > 160 then some tFORBIDDEN
    else if p.bankTy bank ≠ ty then some tFORBIDDEN
    else none

/-- Whether a flight has all its 32 threads live and in exec (R200). -/
def wholeFlight (h : Here) (g : W32) : Bool := g == BitVec.allOnes 32 && h.f.liveMask == BitVec.allOnes 32

/-- A press instruction that joins the queue (R252, R253). -/
def State.pressIssue (s : State) (v : View) (o : OpSpec) (op : (Src → Nat) → Option PressOp) : Host.Outcome State Fault Refusal :=
  s.flightInstr v o {} fun h g s =>
    if !wholeFlight h g then .ok s (trapLanes g tPARTIAL 0)
    else
      let p := (s.core h.c).press
      if p.owner ≠ some h.fid then .ok s (trapLanes g tFORBIDDEN 0)
      else
        let val (x : Src) : Nat := (s.readSrc h.c h.f h.r ((lanesOf g).headD 0) x false).lo.toNat
        match op val, s.blockOf h.f with
        | some q, some (_, b) =>
          match pressCheck p b q (bankTyOf v.ty) with
          | some code => .ok s (trapLanes g code 0)
          | none =>
            if p.queue.length ≥ 8 then .wait .held
            else
              let s := s.setPress h.c { p with queue := p.queue ++ [q] }
              let s := match q with
                | .stzReg _ dst _ _ _ => match s.flight? h.c h.fid with
                  | some f => s.setFlight h.c h.fid ((List.range 32).foldl (fun (f : Flight) l => f.pendV l dst 8 true) f)
                  | none => s
                | _ => s
              .ok s (plainLanes g)
        | _, _ => .ok s (trapLanes g tFORBIDDEN 0)

/-- Whether a flight still waits to issue the MXACQ for which the queue had no place: all its live threads stand at it (R198, R245). -/
def State.stillAsks (s : State) (c : Nat) (w : Nat × W57) : Bool :=
  match s.flight? c w.1 with
  | some f => f.liveMask != 0 && f.threads.entries.all fun t => !t.2.live || t.2.pc == w.2
  | none => false

/-- Whether an older flight waits for a place in the press's queue (R190, R245). -/
def State.olderAsks (s : State) (h : Here) : Bool :=
  (s.core h.c).press.asked.any fun w => w.1 != h.fid && s.stillAsks h.c w && match s.flight? h.c w.1 with
    | some f => decide (f.age < h.f.age)
    | none => false

/-- MXACQ (R245, R246, R252). -/
def execMxacq (a : Args) (s : State) : Host.Outcome State Fault Refusal :=
  let v := a.view
  let pair := v.o 0 1 == 1
  s.flightInstr v (specMxacq v) {} fun h g s =>
    let p := (s.core h.c).press
    if !wholeFlight h g then .ok s (trapLanes g tPARTIAL 0)
    else if pair && (h.c % 2 == 1 || !s.corePresent (h.c + 1)) then .ok s (trapLanes g tFORBIDDEN 0)
    else if p.owner = some h.fid then
      if pair && !p.pair then .ok s (trapLanes g tFORBIDDEN 0) else .ok s (plainLanes g)
    else if s.olderAsks h then .wait (.pressPlace h.c h.fid h.r.start)
    else if p.free && !p.claim && p.waiting.isEmpty then
      match s.grantPress h.c h.fid pair with
      | (s, true) => .ok s (plainLanes g)
      | (s, false) => .ok s { lanes := (lanesOf g).map fun l => LaneOut.plain l (.wait (.mxacq pair)) }
    else if p.waiting.length ≥ 16 then .wait (.pressPlace h.c h.fid h.r.start)
    else
      .ok (s.setPress h.c { p with waiting := p.waiting ++ [(h.fid, pair)], asked := p.asked.filter fun w => w.1 != h.fid })
        { lanes := (lanesOf g).map fun l => LaneOut.plain l (.wait (.mxacq pair)) }

/-- MXWAIT and MXREL hold the flight until its queue is empty and its landings are written (R259). -/
def State.pressDrain (s : State) (v : View) (rel : Bool) : Host.Outcome State Fault Refusal :=
  s.flightInstr v (specWide0 v) {} fun h g s =>
    let p := (s.core h.c).press
    if !wholeFlight h g then .ok s (trapLanes g tPARTIAL 0)
    else if p.owner ≠ some h.fid then .ok s (trapLanes g tFORBIDDEN 0)
    else if p.queue ≠ [] ∨ p.lands ≠ [] then .wait .held
    else .ok (if rel then (s.setPress h.c { p with closing := true }).endPress h.c else s) (plainLanes g)

def execMxrel (a : Args) (s : State) : Host.Outcome State Fault Refusal := s.pressDrain a.view true
def execMxwait (a : Args) (s : State) : Host.Outcome State Fault Refusal := s.pressDrain a.view false

/-- The operands of MMA and MMAS (R251). -/
def mmaOp (v : View) (sparse : Bool) (val : Src → Nat) : Option PressOp :=
  some (.mma sparse v.z.toNat (val v.sa) (val v.sbSrc) (v.o 0 4) (v.o 4 4) (val v.sc))
def execMma (a : Args) (s : State) : Host.Outcome State Fault Refusal := s.pressIssue a.view (specMma a.view) (mmaOp a.view false)
def execMmas (a : Args) (s : State) : Host.Outcome State Fault Refusal := s.pressIssue a.view (specMma a.view) (mmaOp a.view true)

/-- MXZERO (R256). -/
def execMxzero (a : Args) (s : State) : Host.Outcome State Fault Refusal :=
  s.pressIssue a.view (specMxzero a.view) fun _ => some (.zero a.view.z.toNat (bankTyOf a.view.ty))

/-- A band select (R257): bits above [7:0] make it invalid, which a count of zero stands for. -/
def bandOf (x : Nat) : Nat × Nat := if x ≥ 256 then (0, 0) else (x % 16, x / 16)

/-- MXLDZ (R256). -/
def execMxldz (a : Args) (s : State) : Host.Outcome State Fault Refusal :=
  let v := a.view
  s.pressIssue v (specMxldz v) fun val => some (.ldz v.z.toNat (val v.sa) (val v.sbSrc) (bandOf (val v.sc)).1 (bandOf (val v.sc)).2)

/-- MXSTZ, scratchpad form (R257). -/
def execMxstz (a : Args) (s : State) : Host.Outcome State Fault Refusal :=
  let v := a.view
  s.pressIssue v (specMxstz v) fun val =>
    some (.stz v.z.toNat (val v.sa) (val v.sbSrc) (bandOf (val v.sc)).1 (bandOf (val v.sc)).2 (v.o 0 3) (v.o 3 1 == 1))

/-- MXSTZ, register form (R258). -/
def execMxstzReg (a : Args) (s : State) : Host.Outcome State Fault Refusal :=
  let v := a.view
  s.pressIssue v (specMxstzReg v) fun val => some (.stzReg v.z.toNat v.dst.idx.toNat (val v.sa) (val v.sbSrc) v.dst.n)

-- ---------------------------------------------------------------------------------------------
-- Events

/-- PRESS_GRANT (R245). -/
def execPressGrant (core : Nat) (s : State) : Host.Outcome State Fault Refusal := .next (s.servePress core)

/-- PAIR_CLAIM_GRANT (R246). -/
def execPairClaimGrant (core : Nat) (s : State) : Host.Outcome State Fault Refusal := .next (s.serveClaim core)

/-- One bank of a press. -/
def Press.bank (p : Press) (z : Nat) : Bank := if z = 0 then p.z0 else p.z1
def Press.setBank (p : Press) (z : Nat) (b : Bank) : Press := if z = 0 then { p with z0 := b } else { p with z1 := b }

/-- The head of the press instruction queue is performed as one step (R253, assumption 21, DEDUCED). -/
def State.performPress (s : State) (c : Nat) : State :=
  let p := (s.core c).press
  match p.queue, s.pressBlock c, p.owner with
  | q :: rest, some (home, key, b), some fid =>
    let p := { p with queue := rest }
    let seed := s.free
    let s := { s with free := seed + 1 }
    let s := match q with
      | .mma sparse z a bb fa fb n => s.setPress c (p.setBank z ((p.bank z).mma seed b sparse p.cols a bb fa fb n))
      | .zero z ty => s.setPress c (p.setBank z ⟨ty, .empty⟩)
      | .ldz z base pitch first count => s.setPress c (p.setBank z ((p.bank z).load seed b p.cols base pitch first count))
      | .stz z base pitch first count o sat =>
        (s.setPress c p).setBlock home key ((p.bank z).store b p.cols base pitch first count o sat)
      | .stzReg z dst col0 row0 sup =>
        let vals : List (Nat × List (W32 × Bool)) := (List.range 32).map fun l => (l, (List.range 8).map fun j =>
          let x := (p.bank z).cell (row0 + l) (col0 + j)
          (if x.psn then poisonBits 0 else x.val, x.psn))
        s.setPress c { p with lands := p.lands ++ [PressLand.mk fid dst sup vals] }
    s.endPress c
  | _, _, _ => s

/-- PRESS_INSTR_PERFORM (R253). -/
def execPressInstrPerform (core : Nat) (s : State) : Host.Outcome State Fault Refusal := .next (s.performPress core)

/-- The oldest register landing of a press is written (R258) and its pending bits clear; an exited thread's part is discarded (R157), and so is one that ~ suppresses (R61). -/
def State.landPress (s : State) (c : Nat) : State :=
  let p := (s.core c).press
  match p.lands with
  | [] => s
  | x :: rest =>
    let s := s.setPress c { p with lands := rest }
    let s := match s.flight? c x.flight with
      | none => s
      | some f => s.setFlight c x.flight (x.vals.foldl (fun (f : Flight) (r : Nat × List (W32 × Bool)) =>
          f.landRegs r.1 x.dst 8 (x.sup || !(f.thread r.1).live) r.2) f).gcToks
    s.endPress c

/-- PRESS_REG_LANDING (R258). -/
def execPressRegLanding (core : Nat) (s : State) : Host.Outcome State Fault Refusal := .next (s.landPress core)

end Sys2Proof.Machine
end

