-- ==== Sys2Proof/Machine/Engine.lean ====
section
/-!
DEFINITION. Sys2Proof/Machine/Engine.lean: forking, joining and the state of a fork (R264 to R268), and the instructions of the racking processor that are not
transfers: scalar instructions and branches (R269 to R272), ELD and EST (R273), walkers (R274 to R277), and synchronisation (R290 to R293).
-/
namespace Sys2Proof.Machine

open Sys2Proof

-- ---------------------------------------------------------------------------------------------
-- Forks

/-- A handle (R264). -/
def forkHandle (e gen : Nat) : W64 := BitVec.ofNat 64 (e + gen % 2 ^ 32 * 8)

/-- The fork that a handle names, for a flight of a block: its number, or nothing where it is forged or foreign (R264, R267). -/
def State.forkOf (s : State) (h : Here) (x : W64) : Option Nat :=
  let gen := bitsN x.toNat 3 32
  match s.blockOf h.f with
  | some (home, _) =>
    if x.toNat / 2 ^ 35 ≠ 0 ∨ (s.core h.c).nextFork ≤ gen then none
    else if (s.core h.c).forks.get? gen = some (home, h.f.block) then some gen else none
  | none => none

/-- Whether a handle is current (R264). -/
def State.forkLive (s : State) (c : Nat) (x : W64) : Bool :=
  let g := s.eng c (x.toNat % 8)
  g.active && g.gen == bitsN x.toNat 3 32

/-- The lowest-numbered engine thread of a core that a fork can take (R266). -/
def State.freeEngine (s : State) (c : Nat) : Option Nat := (List.range 8).find? fun e => !(s.eng c e).active

/-- RFORK (R266). -/
def execRfork (a : Args) (s : State) : Host.Outcome State Fault Refusal :=
  let v := a.view
  s.flightInstr v (specRfork v) {} fun h g s =>
    if !wholeFlight h g then .ok s (trapLanes g tPARTIAL 0)
    else
      let x := (s.readSrc h.c h.f h.r ((lanesOf g).headD 0) v.sa true).bits
      if x.toNat % 4 ≠ 0 then .ok s (trapLanes g tMISALIGNED 1)
      else if !canonical x then .ok s (trapLanes g tFORBIDDEN 1)
      else
        match s.freeEngine h.c, s.blockOf h.f with
        | some n, some (home, _) =>
          (s.release h.c h.f.ctx 2).bind fun s _ =>
            let k := s.core h.c
            let gen := k.nextFork
            let args : KMap W64 := .ofList ((List.range 4).map fun j => (j, h.r.sreg (v.sbSrc.idx.toNat + j)))
            let s := s.setCore h.c { k with nextFork := gen + 1, forks := k.forks.set gen (home, h.f.block) }
            let s := s.setEng h.c n { Eng.reset with
              run := .running, gen := gen, pc := x.setWidth 57, e := args, ctx := h.f.ctx, launch := h.f.launch, home := home
              block := h.f.block, flight := h.f.idx, sysLaunch := ((s.launch? h.f.launch).map (·.id)).getD 0, pgt := s.tableOf h.f.launch }
            .ok s (laneOuts true g fun _ => writeDst v.dst true (forkHandle n gen) none)
        | _, _ => .wait .held

/-- RJOIN in one lane (R267). -/
def State.joinLane (s : State) (h : Here) (v : View) (l : Nat) : State × LaneOut :=
  let x := s.readSrc h.c h.f h.r l v.sa true
  if x.psn then (s, LaneOut.stop l tPOISON 1 (.tok x.tok))
  else
    match s.forkOf h x.bits with
    | none => (s, LaneOut.stop l tFORBIDDEN 1 .none)
    | some gen =>
      if s.forkLive h.c x.bits then (s, LaneOut.plain l (.wait (.rjoin gen)))
      else (s.acquireBy h.c h.f 4, LaneOut.plain l .next)

/-- RJOIN (R267). -/
def execRjoin (a : Args) (s : State) : Host.Outcome State Fault Refusal :=
  let v := a.view
  s.flightInstr v (specRjoin v) {} fun h g s =>
    (s.overLanes () (fun s _ l =>
      let r := s.joinLane h v l
      .ok r.1 ((), r.2)) (lanesOf g)).bind fun s os => .ok s { lanes := os }

/-- The state word of a fork (R268). -/
def State.forkWord (s : State) (c : Nat) (x : W64) : W64 :=
  let e := x.toNat % 8
  let g := s.eng c e
  let stand : Nat :=
    if g.gen ≠ bitsN x.toNat 3 32 then 0
    else
      match g.run with
      | .idle => 0
      | .running => 1
      | .heldCb _ => 1
      | .paused cause => 2 + cause * 2 ^ 8
      | .ended false _ => 0
      | .ended true cause => 3 + cause * 2 ^ 8
  BitVec.ofNat 64 (stand + e * 2 ^ 16)

/-- RSTAT (R268). -/
def execRstat (a : Args) (s : State) : Host.Outcome State Fault Refusal :=
  let v := a.view
  let o := specRstat v
  s.flightInstr v o {} fun h g s =>
    .ok s (laneOuts (o.isScalar v) g fun l =>
      let x := s.readSrc h.c h.f h.r l v.sa true
      if x.psn then .trap tPOISON 1 (.tok x.tok)
      else if (s.forkOf h x.bits).isNone then .trap tFORBIDDEN 1 .none
      else writeDst v.dst true (s.forkWord h.c x.bits) none)

-- ---------------------------------------------------------------------------------------------
-- Engine operands

/-- The engine system registers (R269). -/
def State.engSys (s : State) (c e : Nat) (g : Eng) (i : Nat) : W64 :=
  match i with
  | 0 => BitVec.ofNat 64 e
  | 1 => forkHandle e g.gen
  | 2 => BitVec.ofNat 64 g.flight
  | 3 => BitVec.ofNat 64 (g.block % 2 ^ 32)
  | 4 => BitVec.ofNat 64 (g.sysLaunch % 2 ^ 32)
  | 5 => BitVec.ofNat 64 c
  | 7 => BitVec.ofNat 64 s.clock
  | _ => 0

/-- An e register. -/
def Eng.reg (g : Eng) (i : Nat) : W64 := g.e.getD i 0

/-- A source of an engine instruction (R48, R269). -/
def State.engSrc (s : State) (c e : Nat) (g : Eng) (x : Src) : W64 :=
  match x.cls with
  | .v => g.reg x.idx.toNat
  | .sys => s.engSys c e g x.idx.toNat
  | .imm => x.idx.signExtend 64
  | _ => 0

/-- SB or the extended imm32 (R269). -/
def State.engB (s : State) (c e : Nat) (g : Eng) (v : View) : W64 :=
  match v.sb with
  | .src b => s.engSrc c e g b
  | .imm x => x.signExtend 64

/-- An instruction of an engine thread. A flight that executes one traps ILLEGAL (R49), and so does an illegal encoding of one. -/
def State.engInstr (s : State) (v : View) (o : OpSpec) (body : Nat → Nat → Eng → State) : Host.Outcome State Fault Refusal :=
  if !s.cur.engine then s.flightInstr v o {} fun _ _ s => .ok s { lanes := [] }
  else
    let c := s.cur.core
    let e := s.cur.fid
    if !(s.core c).engs.has e then .fault .noAgent
    else if !o.legal v then .next (s.engFault c e { cause := eILLEGAL })
    else .next (body c e (s.eng c e))

/-- The thread goes on at the next instruction. -/
def Eng.advance (g : Eng) : Eng := { g with pc := g.pc + 12 }

/-- A result is written to an e register. -/
def Eng.put (g : Eng) (d : Dst) (x : W64) : Eng := { g with e := g.e.set d.idx.toNat x }

-- ---------------------------------------------------------------------------------------------
-- Scalar instructions

/-- A scalar instruction (R271). -/
def State.engAlu (s : State) (v : View) (o : OpSpec) (f : W64 → W64 → W64) : Host.Outcome State Fault Refusal :=
  s.engInstr v o fun c e g => s.setEng c e (g.put v.dst (f (s.engSrc c e g v.sa) (s.engB c e g v))).advance

def execEadd (a : Args) (s : State) : Host.Outcome State Fault Refusal := s.engAlu a.view (specEalu a.view) fun x y => x + y
def execEaddI (a : ArgsI) (s : State) : Host.Outcome State Fault Refusal := s.engAlu a.view (specEalu a.view) fun x y => x + y
def execEsub (a : Args) (s : State) : Host.Outcome State Fault Refusal := s.engAlu a.view (specEalu a.view) fun x y => x - y
def execEsubI (a : ArgsI) (s : State) : Host.Outcome State Fault Refusal := s.engAlu a.view (specEalu a.view) fun x y => x - y
def execEmul (a : Args) (s : State) : Host.Outcome State Fault Refusal := s.engAlu a.view (specEalu a.view) fun x y => x * y
def execEand (a : Args) (s : State) : Host.Outcome State Fault Refusal := s.engAlu a.view (specEalu a.view) fun x y => x &&& y
def execEandI (a : ArgsI) (s : State) : Host.Outcome State Fault Refusal := s.engAlu a.view (specEalu a.view) fun x y => x &&& y
def execEor (a : Args) (s : State) : Host.Outcome State Fault Refusal := s.engAlu a.view (specEalu a.view) fun x y => x ||| y
def execEorI (a : ArgsI) (s : State) : Host.Outcome State Fault Refusal := s.engAlu a.view (specEalu a.view) fun x y => x ||| y
def execExor (a : Args) (s : State) : Host.Outcome State Fault Refusal := s.engAlu a.view (specEalu a.view) fun x y => x ^^^ y
def execExorI (a : ArgsI) (s : State) : Host.Outcome State Fault Refusal := s.engAlu a.view (specEalu a.view) fun x y => x ^^^ y

/-- Shifts: a count of 64 or more gives 0 (R271). -/
def engShl (x y : W64) : W64 := if y.toNat ≥ 64 then 0 else x <<< y.toNat
def engShr (x y : W64) : W64 := if y.toNat ≥ 64 then 0 else x >>> y.toNat

def execEshl (a : Args) (s : State) : Host.Outcome State Fault Refusal := s.engAlu a.view (specEalu a.view) engShl
def execEshlI (a : ArgsI) (s : State) : Host.Outcome State Fault Refusal := s.engAlu a.view (specEalu a.view) engShl
def execEshr (a : Args) (s : State) : Host.Outcome State Fault Refusal := s.engAlu a.view (specEalu a.view) engShr
def execEshrI (a : ArgsI) (s : State) : Host.Outcome State Fault Refusal := s.engAlu a.view (specEalu a.view) engShr

/-- ECMP (R271). -/
def engCmp (v : View) (x y : W64) : W64 := if condInt v.z.toNat (intOf v.ty x) (intOf v.ty y) then 1 else 0
def execEcmp (a : Args) (s : State) : Host.Outcome State Fault Refusal := s.engAlu a.view (specEcmp a.view) (engCmp a.view)
def execEcmpI (a : ArgsI) (s : State) : Host.Outcome State Fault Refusal := s.engAlu a.view (specEcmp a.view) (engCmp a.view)

/-- EMOV (R271). -/
def execEmov (a : Args) (s : State) : Host.Outcome State Fault Refusal := s.engAlu a.view (specEmov a.view) fun x _ => x

/-- EMOVI (R271): with H the upper half is replaced. -/
def execEmovi (a : ArgsI) (s : State) : Host.Outcome State Fault Refusal :=
  let v := a.view
  s.engInstr v (specEmov v) fun c e g =>
    let old := g.reg v.dst.idx.toNat
    let x : W64 := if v.z = 1 then a.imm ++ old.extractLsb' 0 32 else a.imm.setWidth 64
    s.setEng c e (g.put v.dst x).advance

-- ---------------------------------------------------------------------------------------------
-- Branches (R272)

/-- The target of a branch: an e register, or the address of the branch plus words. -/
def State.engTarget (s : State) (c e : Nat) (g : Eng) (v : View) (x : Src) : W64 :=
  match v.sb with
  | .src _ => s.engSrc c e g x
  | .imm y => pcVa (g.pc + (y.signExtend 57 <<< 2))

/-- A transfer of control. -/
def State.engJump (s : State) (c e : Nat) (g : Eng) (t : W64) : State :=
  if t.toNat % 4 ≠ 0 then s.engFault c e { cause := eMISALIGNED, va := t.toNat }
  else if !canonical t then s.engFault c e { cause := eRANGE, va := t.toNat }
  else s.setEng c e { g with pc := t.setWidth 57 }

/-- EBR. -/
def State.engBr (s : State) (v : View) : Host.Outcome State Fault Refusal :=
  s.engInstr v (specEbr v) fun c e g =>
    if ((s.engSrc c e g v.sa != 0) != (v.z == 1)) then s.engJump c e g (s.engTarget c e g v v.sbSrc) else s.setEng c e g.advance

def execEbr (a : Args) (s : State) : Host.Outcome State Fault Refusal := s.engBr a.view
def execEbrI (a : ArgsI) (s : State) : Host.Outcome State Fault Refusal := s.engBr a.view

/-- EJMP: the register form's target is SA. -/
def State.engJmp (s : State) (v : View) : Host.Outcome State Fault Refusal :=
  s.engInstr v (specEjmp v) fun c e g => s.engJump c e g (s.engTarget c e g v v.sa)

def execEjmp (a : Args) (s : State) : Host.Outcome State Fault Refusal := s.engJmp a.view
def execEjmpI (a : ArgsI) (s : State) : Host.Outcome State Fault Refusal := s.engJmp a.view

/-- ELOOP: the target is read before the counter is written. -/
def State.engLoop (s : State) (v : View) : Host.Outcome State Fault Refusal :=
  s.engInstr v (specEloop v) fun c e g =>
    let t := s.engTarget c e g v v.sbSrc
    let n := s.engSrc c e g v.sa - 1
    let g := g.put v.dst n
    if n = 0 then s.setEng c e g.advance else s.engJump c e g t

def execEloop (a : Args) (s : State) : Host.Outcome State Fault Refusal := s.engLoop a.view
def execEloopI (a : ArgsI) (s : State) : Host.Outcome State Fault Refusal := s.engLoop a.view

-- ---------------------------------------------------------------------------------------------
-- Engine reads

/-- What an access of an engine comes to: a value, an engine fault, or a home that is unreachable or refuses (R273, R296). -/
inductive ERes (α : Type) where
  | ok (x : α)
  | fault (x : EngFault)
  | lost (kind stage gpa : Nat)

/-- Sequencing of such accesses. -/
def Acc.ebind {α β : Type} (x : Acc (ERes α)) (f : State → α → Acc (ERes β)) : Acc (ERes β) :=
  x.bind fun s r => match r with
    | .ok y => f s y
    | .fault e => .ok s (.fault e)
    | .lost k st g => .ok s (.lost k st g)

/-- The first stage of an engine's access (R273, R338), with its route to a peer (R401). -/
def State.engTranslate (s : State) (c ctx : Nat) (va : W64) (wrt : Bool) : Acc (ERes (Nat × Bool)) :=
  match s.translate c ctx va (if wrt then .write else .read) with
  | (s, .noncanon) => .ok s (.fault { cause := eRANGE, wrt := wrt, va := va.toNat })
  | (s, .fault kind malf stage gpa) =>
    .ok s (.fault { cause := if kind = 0 then eNOTPRESENT else eFORBIDDEN, kind := kind, stage := stage, malf := malf, wrt := wrt, va := va.toNat
                    gpa := gpa })
  | (_, .wait n) => .wait n
  | (s, .ok gpa cls) => (s.routeHere ctx gpa).bind fun s _ => .ok s (.ok (gpa, cls))

/-- The place of a scratchpad range of an engine thread (R262, R303): the home core and key of the block, and the offset. -/
def State.engSpad (s : State) (g : Eng) (space a n : Nat) : Option (Nat × Nat × Nat) :=
  match s.block? g.home g.block with
  | none => none
  | some b => if space = 2 then s.windowPlace b a n (some (g.home, g.block)) else if b.holds a n then some (g.home, g.block, a) else none

/-- The poisoned ones among n bytes: bit i stands for byte i. `psn` says whether the word of a byte is poisoned. -/
def poisonMask (psn : Nat → Bool) (o n : Nat) : Nat := (List.range n).foldl (fun (m : Nat) i => if psn ((o + i) / 4) then m + 2 ^ i else m) 0

/-- A read of n bytes by an engine: global memory at a site, or scratchpad; the value, and which bytes are poisoned (R282). `ok` says whose owned sectors it may read. -/
def State.engRead (s : State) (c e space : Nat) (site : Site) (ok : Owner → Bool) (a : W64) (n : Nat) : Acc (ERes (Nat × Nat)) :=
  let g := s.eng c e
  if a.toNat % (if n ≤ 64 then n else 1) ≠ 0 then .ok s (.fault { cause := eMISALIGNED, va := a.toNat })
  else if space ≠ 0 then
    match s.engSpad g space (a.toNat % 2 ^ 32) n with
    | none => .ok s (.fault { cause := eRANGE, va := a.toNat })
    | some (home, key, off) => match s.block? home key with
      | none => .ok s (.fault { cause := eRANGE, va := a.toNat })
      | some b => .ok s (.ok (b.spadNum off n, poisonMask (fun w => (b.word w).psn) off n))
  else
    (s.engTranslate c g.ctx a false).ebind fun s (gpa, cls) =>
      let func := s.funcOf g.ctx
      let o := gpa % 64
      match s.passOwner (secKey func (gpa / 64)) ok fun s => s.readCls c site func (gpa / 64) cls (maskOf o n) with
      | .wait need => .wait need
      | .ok s (d, p) => .ok s (.ok (secNum d o n, poisonMask p.getLsbD o n))
      | .bad kind stage =>
        if kind = 3 then .ok s (.lost kind stage gpa)
        else .ok s (.fault { cause := if kind = 0 then eNOTPRESENT else eFORBIDDEN, kind := kind, stage := stage, va := a.toNat, gpa := gpa })

/-- The site of an engine's access at a scope (R320, R330). -/
def engSite (scp : Nat) : Site := if scp = 5 then .ctl else if scp = 6 then .agent else .home

/-- What a scalar access does when it cannot be performed. -/
def State.engAccess {α : Type} (s : State) (c e : Nat) (wrt : Bool) (r : Acc (ERes α)) (f : State → α → State) : State :=
  match r with
  | .wait n => s.request n
  | .bad _ _ => s
  | .ok s (.ok x) => f s x
  | .ok s (.fault x) => s.engFault c e x
  | .ok s (.lost kind stage gpa) =>
    let g := s.eng c e
    { s with failures := s.failures ++ [Failure.mk g.ctx c g.flight (kind == 3) stage kind 0 (BitVec.ofNat 64 gpa) wrt] }.setEng c e g.advance

/-- ELD (R273): the value lands later. Its acquire takes effect with the read; the thread issues nothing before the landing. -/
def State.engLoadOp (s : State) (v : View) : Host.Outcome State Fault Refusal :=
  s.engInstr v (specEld v) fun c e g =>
    let a := s.engSrc c e g v.sa + s.engB c e g v
    let n := v.ty.bytes
    let a := if v.esp then (a.setWidth 32).setWidth 64 else a
    s.engAccess c e false (s.engRead c e (if v.esp then 1 else 0) (engSite v.scp) (fun _ => false) a n) fun s x =>
      if x.2 ≠ 0 then s.engFault c e { cause := ePOISON, kind := 2, va := a.toNat }
      else
        let s := if v.eord = 1 then s.acquire c v.scp false else s
        s.setEng c e { s.eng c e with load := some (.reg v.dst.idx.toNat (BitVec.ofNat 64 x.1)) }

def execEld (a : Args) (s : State) : Host.Outcome State Fault Refusal := s.engLoadOp a.view
def execEldI (a : ArgsI) (s : State) : Host.Outcome State Fault Refusal := s.engLoadOp a.view

/-- ENGINE_LOAD_LANDING (R273, R277): the data arrives and the thread goes on. -/
def execEngineLoadLanding (core eng : Nat) (s : State) : Host.Outcome State Fault Refusal :=
  let g := s.eng core eng
  if !s.mayRun g.ctx then .next s
  else .next (match g.load with
    | some (.reg d x) => s.setEng core eng { g with e := g.e.set d x, load := none }.advance
    | some (.walker d x) => s.setEng core eng { g with w := g.w.set d x, load := none }.advance
    | none => s)

/-- A write of n bytes by EST (R273). -/
def State.engWrite (s : State) (c e : Nat) (sp : Bool) (scp : Nat) (a : W64) (n x : Nat) : Acc (ERes Unit) :=
  let g := s.eng c e
  if a.toNat % n ≠ 0 then .ok s (.fault { cause := eMISALIGNED, wrt := true, va := a.toNat })
  else if sp then
    match s.engSpad g 1 a.toNat n with
    | none => .ok s (.fault { cause := eRANGE, wrt := true, va := a.toNat })
    | some (home, key, off) => match s.block? home key with
      | none => .ok s (.ok ())
      | some b => .ok (s.setBlock home key (b.spadPut off n x false)) (.ok ())
  else
    (s.engTranslate c g.ctx a true).ebind fun s (gpa, cls) =>
      let func := s.funcOf g.ctx
      let site := if s.isRemote func gpa then (if scp = 6 then .agent else .ctl) else engSite scp
      match s.writeN c site func gpa cls n x with
      | .wait need => .wait need
      | .ok s _ => .ok s (.ok ())
      | .bad kind stage => .ok s (.lost kind stage gpa)

/-- EST (R273): after every earlier transfer of the thread; with .rel, a release at SCP. -/
def execEst (a : Args) (s : State) : Host.Outcome State Fault Refusal :=
  let v := a.view
  s.engInstr v (specEst v) fun c e g =>
    if !g.slots.entries.isEmpty then s
    else
      let addr := s.engSrc c e g v.sa + s.engB c e g v
      let addr := if v.esp then (addr.setWidth 32).setWidth 64 else addr
      let n := v.ty.bytes
      let x := (s.engSrc c e g v.sc).toNat % 2 ^ (8 * n)
      let before := if v.eord = 2 then s.release c g.ctx v.scp else .ok s ()
      s.engAccess c e true (before.bind fun s _ => s.engWrite c e v.esp v.scp addr n x) fun s _ => s.setEng c e (s.eng c e).advance

-- ---------------------------------------------------------------------------------------------
-- Walkers

/-- Replace n bits of a descriptor. -/
def putBits (w : BitVec 512) (lo n x : Nat) : BitVec 512 :=
  BitVec.ofNat 512 (w.toNat - bitsN w.toNat lo n * 2 ^ lo + x % 2 ^ n * 2 ^ lo)

/-- A walker of an engine thread. -/
def Eng.walker (g : Eng) (i : Nat) : BitVec 512 := g.w.getD i 0

/-- WSET.LD (R277). -/
def execWsetLd (a : Args) (s : State) : Host.Outcome State Fault Refusal :=
  let v := a.view
  s.engInstr v (specWsetLd v) fun c e g =>
    let addr := s.engSrc c e g v.sa + s.engB c e g v
    s.engAccess c e false (s.engRead c e 0 .home (fun _ => false) addr 64) fun s x =>
      if x.2 ≠ 0 then s.engFault c e { cause := ePOISON, kind := 2, va := addr.toNat }
      else s.setEng c e { s.eng c e with load := some (.walker v.dst.idx.toNat (BitVec.ofNat 512 x.1)) }

/-- WSET of one field (R275, R277). -/
def wsetField (w : BitVec 512) (field : Nat) (x : W64) : BitVec 512 :=
  if field = 1 then putBits w 0 64 x.toNat
  else if field ≤ 6 then putBits w (64 + 32 * (field - 2)) 32 x.toNat
  else if field ≤ 11 then putBits w (224 + 32 * (field - 7)) 32 x.toNat
  else putBits w 384 8 x.toNat

def execWset (a : Args) (s : State) : Host.Outcome State Fault Refusal :=
  let v := a.view
  s.engInstr v (specWset v) fun c e g =>
    let i := v.dst.idx.toNat
    s.setEng c e { g with w := g.w.set i (wsetField (g.walker i) (v.o 0 4) (s.engSrc c e g v.sa)) }.advance

-- Fields of a walker descriptor (R275); dimensions at or above NDIM have extent 1

def wBase (w : BitVec 512) : W64 := w.extractLsb' 0 64
def wStr (w : BitVec 512) (d : Nat) : Int := sextN (bitsN w.toNat (224 + 32 * d) 32) 32
def wEw (w : BitVec 512) : Nat := bitsN w.toNat 384 3
def wNdim (w : BitVec 512) : Nat := bitsN w.toNat 387 3
def wSpace (w : BitVec 512) : Nat := bitsN w.toNat 390 2
def wExt (w : BitVec 512) (d : Nat) : Nat := if d < wNdim w then bitsN w.toNat (64 + 32 * d) 32 else 1

/-- WSTEP (R277). -/
def execWstep (a : Args) (s : State) : Host.Outcome State Fault Refusal :=
  let v := a.view
  s.engInstr v (specWstep v) fun c e g =>
    let i := v.dst.idx.toNat
    let w := g.walker i
    let d := v.sa.idx.toNat
    let n := (s.engB c e g v).toInt
    let nib := wEw w == 0 && d == 0
    if nib && n % 2 != 0 then s.engFault c e { cause := eWALKER }
    else
      let off := if nib then n / 2 else n * wStr w d
      s.setEng c e { g with w := g.w.set i (putBits w 0 64 (wBase w + BitVec.ofInt 64 off).toNat) }.advance

-- ---------------------------------------------------------------------------------------------
-- Synchronisation

/-- The barrier of ECBADD and ECBWAIT (R290). -/
def State.engCb (s : State) (c e : Nat) (g : Eng) (x : Src) : Option Nat :=
  if x.cls = .k then some x.idx.toNat
  else
    let n := (s.engSrc c e g x).toNat
    if n > 63 then none else some n

/-- ECBADD (R290). -/
def execEcbadd (a : Args) (s : State) : Host.Outcome State Fault Refusal :=
  let v := a.view
  s.engInstr v (specEcbadd v) fun c e g =>
    if !g.slots.entries.isEmpty then s
    else
      match s.engCb c e g v.sa with
      | none => s.engFault c e { cause := eRANGE }
      | some b =>
        let n := ((s.engB c e g v).setWidth 32).toInt
        match s.release c g.ctx (s.cb c b).scope with
        | .wait need => s.request need
        | .bad _ _ => s
        | .ok s _ => (s.setEng c e g.advance).cbUpdate c b (-n) g.ctx

/-- ECBWAIT (R291). -/
def execEcbwait (a : Args) (s : State) : Host.Outcome State Fault Refusal :=
  let v := a.view
  s.engInstr v (specEcbwait v) fun c e g =>
    match s.engCb c e g v.sa with
    | none => s.engFault c e { cause := eRANGE }
    | some n =>
      let b := s.cb c n
      if b.armed ∧ b.count = 0 then (s.setEng c e g.advance).acquire c b.scope false
      else s.setEng c e { g with run := .heldCb n }

/-- EFENCE (R292). -/
def execEfence (a : Args) (s : State) : Host.Outcome State Fault Refusal :=
  let v := a.view
  s.engInstr v (specEfence v) fun c e g =>
    let rel := v.opt.getLsbD 1
    if rel && !g.slots.entries.isEmpty then s
    else
      match if rel then s.release c g.ctx v.scp else .ok s () with
      | .wait need => s.request need
      | .bad _ _ => s
      | .ok s _ =>
        let s := if v.opt.getLsbD 0 then s.acquire c v.scp false else s
        s.setEng c e (s.eng c e).advance

/-- EEND (R293). -/
def execEend (a : Args) (s : State) : Host.Outcome State Fault Refusal :=
  let v := a.view
  s.engInstr v (specEend v) fun c e g =>
    if !g.slots.entries.isEmpty then s
    else
      match s.release c g.ctx 4 with
      | .wait need => s.request need
      | .bad _ _ => s
      | .ok s _ => ((s.setEng c e { g with run := .ended false 0 }).joinRelease c g.gen).releaseSpad g.home g.block

end Sys2Proof.Machine
end

