-- ==== Sys2Proof/Machine/Transfer.lean ====
section
/-!
DEFINITION. Sys2Proof/Machine/Transfer.lean: the transfers of the racking processor (R276, R278 to R289): walks, shape checks, pieces, the block quantiser, sector
ownership, reading the next piece in engine program order, and the event PIECE_LAND.
-/
namespace Sys2Proof.Machine

open Sys2Proof

-- ---------------------------------------------------------------------------------------------
-- Walks (R276)

/-- The element count. -/
def wCount (w : BitVec 512) : Nat := (List.range 5).foldl (fun n d => n * wExt w d) 1

/-- Element width in bits and its bytes. -/
def ewBits (ew : Nat) : Nat := 4 * 2 ^ ew
def ewBytes (ew : Nat) : Nat := if ew ≤ 1 then 1 else 2 ^ (ew - 1)

/-- Whether a transfer may use a walker (R275, R276). -/
def wOk (w : BitVec 512) : Bool :=
  decide (wEw w ≤ 4) && decide (1 ≤ wNdim w ∧ wNdim w ≤ 5) && decide (wSpace w ≤ 2) && bitsN w.toNat 392 120 == 0
    && (List.range 5).all (fun d => wExt w d != 0) && decide (wCount w ≤ 2 ^ 32)
    && (wEw w != 0 || (wExt w 0 % 2 == 0 && wStr w 0 == 0))

/-- The address of position m; for a 4-bit element also its nibble, 2 otherwise. -/
def wAt (w : BitVec 512) (m : Nat) : W64 × Nat :=
  let nib := wEw w == 0
  let r := (List.range 5).foldl (fun (x : Nat × Int) d =>
    let i := x.1 % wExt w d
    (x.1 / wExt w d, x.2 + (if nib && d == 0 then ((i / 2 : Nat) : Int) else i * wStr w d))) (m, 0)
  let a := wBase w + BitVec.ofInt 64 r.2
  (if wSpace w = 0 then a else (a.setWidth 32).setWidth 64, if nib then m % wExt w 0 % 2 else 2)

/-- The sector of a position. -/
def wSector (w : BitVec 512) (m : Nat) : Nat := (wAt w m).1.toNat / 64

-- ---------------------------------------------------------------------------------------------
-- The block quantiser (R284, R285)

/-- The magnitude of an exact value, and the greater of two. -/
def magF : FVal → FVal
  | .fin _ m e => .fin false m e
  | .inf _ => .inf false
  | .nan => .nan
def maxF (a b : FVal) : FVal := if a.cmp b < 0 then b else a

/-- emax of R285. -/
def mxEmax (f : Nat) : Int := if f = 4 then 2 else if f = 2 then 8 else 15

/-- mx_quant: the scale and the codes of a block. -/
def mxQuant (f : Nat) (xs : List FVal) : Nat × List Nat :=
  let special (x : FVal) : Bool := match x with
    | .fin _ _ _ => false
    | _ => true
  if xs.any special then (0xFF, xs.map fun _ => 0)
  else
    let sc : Int := match xs.foldl (fun (a x : FVal) => maxF a (magF x)) (FVal.fin false 0 0) with
      | .fin _ m e => if m = 0 then 127 else max 0 (min 254 ((Nat.log2 m : Int) + e - mxEmax f + 127))
      | _ => 127
    (sc.toNat, xs.map fun x => roundMode (pressFmt f) (x.scale (127 - sc)) .rne false true)

/-- conv for a format without blocks (R284). -/
def convElem (f : Nat) (x : FVal) : Nat :=
  match f with
  | 0 => roundMode fmtBF16 x .rne false false
  | 1 => roundMode fmtF16 x .rne false false
  | 7 => lowBits (max (-8) (min 7 (roundInt x .i32 .rne))) 4
  | _ => lowBits (roundInt x .i8 .rne) 8

/-- conv of R284 for the elements of one row or block: the scale and the codes. -/
def convBlock (f : Nat) (xs : List FVal) : Nat × List Nat := if pressMx f then mxQuant f xs else (127, xs.map (convElem f))

/-- The exact value of a source element of kind 1 or 2. -/
def kindValue (kind x : Nat) : FVal := valueOf (if kind = 1 then fmtF32 else fmtBF16) x false

/-- Whether a brick element is nonzero (R248). -/
def brickNz (f scale zp code : Nat) : Bool :=
  if f = 6 ∨ f = 8 then code != zp
  else if f = 5 ∨ f = 7 then code != 0
  else (pressMx f && scale == 0xFF) || !(valueOf (pressFmt f) code false).isZero

-- ---------------------------------------------------------------------------------------------
-- Operands of a transfer

def Transfer.fmt (t : Transfer) : Nat := (t.args.opt.extractLsb' 0 4).toNat
def Transfer.kind (t : Transfer) : Nat := (t.args.opt.extractLsb' 4 2).toNat
def Transfer.tr (t : Transfer) : Bool := t.args.opt.getLsbD 6
/-- Whether SC names a walker. -/
def Transfer.side (t : Transfer) : Bool := t.args.sc != Src.zero
/-- R, K and the number of tiles of a TEXP (R284). -/
def Transfer.texpR (t : Transfer) : Nat := wExt t.wb (if t.tr then 0 else 1)
def Transfer.texpK (t : Transfer) : Nat := wExt t.wb (if t.tr then 1 else 0)
def Transfer.tiles (t : Transfer) : Nat := wExt t.wb 2 * wExt t.wb 3 * wExt t.wb 4
/-- The table walker, the elements of a row and the number of rows of a gather or scatter (R287, R288). -/
def Transfer.table (t : Transfer) : BitVec 512 := if t.op = 3 then t.wb else t.wa
def Transfer.nrow (t : Transfer) : Nat := wExt t.table (wNdim t.table - 1)
def Transfer.rowLen (t : Transfer) : Nat := wCount t.table / t.nrow
/-- The base of a TEXP in scratchpad. -/
def Transfer.base (t : Transfer) : Nat := t.scal.toNat % 2 ^ 32

/-- The element width code of a press format. -/
def ewOf (f : Nat) : Nat := if pressWidth f = 16 then 2 else if pressWidth f = 8 then 1 else 0

/-- The checks of a whole transfer (R276, R283 to R289): the cause of the first piece's trap. -/
def State.transferBad (s : State) (g : Eng) (t : Transfer) : Option Nat :=
  let bad (b : Bool) : Option Nat := if b then some eWALKER else none
  match t.op with
  | 0 => bad (!wOk t.wa || !wOk t.wb || wEw t.wa != wEw t.wb || wCount t.wa != wCount t.wb)
  | 1 =>
    if t.base % 32 ≠ 0 then some eMISALIGNED
    else bad (!wOk t.wb || t.texpR % 16 != 0 || t.texpK % 32 != 0
      || wEw t.wb != (if t.kind = 0 then ewOf t.fmt else if t.kind = 1 then 3 else 2)
      || (t.side && (!wOk t.wc || wEw t.wc != 1 || wCount t.wc != t.texpK / 32 * t.texpR * t.tiles)))
  | 2 =>
    bad (!wOk t.wa || !wOk t.wb || wEw t.wb != (if t.kind = 1 then 3 else 2) || wEw t.wa != ewOf t.fmt || wCount t.wa != wCount t.wb
      || (pressMx t.fmt && (wCount t.wb % 32 != 0 || !t.side || !wOk t.wc || wEw t.wc != 1 || wCount t.wc != wCount t.wb / 32)))
  | 3 => bad (!wOk t.wa || !wOk t.wb || !wOk t.wc || wEw t.wc != 3 || wEw t.wa != wEw t.wb || wCount t.wa != wCount t.wc * t.rowLen)
  | 4 => bad (!wOk t.wa || !wOk t.wb || !wOk t.wc || wEw t.wc != 3 || wEw t.wb != wEw t.wa || wCount t.wb != wCount t.wc * t.rowLen)
  | _ =>
    let n := t.args.sc.idx.toNat
    if !wOk t.wa || wEw t.wa != 3 || wCount t.wa != 32 * n then some eWALKER
    else
      let top := t.scal.toNat / 256 % 256 + n
      match s.tregFlight g (t.scal.toNat % 256) with
      | none => some eREGREFUSED
      | some (_, _, f) => if f.liveMask = 0 ∨ top > 64 ∨ top > f.allot then some eREGREFUSED else none

-- ---------------------------------------------------------------------------------------------
-- Pieces

/-- What a piece is made of: destination positions of a copy, element conversion or gather; the codes of a block at some positions; a block's scale byte; bytes
lo to lo + len of brick n; elements of row j of a scatter; elements of a register stream. -/
inductive PSrc where
  | elems (ms : List Nat)
  | codes (b : Nat) (ms : List Nat)
  | scale (b : Nat)
  | brick (n lo len : Nat)
  | scat (j : Nat) (es : List Nat)
  | regs (ms : List Nat)
deriving DecidableEq, Repr

/-- Runs of consecutive positions whose destinations fall in one sector (R278); a multiple of `brk` begins a new run. -/
def rowRuns (w : BitVec 512) (brk : Nat) (ms : List Nat) : List (List Nat) :=
  let r := ms.foldl (fun (acc : List (List Nat)) m =>
    match acc with
    | (p :: ps) :: rest => if wSector w p = wSector w m ∧ (brk = 0 ∨ m % brk ≠ 0) then (m :: p :: ps) :: rest else [m] :: acc
    | _ => [m] :: acc) []
  (r.map List.reverse).reverse

/-- The sectors of a brick in address order (R284): first byte and length of each. -/
def brickParts (start size : Nat) : List (Nat × Nat) :=
  (List.range (size / 64 + 2)).filterMap fun i =>
    let lo := max start ((start / 64 + i) * 64)
    let hi := min (start + size) ((start / 64 + i + 1) * 64)
    if lo < hi then some (lo - start, hi - lo) else none

/-- The pieces of a row of a scatter: by rising sector (R288). A row whose index could not be read is one piece without effect. -/
def Transfer.scatRow (t : Transfer) (j row : Nat) : List PSrc :=
  if row ≥ t.nrow then [.scat j []]
  else
    let es := List.range t.rowLen
    (uniqN (es.map fun x => wSector t.wa (x + t.rowLen * row))).map fun sec =>
      .scat j (es.filter fun x => wSector t.wa (x + t.rowLen * row) == sec)

/-- The pieces of a transfer in order (R283, R284, R286 to R289); for a scatter, those of the rows whose indices have been read. -/
def Transfer.pieces (t : Transfer) : List PSrc :=
  match t.op with
  | 0 => (rowRuns t.wa 0 (List.range (wCount t.wa))).map .elems
  | 1 =>
    let size := brickBytes t.fmt
    (List.range (t.tiles * (t.texpK / 32) * (t.texpR / 16))).flatMap fun n =>
      (brickParts (t.base + n * size) size).map fun p => .brick n p.1 p.2
  | 2 =>
    if pressMx t.fmt then
      (List.range (wCount t.wa / 32)).flatMap fun b =>
        ((rowRuns t.wa 0 ((List.range 32).map fun i => 32 * b + i)).map fun ms => PSrc.codes b ms) ++ [.scale b]
    else (rowRuns t.wa 0 (List.range (wCount t.wa))).map .elems
  | 3 => (rowRuns t.wa t.rowLen (List.range (wCount t.wa))).map .elems
  | 4 => ((List.range t.rows.length).zip t.rows).flatMap fun x => t.scatRow x.1 x.2
  | _ => (List.range (2 * t.args.sc.idx.toNat)).map fun k => .regs ((List.range 16).map fun i => 16 * k + i)

/-- The destination elements of a piece: address and nibble. -/
def Transfer.dests (t : Transfer) : PSrc → List (W64 × Nat)
  | .elems ms => ms.map (wAt t.wa)
  | .codes _ ms => ms.map (wAt t.wa)
  | .scale b => [wAt t.wc b]
  | .brick n lo len => (List.range len).map fun i => (BitVec.ofNat 64 (t.base + n * brickBytes t.fmt + lo + i), 2)
  | .scat j es => es.map fun x => wAt t.wa (x + t.rowLen * t.rows.getD j 0)
  | .regs _ => []

/-- The space that a piece is written to, and the bytes of an element. -/
def Transfer.destSpace (t : Transfer) : PSrc → Nat
  | .brick _ _ _ => 1
  | .scale _ => wSpace t.wc
  | .regs _ => 3
  | _ => wSpace t.wa
def Transfer.destBytes (t : Transfer) : PSrc → Nat
  | .brick _ _ _ => 1
  | .scale _ => 1
  | _ => ewBytes (wEw t.wa)

/-- The bytes of its destination that a piece writes, by address. -/
def Transfer.destAddrs (t : Transfer) (p : PSrc) : List Nat :=
  uniqN ((t.dests p).flatMap fun d => (List.range (t.destBytes p)).map fun k => d.1.toNat + k)

/-- Whether a gather takes rows of one nibble: each is a piece, so that every row before a bad index lands (R287). -/
def Transfer.nibbleRows (t : Transfer) : Bool := t.op == 3 && wEw t.wb == 0 && wNdim t.wb == 1

/-- The number of distinct bytes that a piece writes (R279). Of a byte that two nibble rows of a gather write, the second piece counts it (assumption 88, DEDUCED). -/
def Transfer.pieceCount (t : Transfer) (p : PSrc) : Nat :=
  match p with
  | .regs _ => 64
  | .scat _ [] => (t.rowLen * ewBits (wEw t.wa) + 7) / 8
  | p => if t.nibbleRows then ((t.dests p).filter fun d => d.2 == 1).length else (t.destAddrs p).length

-- ---------------------------------------------------------------------------------------------
-- Ownership (R281, R330)

/-- Take ownership of a sector: registered words and L1 copies come back to the home, other holders give it up. A sector that the second stage refuses is
not owned; its piece is refused when it lands (R296). `full` says that one piece writes all of it: the host then need not send its bytes (R419; assumption 88, DEDUCED). The
package that homes a sector of other memory holds the ownership too (R434). Answers whether it is owned. -/
def State.takeOwner (s : State) (func gpa : Nat) (o : Owner) (full : Bool) : Acc Bool :=
  let k := secKey func (gpa / 64)
  match (s.home k).owner with
  | some o' => if o' = o then .ok s true else .wait .held
  | none =>
    match s.readyHome func (gpa / 64) false true true full with
    | .wait n => .wait n
    | .bad _ _ => .ok s false
    | .ok s (t, _) =>
      let s := (s.recall k (BitVec.allOnes 16)).dropOthers k none
      let s := match t with
        | .rem pkg a =>
          let s := s.writeBack k t
          (s.setHome k { s.home k with copy := none }).emit (.memReq pkg .own (a / 64 * 64))
        | _ => s
      .ok (s.setHome k { s.home k with owner := some o }) true

/-- A transfer takes the sectors of some of its pieces (R281), where their addresses translate. -/
def State.takeOwners (s : State) (c e slot ctx : Nat) (t : Transfer) (ps : List (Nat × PSrc)) : Acc (KMap Nat) :=
  ps.foldl (fun (acc : Acc (KMap Nat)) x => acc.bind fun s m =>
    match t.destSpace x.2, t.dests x.2 with
    | 0, d :: _ =>
      (s.engTranslate c ctx (d.1 &&& ~~~63#64) true).bind fun s r =>
        match r with
        | .ok (gpa, _) => (s.takeOwner (s.funcOf ctx) gpa (.engine c e slot) ((t.destAddrs x.2).length == 64)).bind fun s got =>
            .ok s (if got then m.set x.1 (secKey (s.funcOf ctx) (gpa / 64)) else m)
        | _ => .ok s m
    | _, _ => .ok s m) (.ok s t.owned)

-- ---------------------------------------------------------------------------------------------
-- Reading a piece

/-- Whose owned sectors a transfer may read: those of its own and of later transfers of its thread, which have written nothing yet. -/
def Eng.mayPass (g : Eng) (c e seq : Nat) : Owner → Bool
  | .engine c' e' slot => c' == c && e' == e && (match g.slots.get? slot with
      | some t => decide (seq ≤ t.seq)
      | none => true)
  | _ => false

/-- One source element: its value, and which of its bytes are poisoned. -/
def State.readElem (s : State) (c e seq : Nat) (w : BitVec 512) (m : Nat) : Acc (ERes (Nat × Nat)) :=
  let (a, nib) := wAt w m
  (s.engRead c e (wSpace w) .home ((s.eng c e).mayPass c e seq) a (ewBytes (wEw w))).ebind fun s x =>
    .ok s (.ok (if nib = 2 then x.1 else bitsN x.1 (4 * nib) 4, x.2))

/-- Several source elements. -/
def State.readElems (s : State) (c e seq : Nat) (w : BitVec 512) (ms : List Nat) : Acc (ERes (List (Nat × Nat))) :=
  ms.foldl (fun (acc : Acc (ERes (List (Nat × Nat)))) m =>
    acc.ebind fun s xs => (s.readElem c e seq w m).ebind fun s x => .ok s (.ok (xs ++ [x]))) (.ok s (.ok []))

/-- A refused or unreachable source read leaves what it feeds without effect, and is noted (R296): `none`. -/
def State.orLost {α : Type} (c flight ctx : Nat) (r : Acc (ERes α)) : Acc (ERes (Option α)) :=
  r.bind fun s x => match x with
    | .ok y => .ok s (.ok (some y))
    | .fault e => .ok s (.fault e)
    | .lost kind stage gpa =>
      .ok { s with failures := s.failures ++ [Failure.mk ctx c flight (kind == 3) stage kind 0 (BitVec.ofNat 64 gpa) false] } (.ok none)

/-- Whether the scales or zero points of a TEXP come from its side walker (R284). Nothing else reads it. -/
def Transfer.sideFeeds (t : Transfer) : Bool := t.side && t.kind == 0 && (pressMx t.fmt || t.fmt == 6 || t.fmt == 8)

/-- The bytes of brick n (R284); a poisoned source byte poisons all of it (R282). -/
def State.makeBrick (s : State) (c e : Nat) (t : Transfer) (n : Nat) : Acc (ERes (List (Nat × Nat))) :=
  let kc := t.texpK / 32
  let rq := t.texpR / 16
  let tile := n / (kc * rq)
  let ch := n / rq % kc
  let q := n % rq
  let w := pressWidth t.fmt
  -- each row: its codes, scale, zero point, and whether a source byte was poisoned
  let row (s : State) (r : Nat) : Acc (ERes (List Nat × Nat × Nat × Bool)) :=
    let i := 16 * q + r
    let pos (k : Nat) : Nat := if t.tr then i + t.texpR * (k + t.texpK * tile) else k + t.texpK * (i + t.texpR * tile)
    (s.readElems c e t.seq t.wb ((List.range 32).map fun k => pos (32 * ch + k))).ebind fun s xs =>
      let sideRead : Acc (ERes (Option (Nat × Nat))) :=
        if t.sideFeeds then (s.readElem c e t.seq t.wc (ch + kc * (i + t.texpR * tile))).ebind fun s x => .ok s (.ok (some x)) else .ok s (.ok none)
      sideRead.ebind fun s sd =>
        let psn := xs.any (·.2 != 0) || (match sd with
          | some x => x.2 != 0
          | none => false)
        let sv : Nat := match sd with
          | some x => x.1
          | none => 0
        if t.kind = 0 then
          let scale := if pressMx t.fmt ∧ sd.isSome then sv else 127
          let zp := if t.fmt = 6 then sv else if t.fmt = 8 then sv % 16 else 0
          .ok s (.ok (xs.map (·.1), scale, zp, psn))
        else
          let r := convBlock t.fmt (xs.map fun x => kindValue t.kind x.1)
          .ok s (.ok (r.2, r.1, 0, psn))
  let rows := (List.range 16).foldl (fun (acc : Acc (ERes (List (List Nat × Nat × Nat × Bool)))) r =>
    acc.ebind fun s rs => (row s r).ebind fun s x => .ok s (.ok (rs ++ [x]))) (.ok s (.ok []))
  rows.ebind fun s rs =>
    let data := rs.foldr (fun r (acc : Nat) => r.1.foldr (fun code (a : Nat) => code % 2 ^ w + 2 ^ w * a) acc) 0
    let nz := rs.foldr (fun r (acc : Nat) =>
      r.1.foldr (fun code (a : Nat) => b2n (brickNz t.fmt r.2.1 r.2.2.1 (code % 2 ^ w)) + 2 * a) acc) 0
    let psn := rs.any fun r => r.2.2.2
    let bytes := bytesN data (64 * w) ++ bytesN nz 64 ++ (rs.map fun r => BitVec.ofNat 8 r.2.1) ++ (rs.map fun r => BitVec.ofNat 8 r.2.2.1)
    .ok s (.ok (bytes.map fun b => (b.toNat, b2n psn)))

/-- The codes of a quantised block and, last, its scale (R286); a poisoned element poisons all of them (R282). -/
def State.makeBlock (s : State) (c e : Nat) (t : Transfer) (b : Nat) : Acc (ERes (List (Nat × Nat))) :=
  (s.readElems c e t.seq t.wb ((List.range 32).map fun i => 32 * b + i)).ebind fun s xs =>
    let psn := if xs.any (·.2 != 0) then 255 else 0
    let r := mxQuant t.fmt (xs.map fun x => kindValue t.kind x.1)
    .ok s (.ok ((r.2 ++ [r.1]).map fun y => (y, psn)))

/-- What is kept from piece to piece: a brick, a block, or a table element of a gather's window. It is made at the first piece that needs it. -/
def State.kept (s : State) (c : Nat) (g : Eng) (t : Transfer) (no key : Nat) (make : State → Acc (ERes (List (Nat × Nat)))) :
    Acc (ERes (Transfer × List (Nat × Nat))) :=
  let win := if t.winNo = no then t.window else .empty
  match win.get? key with
  | some xs => .ok s (.ok (t, xs))
  | none =>
    (State.orLost c g.flight g.ctx (make s)).ebind fun s x =>
      let xs := x.getD []
      .ok s (.ok ({ t with winNo := no, window := win.set key xs }, xs))

/-- An index of a gather or scatter (R287, R288): a row number; the number of rows stands for one that could not be read (R296). -/
def State.readIndex (s : State) (c e : Nat) (g : Eng) (t : Transfer) (j : Nat) : Acc (ERes Nat) :=
  (State.orLost c g.flight g.ctx (s.readElem c e t.seq t.wc j)).ebind fun s x =>
    match x with
    | none => .ok s (.ok t.nrow)
    | some (n, psn) =>
      if psn ≠ 0 then .ok s (.fault { cause := ePOISON, kind := 2, va := (wAt t.wc j).1.toNat })
      else if n ≥ t.nrow then .ok s (.fault { cause := eBADINDEX, va := (wAt t.wc j).1.toNat }) else .ok s (.ok n)

/-- A transfer with the index that its next piece needs (R287, R288). With an index a scatter takes the sectors of its row (R281). -/
def State.withIndex (s : State) (c e slot : Nat) (g : Eng) (t : Transfer) : Acc (ERes Transfer) :=
  let need : Bool := match t.op with
    | 3 => match t.pieces[t.next]? with
      | some (.elems ms) => decide (t.rows.length ≤ ms.headD 0 / t.rowLen)
      | _ => false
    | 4 => decide (t.pieces.length ≤ t.next)
    | _ => false
  if !need then .ok s (.ok t)
  else
    (s.readIndex c e g t t.rows.length).ebind fun s n =>
      let t' := { t with rows := t.rows ++ [n] }
      if t.op ≠ 4 then .ok s (.ok t')
      else
        let ps := t.scatRow t.rows.length n
        (s.takeOwners c e slot g.ctx t' (((List.range ps.length).map fun i => t.pieces.length + i).zip ps)).bind fun s m =>
          .ok s (.ok { t' with owned := m })

/-- The values of a piece, one for each of its destination elements; none where the piece is without effect. -/
def State.pieceVals (s : State) (c e : Nat) (g : Eng) (t : Transfer) (p : PSrc) : Acc (ERes (Transfer × List (Nat × Nat))) :=
  let plain (ms : List Nat) (w : BitVec 512) : Acc (ERes (Transfer × List (Nat × Nat))) :=
    (State.orLost c g.flight g.ctx (s.readElems c e t.seq w ms)).ebind fun s x => .ok s (.ok (t, x.getD []))
  match p with
  | .elems ms =>
    if t.op = 3 then
      let j := ms.headD 0 / t.rowLen
      let row := t.rows.getD j t.nrow
      if row ≥ t.nrow then .ok s (.ok (t, []))
      else
        -- each element of a row is read once in a window, at the first piece that needs it
        (ms.foldl (fun (acc : Acc (ERes (Transfer × List (List (Nat × Nat))))) m => acc.ebind fun s (t, xs) =>
          let el := m % t.rowLen + t.rowLen * row
          (s.kept c g t (j / 256) el fun s => s.readElems c e t.seq t.wb [el]).ebind fun s (t, x) => .ok s (.ok (t, xs ++ [x]))) (.ok s (.ok (t, [])))).ebind
          fun s (t, xs) => .ok s (.ok (t, if xs.contains [] then [] else xs.flatten))
    else if t.op = 2 then
      (plain ms t.wb).ebind fun s (t, xs) => .ok s (.ok (t, xs.map fun x => (convElem t.fmt (kindValue t.kind x.1), if x.2 = 0 then 0 else 255)))
    else plain ms t.wb
  | .codes b ms =>
    (s.kept c g t b 0 fun s => s.makeBlock c e t b).ebind fun s (t, xs) =>
      .ok s (.ok (t, if xs = [] then [] else ms.map fun m => xs.getD (m % 32) (0, 0)))
  | .scale b =>
    (s.kept c g t b 0 fun s => s.makeBlock c e t b).ebind fun s (t, xs) => .ok s (.ok (t, if xs = [] then [] else [xs.getD 32 (0, 0)]))
  | .brick n lo len =>
    (s.kept c g t n 0 fun s => s.makeBrick c e t n).ebind fun s (t, xs) => .ok s (.ok (t, (xs.drop lo).take len))
  | .scat j es => plain (es.map fun x => j * t.rowLen + x) t.wb
  | .regs ms => plain ms t.wa

/-- The bytes that elements write, by address: the later of two that write one byte remains (R283). Of each: its value, its bits that are written, and its poison. -/
def byteMap (n : Nat) (items : List ((W64 × Nat) × (Nat × Nat))) : KMap (Nat × Nat × Bool) :=
  items.foldl (fun (m : KMap (Nat × Nat × Bool)) it =>
    let a := it.1.1.toNat
    let x := it.2.1
    if it.1.2 = 2 then
      (List.range n).foldl (fun (m : KMap (Nat × Nat × Bool)) k => m.set (a + k) (x / 2 ^ (8 * k) % 256, 255, it.2.2.testBit k)) m
    else
      let old := m.getD a (0, 0, false)
      let bits := 15 * 2 ^ (4 * it.1.2)
      m.set a ((old.1 &&& (255 - bits)) ||| (x % 16 * 2 ^ (4 * it.1.2)), old.2.1 ||| bits, old.2.2 || it.2.2 != 0)) .empty

/-- Check the destination of a piece and find its place (R276, R294): the guest-physical address and class, or the home core and key of a block and the offset, of its first
element. -/
def State.destPlace (s : State) (c : Nat) (g : Eng) (t : Transfer) (p : PSrc) : Acc (ERes ((Nat × Bool) × (Nat × Nat × Nat))) :=
  let sp := t.destSpace p
  let n := t.destBytes p
  let ds := t.dests p
  match ds.find? fun d => d.1.toNat % n != 0 with
  | some d => .ok s (.fault { cause := eMISALIGNED, wrt := true, va := d.1.toNat })
  | none =>
    match ds.head? with
    | none => .ok s (.ok ((0, false), (0, 0, 0)))
    | some d =>
      if sp = 0 then (s.engTranslate c g.ctx (d.1 &&& ~~~63#64) true).ebind fun s x => .ok s (.ok (x, (0, 0, 0)))
      else
        match (t.destAddrs p).find? fun a => (s.engSpad g sp a 1).isNone with
        | some a => .ok s (.fault { cause := eRANGE, wrt := true, va := a })
        | none =>
          match s.engSpad g sp d.1.toNat 1 with
          | none => .ok s (.fault { cause := eRANGE, wrt := true, va := d.1.toNat })
          | some x => .ok s (.ok ((0, false), x))

/-- A fault of a destination of a quantised block falls before the block's first code piece (R286): all of its pieces are checked there. -/
def State.blockFault (s : State) (c : Nat) (g : Eng) (t : Transfer) (p : PSrc) : Acc (ERes Unit) :=
  match p with
  | .codes b ms =>
    if ms.head? ≠ some (32 * b) then .ok s (.ok ())
    else
      (((rowRuns t.wa 0 ((List.range 32).map fun i => 32 * b + i)).map fun ms => PSrc.codes b ms) ++ [PSrc.scale b]).foldl
        (fun (acc : Acc (ERes Unit)) q => acc.ebind fun s _ => (s.destPlace c g t q).ebind fun s _ => .ok s (.ok ())) (.ok s (.ok ()))
  | _ => .ok s (.ok ())

/-- The piece as it will land: its destination checked and translated (R276, R280, R294). -/
def State.placePiece (s : State) (c e slot : Nat) (g : Eng) (t : Transfer) (p : PSrc) (xs : List (Nat × Nat)) : Acc (ERes (Transfer × Cap)) :=
  let sp := t.destSpace p
  let ds := t.dests p
  let count := t.pieceCount p
  match p with
  | .regs ms =>
    .ok s (.ok (t, ⟨3, 0, false, 0, 0, count, if xs = [] then [] else (ms.zip xs).map fun x => ⟨x.1, x.2.1, 255, x.2.2 != 0⟩⟩))
  | _ =>
    (s.destPlace c g t p).ebind fun s (z : (Nat × Bool) × (Nat × Nat × Nat)) =>
      let x := z.1
      let y := z.2
      let m := (byteMap (t.destBytes p) (if xs = [] then [] else ds.zip xs)).entries
      let first := (ds.headD (0, 2)).1.toNat
      if ds = [] then .ok s (.ok (t, ⟨sp, 0, false, 0, 0, count, []⟩))
      else if sp ≠ 0 then .ok s (.ok (t, ⟨sp, 0, false, y.1, y.2.1, count, m.map fun b => ⟨b.1 + y.2.2 - first, b.2.1, b.2.2.1, b.2.2.2⟩⟩))
      else
        let key := secKey (s.funcOf g.ctx) (x.1 / 64)
        let cap : Cap := ⟨0, x.1, x.2, 0, 0, count, m.map fun b => ⟨b.1 % 64, b.2.1, b.2.2.1, b.2.2.2⟩⟩
        if t.owned.get? t.next = some key then .ok s (.ok (t, cap))
        else
          (s.takeOwner (s.funcOf g.ctx) x.1 (.engine c e slot) ((t.destAddrs p).length == 64)).bind fun s got =>
            .ok s (.ok (if got then { t with owned := t.owned.set t.next key } else t, cap))

/-- Read the next piece of a transfer: it waits to land (R278, R280). -/
def State.readPiece (s : State) (c e slot : Nat) : Acc (ERes Nat) :=
  let g := s.eng c e
  match g.slots.get? slot with
  | none => .ok s (.ok 0)
  | some t =>
    match t.bad with
    | some cause => .ok s (.fault { cause := cause })
    | none =>
      (s.withIndex c e slot g t).ebind fun s t =>
        match t.pieces[t.next]? with
        | none => .ok s (.ok t.next)
        | some p =>
          (s.blockFault c g t p).ebind fun s _ => (s.pieceVals c e g t p).ebind fun s (t, xs) =>
            (s.placePiece c e slot g t p xs).ebind fun s (t, cap) =>
              let k := t.next
              let done := k + 1 = t.pieces.length && (t.op != 4 || t.rows.length == wCount t.wc)
              let t := { t with next := k + 1, flight := t.flight.set k cap, done := done }
              let g := s.eng c e
              .ok (s.setEng c e { g with slots := g.slots.set slot t }) (.ok k)

/-- The transfer whose next piece stands first in engine program order (R280). -/
def Eng.nextRead (g : Eng) : Option Nat :=
  (g.slots.entries.foldl (fun (best : Option (Nat × Nat)) x =>
    if x.2.done then best
    else match best with
      | none => some (x.2.seq, x.1)
      | some b => if x.2.seq < b.1 then some (x.2.seq, x.1) else best) none).map (·.2)

/-- A piece lands, with the context trap of a barrier that saturates. -/
def State.landPiece (s : State) (c e slot k : Nat) : State :=
  match s.landCap c e slot k with
  | .wait n => s.request n
  | .bad _ _ => s
  | .ok s ovf => if ovf then s.trapContext (s.eng c e).ctx causeBarrierOverflow 0 else s

/-- PIECE_LAND (R278 to R281, R295): piece k of a transfer lands if it has been read. Otherwise the next piece in engine program order is read; a fault there is
taken once every piece before it has landed. -/
def execPieceLand (core eng slot k : Nat) (s : State) : Host.Outcome State Fault Refusal :=
  let s := { s with cur := ⟨core, eng, true⟩ }
  let g := s.eng core eng
  let runs : Bool := match g.run with
    | .running => true
    | .heldCb _ => true
    | _ => false
  if !runs || !s.mayRun g.ctx then .next s
  else if (match g.slots.get? slot with
      | some t => t.flight.has k
      | none => false) then .next (s.landPiece core eng slot k)
  else
    match g.nextRead with
    | none => .next s
    | some sl =>
      match s.readPiece core eng sl with
      | .wait n => .next (s.request n)
      | .bad _ _ => .next s
      | .ok s (.ok j) => .next (if sl = slot ∧ j = k then s.landPiece core eng slot k else s)
      | .ok s (.lost _ _ _) => .next s.clearFailed
      | .ok s (.fault x) =>
        if !g.inFlight.isEmpty then .next s
        else
          let piece := match g.slots.get? sl with
            | some t => t.next
            | none => 0
          match s.trapEngine core eng { x with xslot := sl, piece := piece } with
          | .ok s _ => .next s
          | .bad _ _ => .next s
          | .wait n => .next (s.request n)

-- ---------------------------------------------------------------------------------------------
-- Issue

/-- The lowest free transfer slot (R278). -/
def Eng.freeSlot (g : Eng) : Option Nat := (List.range 4).find? fun k => !g.slots.has k

/-- TREG sets the pending bits of its registers (R289). -/
def State.tregPend (s : State) (g : Eng) (t : Transfer) : State :=
  match s.tregFlight g (t.scal.toNat % 256) with
  | none => s
  | some (c, fid, f) => s.setFlight c fid ((lanesOf f.liveMask).foldl (fun (f : Flight) l =>
      f.pendV l (t.scal.toNat / 256 % 256) t.args.sc.idx.toNat true) f)

/-- A transfer issues (R278): its operands and walkers are captured, its sectors are owned, and the thread goes on. It waits for a free slot and for
sectors that other transfers own. -/
def State.issueTransfer (s : State) (a : Args) (o : OpSpec) (op : Nat) (wa wb wc : Src) (scal : Option Src) : Host.Outcome State Fault Refusal :=
  s.engInstr a.view o fun c e g =>
    match g.freeSlot with
    | none => s
    | some slot =>
      let seq := g.slots.entries.foldl (fun n x => max n (x.2.seq + 1)) 0
      let walker (x : Src) : BitVec 512 := if x.cls = .s then g.walker x.idx.toNat else 0
      let t : Transfer :=
        { op := op, args := a, wa := walker wa, wb := walker wb, wc := walker wc, scal := (scal.map fun x => s.engSrc c e g x).getD 0
          seq := seq, bad := none, next := 0, flight := .empty, rows := [], window := .empty, winNo := 0, owned := .empty, done := false }
      let bad := s.transferBad g t
      let t := { t with bad := bad }
      match if bad.isSome then .ok s KMap.empty else s.takeOwners c e slot g.ctx t (if op = 4 then [] else (List.range t.pieces.length).zip t.pieces) with
      | .wait n => s.request n
      | .bad _ _ => s
      | .ok s owned =>
        let s := if op = 5 ∧ bad.isNone then s.tregPend g t else s
        s.setEng c e { g with slots := g.slots.set slot { t with owned := owned } }.advance

def execTcopy (a : Args) (s : State) : Host.Outcome State Fault Refusal := s.issueTransfer a (specTcopy a.view) 0 a.sa a.sb Src.zero none
def execTexp (a : Args) (s : State) : Host.Outcome State Fault Refusal := s.issueTransfer a (specTexp a.view) 1 Src.zero a.sb a.sc (some a.sa)
def execTpack (a : Args) (s : State) : Host.Outcome State Fault Refusal := s.issueTransfer a (specTpack a.view) 2 a.sa a.sb a.sc none
def execTgath (a : Args) (s : State) : Host.Outcome State Fault Refusal := s.issueTransfer a (specTgs a.view) 3 a.sa a.sb a.sc none
def execTscat (a : Args) (s : State) : Host.Outcome State Fault Refusal := s.issueTransfer a (specTgs a.view) 4 a.sa a.sb a.sc none
def execTreg (a : Args) (s : State) : Host.Outcome State Fault Refusal := s.issueTransfer a (specTreg a.view) 5 a.sa Src.zero Src.zero (some a.sb)

end Sys2Proof.Machine
end

