-- ==== Sys2Proof/Machine/System.lean ====
section
/-!
DEFINITION. Sys2Proof/Machine/System.lean: the registers of R356 to R360 as software reads and writes them, with core.sram (R220), die.hport (R425), die.fport (R429),
die.gov (R461) and die.retire (R464); TLBINV (R361); popping and resolving lantern records (R353, R362, R363); the lantern registers of a VF (R374).
-/
namespace Sys2Proof.Machine

open Sys2Proof

-- ---------------------------------------------------------------------------------------------
-- What the privileged instructions share (R354)

/-- A privileged instruction: it executes once for the bundle, at steward or firmware privilege. -/
def State.sysInstr (s : State) (v : View) (o : OpSpec) (body : Here → W32 → State → Acc Outs) : Host.Outcome State Fault Refusal :=
  s.flightInstr v o { priv := true, once := true } body

/-- A uniform source of the bundle. -/
def State.uniSrc (s : State) (h : Here) (g : W32) (x : Src) (wide : Bool) : W64 :=
  (s.readSrc h.c h.f h.r ((lanesOf g).headD 0) x wide).bits

/-- A 64-bit result in the destination of a bundle. -/
def onceOut (v : View) (g : W32) (y : W64) : Outs := laneOuts true g fun _ => writeDst v.dst true y none

/-- Every thread of exec goes on with no result. -/
def noOut (g : W32) : Outs := { lanes := (lanesOf g).map fun l => ⟨l, .done Val.zero [], .next⟩ }

/-- Whether a context is open to another's system instructions (R354): firmware reaches every one that is not FREE, a steward its own and those of VFs that map its
partition. -/
def State.reaches (s : State) (own c : Nat) : Bool :=
  decide (c ≤ 4095) && (s.ctx c).st != .free && (isFirmware own || (isPrivileged own && (s.partOf c).isSome && s.partOf c == s.partOf own))

/-- The clusters of the partition of a steward. -/
def State.clustersOf (s : State) (own : Nat) : Nat := bitsN (s.part (own - 1)).desc.toNat 0 32

/-- Whether a core's registers are open to a context's system instructions (R357). -/
def State.reachesCore (s : State) (own c : Nat) : Bool :=
  decide (c < 128) && (isFirmware own || (isPrivileged own && (s.clustersOf own).testBit (c / 4)))

/-- Whether a context has a resident flight or an engine thread that is running, held or paused (R358). -/
def State.occupied (s : State) (c : Nat) : Bool :=
  s.cores.entries.any fun k => k.2.flights.entries.any (fun f => f.2.ctx == c) || k.2.engs.entries.any fun e => e.2.ctx == c && e.2.active

/-- Every TLB entry of a context that a test names goes (R339, R340). -/
def State.dropTlb (s : State) (ctx : Nat) (p : TlbE → Bool) : State :=
  { s with cores := s.cores.mapV fun _ k => { k with tlb := k.tlb.filter fun e => !(e.ctx == ctx && p e) } }

-- ---------------------------------------------------------------------------------------------
-- Lantern slots

/-- What a lantern slot holds, and whether a word of it is poisoned; or that it cannot be read. -/
inductive SlotRd where
  | ok (recd : Nat) (psn : Bool)
  | bad
  | wait (n : Need)
deriving DecidableEq, Repr

def State.readSlot (s : State) (c q : Nat) : State × SlotRd :=
  let a := (s.ctx c).slotAddr q
  match s.lookSec (s.funcOf c) (a / 64) with
  | .ok s (d, p) => (s, .ok (secNum d (a % 64) 32) (p &&& wordsTouched (maskOf (a % 64) 32) != 0))
  | .bad _ _ => (s, .bad)
  | .wait n => (s, .wait n)

/-- STATE and OUTCOME of a slot's bytes (R350). -/
def slotState (recd : Nat) : Nat := bitsN recd 224 2
def slotOutcome (recd : Nat) : Bool := recd.testBit 226

/-- Write the byte of a slot that holds STATE and OUTCOME, as a coherent write at .dv. False where it cannot be written. -/
def State.writeSlot (s : State) (c q byte : Nat) : Acc Bool :=
  let a := (s.ctx c).slotAddr q + 28
  match s.writeAtHome none (s.funcOf c) (a / 64) false true (numSec (byte % 256) (a % 64)) (maskOf (a % 64) 1) 0 with
  | .ok s _ => .ok s true
  | .bad _ _ => .ok s false
  | .wait n => .wait n

/-- Whether no slot of a lantern is taken or resolved, and none pending (R358). A slot that cannot be read has no state. -/
def State.lanternIdle (s : State) (c : Nat) : Acc Bool :=
  let x := s.ctx c
  if x.lhead ≠ x.ltail then .ok s false
  else
    (List.range (2 ^ x.lsize)).foldl (fun (acc : Acc Bool) q => acc.bind fun s ok =>
      match s.readSlot c q with
      | (s, .ok r _) => .ok s (ok && slotState r < 2)
      | (s, .bad) => .ok s ok
      | (_, .wait n) => .wait n) (.ok s true)

-- ---------------------------------------------------------------------------------------------
-- Retired cores and spares (R19, R464)

/-- Whether a core holds a resident block, at home there or spread over it (R299). -/
def State.hasBlock (s : State) (c : Nat) : Bool :=
  s.cores.entries.any fun k => k.2.blocks.entries.any fun b => b.2.cores.contains c && (!b.2.ended || b.2.granted)

/-- The L1 of a core is written back and emptied, and its registrations are released (R220). -/
def State.flushL1 (s : State) (c : Nat) : State :=
  (uniqN ((s.core c).l1.keys ++ s.l2.keys)).foldl (fun (s : State) k =>
    let s := (s.recallFrom k (BitVec.allOnes 16) c).dropL1 c k
    let h := s.home k
    s.setHome k { h with sharers := h.sharers.filter fun x => x != c }) s

/-- A write of die.retire (R464): a bit changes only where its physical core holds no resident block. A spare keeps the position it serves while that position is
retired or holds a block; free spares take the lowest positions that nothing serves. -/
def State.writeRetire (s : State) (d : Nat) (ret : BitVec 34) : State :=
  let x := s.die d
  let busy (p : Nat) : Bool := match x.serves p with
    | some l => s.hasBlock (32 * d + l)
    | none => false
  let eff : BitVec 34 := (List.range 34).foldl (fun (m : BitVec 34) p =>
    if busy p then m else if ret.getLsbD p then m ||| (1#34 <<< p) else m &&& ~~~(1#34 <<< p)) x.retire
  let keep (spare : Nat) (m : Option Nat) : Option Nat :=
    if eff.getLsbD spare then none
    else match m with
      | some l => if eff.getLsbD l || s.hasBlock (32 * d + l) then some l else none
      | none => none
  let m0 := keep 32 x.map0
  let m1 := keep 33 x.map1
  let need := (List.range 32).filter fun l => eff.getLsbD l && m0 != some l && m1 != some l
  let take (spare : Nat) (m : Option Nat) (l : Option Nat) : Option Nat := if eff.getLsbD spare then none else m.orElse fun _ => l
  let m0' := take 32 m0 need.head?
  let m1' := take 33 m1 (if m0 = none ∧ m0' ≠ none then need[1]? else need.head?)
  let y := { x with retire := eff, map0 := m0', map1 := m1' }
  -- a logical number that another physical core serves from now on starts with nothing cached
  let moved (l : Nat) : Bool :=
    (List.range 34).find? (fun p => x.serves p == some l) != (List.range 34).find? (fun p => y.serves p == some l)
  let s := (List.range 32).foldl (fun (s : State) l =>
    if moved l && s.cores.has (32 * d + l) then
      let s := s.flushL1 (32 * d + l)
      let k := s.core (32 * d + l)
      s.setCore (32 * d + l) { k with tlb := [], icache := .empty, errc := 0, spk := 0, lost := false, lastCtx := none, engs := .empty, cbs := .empty }
    else s) s
  s.setDie d y

-- ---------------------------------------------------------------------------------------------
-- The split of a core's SRAM (R220)

/-- Whether a block is resident on a core: at home there, or spread over it (R299). -/
def State.coreBlocks (s : State) (c : Nat) : Bool := s.cores.entries.any fun k => k.2.blocks.entries.any fun b => b.2.cores.contains c

/-- A change of SPK: it takes effect on a core without a resident block and without a running engine thread, for 0 to 9. The L1 is flushed, and BUSY is 1 until time
passes (assumption 79, DESIGN CHOICE). -/
def State.setSpk (s : State) (c spk : Nat) : State :=
  let k := s.core c
  if s.coreBlocks c || k.engs.entries.any (fun e => e.2.active) || spk > 9 || spk = k.spk then s
  else
    let s := s.flushL1 c
    s.setCore c { s.core c with spk := spk, busy := true, zeroed := false }

def Core.sramWord (k : Core) : Nat := k.spk % 16 + b2n k.busy * 2 ^ 8

-- ---------------------------------------------------------------------------------------------
-- Die registers

def Port.hostWord (p : Port) : Nat :=
  b2n p.up + b2n p.viral * 2 + b2n p.ide * 4 + p.spares % 4 * 2 ^ 3 + b2n p.slow * 2 ^ 5 + p.c1 % 2 ^ 16 * 2 ^ 16 + p.c2 % 2 ^ 16 * 2 ^ 32

def Port.fabWord (p : Port) : Nat :=
  b2n p.up + b2n p.viral * 2 + b2n p.lost * 4 + b2n p.ide * 8 + p.spares % 4 * 2 ^ 4 + b2n p.slow * 2 ^ 6 + p.peer.toNat * 2 ^ 16
    + p.c1 % 2 ^ 16 * 2 ^ 32

/-- How many fabric ports a die has (R24). -/
def State.fabPorts (s : State) : Nat := if s.build = .gzC then 4 else 8

/-- The host port of a die: dies 0 and 1 of GZ-C (R24, R425). -/
def State.hostPortOf (s : State) (d : Nat) : Option Port := if s.build = .gzC ∧ d < 2 then (s.die d).hostPort else none

def Gov.word (g : Gov) : Nat :=
  g.freq % 256 + g.fmin % 256 * 2 ^ 8 + g.pwr % 2 ^ 16 * 2 ^ 16 + g.plim % 2 ^ 16 * 2 ^ 32 + b2n g.throt * 2 ^ 48

/-- The build's largest power limit (R460). -/
def plimOf (build : Build) : Nat := if build = .gzC then 4600 else 1200

/-- A write of die.gov (R461): an FMIN outside 12 to 36 is ignored, PLIM is capped. -/
def State.writeGov (s : State) (y : Nat) : State :=
  let fmin := bitsN y 8 8
  { s with gov := { s.gov with
      fmin := if 12 ≤ fmin ∧ fmin ≤ 36 then fmin else s.gov.fmin
      plim := min (bitsN y 32 16) (plimOf s.build) } }

def mapField (m : Option Nat) : Nat := match m with
  | some p => p % 32 + 2 ^ 5
  | none => 0

def Die.retireWord (d : Die) : Nat := d.retire.toNat + mapField d.map0 * 2 ^ 34 + mapField d.map1 * 2 ^ 40

/-- A die register, and none for an index that R357 does not list. -/
def State.dieRead (s : State) (d reg : Nat) : Option Nat :=
  if reg = 0x200 then some (s.die d).errc.toNat
  else if reg = 0x201 then some (s.keyFree % 2 ^ 12)
  else if reg = 0x202 then some (((s.hostPortOf d).map Port.hostWord).getD 0)
  else if reg = 0x203 then some s.gov.word
  else if reg = 0x204 then some (s.die d).retireWord
  else if 0x210 ≤ reg ∧ reg ≤ 0x217 then
    some (if reg - 0x210 < s.fabPorts then ((s.die d).fports.getD (reg - 0x210) Port.reset).fabWord else 0)
  else none

/-- Firmware writes a die register: read-only fields stay. -/
def State.dieWrite (s : State) (d reg : Nat) (y : W64) : Option State :=
  let x := s.die d
  if reg = 0x200 then some (s.setDie d { x with errc := y })
  else if reg = 0x202 then
    some (match s.hostPortOf d with
      | some p => s.setDie d { x with hostPort := some { p with c1 := bitsN y.toNat 16 16, c2 := bitsN y.toNat 32 16 } }
      | none => s)
  else if reg = 0x203 then some (s.writeGov y.toNat)
  else if reg = 0x204 then some (s.writeRetire d (y.setWidth 34))
  else if 0x210 ≤ reg ∧ reg ≤ 0x217 then
    some (if reg - 0x210 < s.fabPorts then
        let p := x.fports.getD (reg - 0x210) Port.reset
        s.setDie d { x with fports := x.fports.set (reg - 0x210) { p with c1 := bitsN y.toNat 32 16 } }
      else s)
  else none

-- ---------------------------------------------------------------------------------------------
-- Context registers

def State.ctxRead (s : State) (c reg : Nat) : Option W64 :=
  let x := s.ctx c
  match reg with
  | 0x20 => some x.hbase
  | 0x21 => some x.hlimit
  | 0x22 => some x.hoffset
  | 0x23 => some x.tvec
  | 0x24 => some x.lbase
  | 0x25 => some x.ptroot
  | 0x26 => some (BitVec.ofNat 64 x.lsize)
  | 0x27 => some (BitVec.ofNat 64 x.lhead)
  | 0x28 => some (BitVec.ofNat 64 x.ltail)
  | 0x29 => some (BitVec.ofNat 64 (s.funcOf c))
  | _ => none

/-- A write to one of the registers that translate a context's addresses (R340, R357, R358): false while the context is in use. -/
def State.writeTranslation (s : State) (c reg : Nat) (y : W64) : State × Bool :=
  if s.occupied c then (s, false)
  else
    let x := s.ctx c
    let hi := y &&& ~~~0xFFFF#64
    let x' : Option Ctx := match reg with
      | 0x20 => some { x with hbase := hi }
      | 0x21 => some { x with hlimit := hi }
      | 0x22 => some { x with hoffset := hi }
      | 0x25 => some { x with ptroot := y &&& ~~~0xFFF#64 }
      | _ => none
    match x' with
    | some x' => ((s.setCtx c x').dropTlb c fun _ => true, true)
    | none => (s, false)

/-- A write to a context register (R357, R358, R360): false for FORBIDDEN. -/
def State.ctxWrite (s : State) (c reg : Nat) (y : W64) : Acc Bool :=
  if reg = 0x23 then .ok (s.setCtx c { s.ctx c with tvec := y &&& ~~~3#64 }) true
  else if reg = 0x24 then
    (s.lanternIdle c).bind fun s ok => if ok then .ok (s.setCtx c { s.ctx c with lbase := y }) true else .ok s false
  else if reg = 0x26 then
    if y.toNat % 16 < 4 then .ok s false
    else (s.lanternIdle c).bind fun s ok => if ok then .ok (s.setCtx c { s.ctx c with lsize := y.toNat % 16 }) true else .ok s false
  else
    let r := s.writeTranslation c reg y
    .ok r.1 r.2

-- ---------------------------------------------------------------------------------------------
-- CSR addresses (R356, R360)

/-- The fields of a CSR address: register, level, unit, and whether its reserved bits are zero. -/
def csrReg (x : Nat) : Nat := bitsN x 0 10
def csrLevel (x : Nat) : Nat := bitsN x 10 2
def csrUnit (x : Nat) : Nat := bitsN x 12 12

/-- CSRR: the register that an address names, read by a context (R357), or none for FORBIDDEN. -/
def State.csrRead (s : State) (own x : Nat) : Option W64 :=
  let u := csrUnit x
  if x / 2 ^ 24 ≠ 0 then none
  else if csrLevel x = 0 then (if s.reaches own u then s.ctxRead u (csrReg x) else none)
  else if csrLevel x = 1 then
    if !s.reachesCore own u then none
    else if csrReg x = 0x100 then some (BitVec.ofNat 64 (s.core u).sramWord)
    else if csrReg x = 0x101 then some (s.core u).errc
    else none
  else if csrLevel x = 2 ∧ u < 4 then (s.dieRead u (csrReg x)).map (BitVec.ofNat 64)
  else none

/-- CSRW: false for FORBIDDEN, before any change. -/
def State.csrWrite (s : State) (own x : Nat) (y : W64) : Acc Bool :=
  let u := csrUnit x
  if x / 2 ^ 24 ≠ 0 then .ok s false
  else if csrLevel x = 0 then (if s.reaches own u then s.ctxWrite u (csrReg x) y else .ok s false)
  else if csrLevel x = 1 then
    if !s.reachesCore own u then .ok s false
    else if csrReg x = 0x100 ∧ isFirmware own then .ok (s.setSpk u (y.toNat % 16)) true
    else if csrReg x = 0x101 then .ok (s.setCore u { s.core u with errc := y }) true
    else .ok s false
  else if csrLevel x = 2 ∧ u < 4 ∧ isFirmware own then
    match s.dieWrite u (csrReg x) y with
    | some s => .ok s true
    | none => .ok s false
  else .ok s false

/-- CSRR (R360). -/
def execCsrr (a : Args) (s : State) : Host.Outcome State Fault Refusal :=
  let v := a.view
  s.sysInstr v (specCsrr v) fun h g s =>
    match s.csrRead h.f.ctx (s.uniSrc h g v.sa false).toNat with
    | some y => .ok s (onceOut v g y)
    | none => .ok s (trapLanes g tFORBIDDEN 1)

/-- CSRW (R360). -/
def execCsrw (a : Args) (s : State) : Host.Outcome State Fault Refusal :=
  let v := a.view
  s.sysInstr v (specCsrw v) fun h g s =>
    (s.csrWrite h.f.ctx (s.uniSrc h g v.sa false).toNat (s.uniSrc h g v.sbSrc true)).bind fun s ok =>
      .ok s (if ok then noOut g else trapLanes g tFORBIDDEN 1)

-- ---------------------------------------------------------------------------------------------
-- TLBINV (R361)

/-- Whether a page of a leaf meets [a, a + n). -/
def TlbE.meets (e : TlbE) (a n : Nat) : Bool := decide (e.va.toNat < a + n ∧ a < e.va.toNat + 2 ^ e.bits)

/-- Whether some engine thread of a context has read a piece that has not landed. -/
def State.piecesOut (s : State) (ctx : Nat) : Bool :=
  s.cores.entries.any fun k => k.2.engs.entries.any fun e => e.2.ctx == ctx && !e.2.inFlight.isEmpty

/-- TLBINV (R361). -/
def execTlbinv (a : Args) (s : State) : Host.Outcome State Fault Refusal :=
  let v := a.view
  s.sysInstr v (specTlbinv v) fun h g s =>
    let c := (s.uniSrc h g v.sa false).toNat
    let va := v.o 0 1 = 1
    let base := (s.uniSrc h g v.sbSrc true).toNat
    let len := (s.uniSrc h g v.sc true).toNat
    if !s.reaches h.f.ctx c then .ok s (trapLanes g tFORBIDDEN 1)
    else if va ∧ base % 4096 ≠ 0 then .ok s (trapLanes g tMISALIGNED 2)
    else if va ∧ len % 4096 ≠ 0 then .ok s (trapLanes g tMISALIGNED 3)
    else
      (s.release h.c h.f.ctx 4).bind fun s _ =>
        if va ∧ len = 0 then .ok (s.acquire h.c 4 false) (noOut g)
        else if s.piecesOut c then .wait .held
        else .ok ((s.dropTlb c fun e => !va || e.meets base len).acquire h.c 4 false) (noOut g)

-- ---------------------------------------------------------------------------------------------
-- LQPOP and LQDONE

/-- LQPOP's step (R362): the DST value. A slot that cannot be written halts the context whose lantern failed. -/
def State.lqPop (s : State) (c : Nat) : Acc W64 :=
  let x := s.ctx c
  if x.lhead = x.ltail then .ok s 0
  else
    let failed (s : State) : Acc W64 := .ok (s.trapContext c causeLanternFault (BitVec.ofNat 64 (x.slotAddr x.lhead))) 0
    match s.readSlot c x.lhead with
    | (_, .wait n) => .wait n
    | (s, .bad) => failed s
    | (s, .ok r _) =>
      (s.writeSlot c x.lhead (r / 2 ^ 224 % 256 / 4 * 4 + 2)).bind fun s ok =>
        if !ok then failed s
        else .ok (s.setCtx c { s.ctx c with lhead := (x.lhead + 1) % 2 ^ 16 }) (BitVec.ofNat 64 (2 ^ 63 + x.lhead))

/-- A paused engine thread resumes, or ends with the record's cause (R295, R353). -/
def State.resolveEngine (s : State) (c seq core e cause : Nat) (rfs : Bool) : State :=
  let g := s.eng core e
  let paused : Bool := match g.run with
    | .paused _ => true
    | _ => false
  if g.ctx ≠ c ∨ g.lrec ≠ some seq ∨ !paused then s
  else if !rfs then s.setEng core e { g with run := .running, lrec := none }
  else
    let s := s.setEng core e { g with run := .ended true cause, lrec := none, load := none, slots := .empty }
    (s.joinRelease core g.gen).releaseSpad g.home g.block

/-- The outcome of a record applies (R353). -/
def State.applyOutcome (s : State) (c recd : Nat) (rfs : Bool) : State :=
  let ty := bitsN recd 0 4
  let seq := bitsN recd 48 16
  if ty = 1 then
    let res : Resolved := if rfs then .refused else .retry
    { s with cores := s.cores.mapV fun _ k =>
        if k.flights.entries.any fun f => f.2.ctx == c then
          { k with flights := k.flights.mapV fun _ f =>
              if f.ctx = c then { f with toks := f.toks.mapV fun _ t => if t.lrec = some seq then { t with res := res } else t } else f }
        else k }
  else if ty = 3 then s.resolveEngine c seq (bitsN recd 32 7) (bitsN recd 24 3) (bitsN recd 8 8) rfs
  else s

/-- LQDONE's step (R353, R363): false for FORBIDDEN. -/
def State.lqDone (s : State) (c : Nat) (handle : W64) (rfs : Bool) : Acc Bool :=
  let h := handle.toNat
  let q := h % 2 ^ 16
  let x := s.ctx c
  let failed (s : State) : Acc Bool := .ok (s.trapContext c causeLanternFault (BitVec.ofNat 64 (x.slotAddr q))) true
  if h / 2 ^ 63 = 0 ∨ bitsN h 16 47 ≠ 0 then .ok s false
  else
    match s.readSlot c q with
    | (_, .wait n) => .wait n
    | (s, .bad) => failed s
    | (s, .ok _ true) => failed s
    | (s, .ok r false) =>
      if slotState r ≠ 2 ∨ bitsN r 48 16 ≠ q then .ok s false
      else
        let old := r / 2 ^ 224 % 256 / 8 * 8
        if x.st = .saved then
          (s.writeSlot c q (old + 3 + b2n rfs * 4)).bind fun s ok => if ok then .ok s true else failed s
        else
          (s.writeSlot c q (r / 2 ^ 224 % 256 / 4 * 4)).bind fun s ok => if ok then .ok (s.applyOutcome c r rfs) true else failed s

/-- LQPOP (R362). -/
def execLqpop (a : Args) (s : State) : Host.Outcome State Fault Refusal :=
  let v := a.view
  s.sysInstr v (specLqpop v) fun h g s =>
    let c := (s.uniSrc h g v.sa false).toNat
    if !s.reaches h.f.ctx c then .ok s (trapLanes g tFORBIDDEN 1)
    else (s.lqPop c).bind fun s y => .ok (s.acquire h.c 4 false) (onceOut v g y)

/-- LQDONE (R363). -/
def execLqdone (a : Args) (s : State) : Host.Outcome State Fault Refusal :=
  let v := a.view
  s.sysInstr v (specLqdone v) fun h g s =>
    let c := (s.uniSrc h g v.sa false).toNat
    if !s.reaches h.f.ctx c then .ok s (trapLanes g tFORBIDDEN 1)
    else
      (s.release h.c h.f.ctx 4).bind fun s _ =>
        (s.lqDone c (s.uniSrc h g v.sbSrc true) (v.o 0 1 = 1)).bind fun s ok =>
          .ok s (if ok then noOut g else trapLanes g tFORBIDDEN 2)

-- ---------------------------------------------------------------------------------------------
-- The same registers from outside: a driver's lantern registers, firmware's writes

/-- Finish a step of the device that may have to wait. -/
def State.finish {α : Type} (s0 : State) (r : Acc α) (f : State → α → State) : Host.Outcome State Fault Refusal :=
  match r with
  | .ok s x => .next (f s x)
  | .bad _ _ => .next s0
  | .wait n => .next (s0.request n)

/-- Whether a VF's LQSEL names an open context of that VF. -/
def State.lqOwn (s : State) (n : Nat) : Bool :=
  let c := (s.vf n).lqsel
  decide (21 ≤ c) && (s.ctx c).st != .free && (s.ctx c).func == n

/-- VF_LQPOP (R374): the read returns the DST value of LQPOP, 0 for a context that is not of this VF. -/
def execVfLqpop (vf : Nat) (s : State) : Host.Outcome State Fault Refusal :=
  if s.lqOwn vf then
    s.finish (s.lqPop (s.vf vf).lqsel) fun s y => s.emit (.hostData 0x0108 (y.setWidth 512) false)
  else .next (s.emit (.hostData 0x0108 0 false))

/-- A write to LQDONE or LQRFS (R374): a forbidden one sets LQERR and has no other effect. -/
def State.vfDone (s : State) (vf : Nat) (handle : W64) (rfs : Bool) : Host.Outcome State Fault Refusal :=
  let refuse (s : State) : State := s.setVf vf { s.vf vf with lqerr := true }
  if s.lqOwn vf then s.finish (s.lqDone (s.vf vf).lqsel handle rfs) fun s ok => if ok then s else refuse s
  else .next (refuse s)

/-- VF_LQDONE (R374). -/
def execVfLqdone (vf : Nat) (handle : BitVec 64) (s : State) : Host.Outcome State Fault Refusal := s.vfDone vf handle false

/-- VF_LQRFS (R374). -/
def execVfLqrfs (vf : Nat) (handle : BitVec 64) (s : State) : Host.Outcome State Fault Refusal := s.vfDone vf handle true

/-- CORE_SRAM_WRITE (R220): firmware changes a core's split. -/
def execCoreSramWrite (core : Nat) (value : BitVec 64) (s : State) : Host.Outcome State Fault Refusal :=
  .next (if core < 128 then s.setSpk core (value.toNat % 16) else s)

/-- CTX_TRANSLATION_WRITE (R340, R358): firmware writes ctx.ptroot or a heap window register. -/
def execCtxTranslationWrite (ctx reg : Nat) (value : BitVec 64) (s : State) : Host.Outcome State Fault Refusal :=
  .next (if s.reaches 0 ctx then (s.writeTranslation ctx reg value).1 else s)

/-- DIE_RETIRE_WRITE (R464). -/
def execDieRetireWrite (die : Nat) (value : BitVec 64) (s : State) : Host.Outcome State Fault Refusal :=
  .next (if die < 4 then s.writeRetire die (value.setWidth 34) else s)

/-- DIE_GOV_WRITE (R461). -/
def execDieGovWrite (die : Nat) (value : BitVec 64) (s : State) : Host.Outcome State Fault Refusal :=
  .next (if die < 4 then s.writeGov value.toNat else s)

/-- REGISTER_WRITE: firmware's write to a CSR (R360), a driver's to LQSEL or LQERR (R374), or a mailbox argument word (R370), written while no command is in
progress. -/
def execRegisterWrite (reg : RegRef) (value : BitVec 64) (s : State) : Host.Outcome State Fault Refusal :=
  match reg with
  | .csr a => s.finish (s.csrWrite 0 a.toNat value) fun s _ => s
  | .lqsel n => .next (if n < 128 then s.setVf n { s.vf n with lqsel := value.toNat % 2 ^ 12 } else s)
  | .lqerr n => .next (if n < 128 ∧ value.getLsbD 0 then s.setVf n { s.vf n with lqerr := false } else s)
  | .arg func word =>
    let m := s.mailbox func
    .next (if func ≤ 128 ∧ word < 8 then
        { s with mail := s.mail.set func { m with arg := BitVec.ofNat 512 (m.arg.toNat - bitsN m.arg.toNat (64 * word) 64 * 2 ^ (64 * word)
                                                                            + value.toNat * 2 ^ (64 * word)) } }
      else s)

end Sys2Proof.Machine
end

