-- ==== Sys2Proof/Machine/Contexts.lean ====
section
/-!
DEFINITION. Sys2Proof/Machine/Contexts.lean: saving and restoring a context (R383 to R391): stopping it, its image and header (R386, R387), freeing its cores, placing it
again, and dropping it.
-/
namespace Sys2Proof.Machine

open Sys2Proof

-- ---------------------------------------------------------------------------------------------
-- What a context holds

/-- The context of the launch that a core holds. A launch that has completed may have left engine threads there, and the block whose scratchpad they use (R293). -/
def State.coreCtx (s : State) (c : Nat) : Option Nat :=
  let k := s.core c
  match k.launch with
  | some l => match s.launch? l with
    | some la => some la.ctx
    | none => ((k.blocks.entries.head?.map (·.2.ctx)).orElse fun _ => (k.engs.entries.find? fun e => e.2.active).map (·.2.ctx))
  | none => none

/-- Whether the odd press of a pair is slaved to a flight of a context (R246). -/
def State.slavedTo (s : State) (c ctx : Nat) : Bool :=
  c % 2 == 1 && (s.core c).press.slaved && match (s.core (c - 1)).press.owner with
    | some fid => (match s.flight? (c - 1) fid with
      | some f => f.ctx == ctx
      | none => false)
    | none => false

/-- Whether a core holds state of a context: flights, blocks, engine threads that have not ended, a place in the spread of a block, or a slaved press. -/
def State.coreHolds (s : State) (c ctx : Nat) : Bool :=
  let k := s.core c
  k.flights.entries.any (fun f => f.2.ctx == ctx) || k.blocks.entries.any (fun b => b.2.ctx == ctx)
    || k.engs.entries.any (fun e => e.2.ctx == ctx && e.2.active) || s.slavedTo c ctx
    || s.cores.entries.any fun x => x.2.blocks.entries.any fun b => b.2.ctx == ctx && b.2.cores.contains c

/-- The cores that hold state of a context, lowest first. -/
def State.coresOf (s : State) (ctx : Nat) : List Nat := (s.cores.keys).filter fun c => s.coreHolds c ctx

/-- Every thread and engine thread of a context stops (R379, R385). A piece that lands at the stop may saturate a barrier. -/
def State.stopCtx (s : State) (ctx : Nat) : State :=
  let r := ((s.preemptRuns ctx).stopHolds ctx).stopEngines ctx
  (List.range r.2).foldl (fun (s : State) _ => s.trapContext ctx causeBarrierOverflow 0) r.1

/-- Whether nothing of a context is still landing: its loads, its results of pending latency, its presses' queues (R385). -/
def State.quiet (s : State) (ctx : Nat) : Bool :=
  s.cores.entries.all fun k =>
    k.2.flights.entries.all (fun f => f.2.ctx != ctx || (f.2.loads.entries.isEmpty && f.2.longs.entries.isEmpty))
      && ((match k.2.press.owner with
           | some fid => (match k.2.flights.get? fid with
             | some f => f.ctx != ctx
             | none => true)
           | none => true) || (k.2.press.queue.isEmpty && k.2.press.lands.isEmpty))

/-- The release at .sy of every access of a context (R322, R385, R396): its write-combining entries drain on every core, and what any core has written of its function's
remote memory goes home, on whichever core its launches ran. -/
def State.releaseCtx (s : State) (ctx : Nat) : Acc Unit :=
  (s.cores.keys.foldl (fun (acc : Acc Unit) c => acc.bind fun s _ => s.drainWcb c ctx) (.ok s ())).bind fun s _ =>
    let s := s.flushRemote s.cores.keys (· == s.funcOf ctx)
    .ok { s with reqs := s.reqs.filter fun q => !(q.what.isWrite && q.ctx == ctx) } ()

-- ---------------------------------------------------------------------------------------------
-- The image

/-- Whether a context holds the press of a core (R246): a flight of it owns it, or it is slaved to one. -/
def State.pressHeld (s : State) (c ctx : Nat) : Bool :=
  s.slavedTo c ctx || match (s.core c).press.owner with
    | some fid => ((s.flight? c fid).elim false fun f => f.ctx == ctx)
    | none => false

/-- What is saved of one core: of a flight, everything but its slot and its age counters (R187). -/
def State.saveCore (s : State) (ctx c : Nat) : SavedCore :=
  let k := s.core c
  let own := s.coreCtx c == some ctx
  { core := c, spk := k.spk, launch := if own then k.launch else none
    flights := (k.flights.filter fun _ f => f.ctx == ctx).mapV fun _ f => { f with slot := 0, waited := 0, overdue := false, yielded := false }
    blocks := k.blocks.filter fun _ b => b.ctx == ctx
    nextKey := k.nextKey
    grantQ := if own then k.grantQ else []
    cbs := if own then k.cbs else .empty
    press := if s.pressHeld c ctx then { k.press with waiting := [], asked := [], claim := false } else .reset
    engs := k.engs.filter fun _ e => e.ctx == ctx
    nextFork := if own then k.nextFork else 0
    forks := if own then k.forks else .empty }

/-- Whether a saved core holds a press: an owner, or a slaved odd press. -/
def SavedCore.presses (x : SavedCore) : Nat := if x.press.owner.isSome || x.press.slaved then 1 else 0

def savedEngines (xs : List SavedCore) : Nat :=
  xs.foldl (fun n x => n + (x.engs.entries.filter fun e => e.2.active).length) 0
def savedBlocks (xs : List SavedCore) : Nat := xs.foldl (fun n x => n + x.blocks.entries.length) 0
def savedFlights (xs : List SavedCore) : Nat := xs.foldl (fun n x => n + x.flights.entries.length) 0
def savedPresses (xs : List SavedCore) : Nat := xs.foldl (fun n x => n + x.presses) 0

/-- LEN (R387). -/
def State.imageLen (s : State) (xs : List SavedCore) : Nat :=
  256 + 640 * xs.length
    + xs.foldl (fun n x => n + x.blocks.entries.foldl (fun n b => n + 256 + kSpad (s.kdesc b.2.launch)) 0) 0
    + xs.foldl (fun n x => n + x.flights.entries.foldl (fun n f => n + 4096 + 132 * f.2.allot) 0) 0
    + 512 * savedEngines xs + 304192 * savedPresses xs

/-- Header bytes 0 to 239 as a number (R386). -/
def imageHeader (func ctx counter len : Nat) (xs : List SavedCore) (halted : Bool) (cause : Nat) : Nat :=
  0x49585443 + 2 ^ 32 + func % 256 * 2 ^ 40 + ctx % 4096 * 2 ^ 48 + counter % 2 ^ 64 * 2 ^ 64 + len % 2 ^ 32 * 2 ^ 128
    + xs.length % 2 ^ 16 * 2 ^ 160 + savedEngines xs % 2 ^ 16 * 2 ^ 176 + savedBlocks xs % 2 ^ 32 * 2 ^ 192
    + savedFlights xs % 2 ^ 32 * 2 ^ 224 + savedPresses xs % 2 ^ 8 * 2 ^ 256 + b2n halted * 2 ^ 264
    + (if halted then cause % 256 * 2 ^ 272 else 0)
    + counter % 2 ^ 64 * 2 ^ 1792 + ctx % 2 ^ 16 * 2 ^ 1856 + func % 256 * 2 ^ 1872

/-- The bytes of an image: the header, its tag and the ciphertext. The last two are free bytes (assumption 10, DESIGN CHOICE). -/
def imageBytes (header len seed : Nat) : List Byte :=
  bytesN header 240 ++ (List.range (len - 240)).map fun k => Config.freeCipher seed k

/-- Write bytes at a guest-physical address at home memory, sector by sector; the address of a write that fails. -/
def State.writeImage (s : State) (func gpa : Nat) : Nat → List Byte → Acc (Option Nat)
  | 0, _ => .ok s none
  | n + 1, bs =>
    if bs.isEmpty then .ok s none
    else
      let here := bs.take 64
      match s.writeAtCtl none func (gpa / 64) false false (numSec (numOfBytes here) 0) (maskOf 0 here.length) 0 with
      | .ok s _ => s.writeImage func (gpa + 64) n (bs.drop 64)
      | .bad _ _ => .ok s (some gpa)
      | .wait n => .wait n

/-- Read n bytes at a guest-physical address at home memory: none where a read fails or returns poison. -/
def State.readImage (s : State) (func gpa : Nat) : Nat → Nat → List Byte → Acc (Option (List Byte))
  | 0, _, acc => .ok s (some acc)
  | fuel + 1, n, acc =>
    if n = 0 then .ok s (some acc)
    else
      let k := min n 64
      match s.readAtCtl func (gpa / 64) false false with
      | .ok s (d, p) =>
        if p &&& wordsTouched (maskOf 0 k) != 0 then .ok s none
        else s.readImage func (gpa + 64) fuel (n - k) (acc ++ bytesN (secNum d 0 k) k)
      | .bad _ _ => .ok s none
      | .wait n => .wait n

/-- Whether [g, g + lim) lies wholly in writable local extents of a function (R385). -/
def State.covered (s : State) (func g lim : Nat) : Bool :=
  lim == 0 || (List.range ((g + lim - 1) / 65536 - g / 65536 + 1)).all fun k =>
    match s.extent func ((g / 65536 + k) * 65536) with
    | some e => e.tgt == 0 && e.wr
    | none => false

-- ---------------------------------------------------------------------------------------------
-- Freeing and placing

/-- A core without what a context held on it (R385). -/
def State.freeCore (s : State) (ctx c : Nat) : State :=
  let k := s.core c
  if s.coreCtx c == some ctx then
    -- waiters of the press are flights of the core's one launch, and a claim on it from the even core stays
    let p := { Press.reset with slaved := k.press.slaved && !s.slavedTo c ctx, claim := k.press.claim }
    s.setCore c { k with
      flights := .empty, blocks := .empty, grantQ := [], cbs := .empty, engs := .empty, nextFork := 0, forks := .empty, launch := none, press := p }
  else
    s.setCore c { k with
      press := if s.slavedTo c ctx then { k.press with slaved := false, z0 := .cleared, z1 := .cleared } else k.press
      engs := k.engs.filter fun _ e => e.ctx != ctx }

/-- Every core gives up what it holds of a context, also one that a launch of it has taken and admitted nothing to yet; odd cores first, which know a slaved press by its even
core's owner. -/
def State.freeCtx (s : State) (ctx : Nat) : State :=
  let cs := s.cores.keys.filter fun c => s.coreHolds c ctx || s.coreCtx c == some ctx
  let s := (cs.filter fun c => c % 2 = 1).foldl (fun (s : State) c => s.freeCore ctx c) s
  let s := (cs.filter fun c => c % 2 = 0).foldl (fun (s : State) c => s.freeCore ctx c) s
  { s with
    groups := s.groups.filter fun _ g => match s.launch? g.launch with
      | some la => la.ctx != ctx
      | none => true
    launches := s.launches.mapV fun _ la => if la.ctx = ctx then { la with cores := la.cores.filter fun c => !cs.contains c } else la }

/-- A restored flight: its age counters and readiness start afresh (R187). -/
def Flight.restored (f : Flight) (slot : Nat) : Flight :=
  { f with
    slot := slot, run := none, waited := 0, overdue := false, yielded := false, wideAt := none
    threads := f.threads.mapV fun _ t => { t with agedCount := 0, aged := false, stallTo := 0 } }

/-- The slot of a flight that comes to a core (R188): the one that holds the fewest, the lowest on a tie. -/
def Core.slotFor (k : Core) : Nat :=
  let count (i : Nat) : Nat := (k.flights.entries.filter fun f => f.2.slot == i).length
  (List.range 4).foldl (fun best i => if count i < count best then i else best) 0

/-- Bring saved flights to a core. Their slots, which are not saved and which R219 does not promise, are those that R188 gives at an admission in order of their keys
(assumption 81, DESIGN CHOICE). -/
def Core.bring (k : Core) (fs : KMap Flight) : Core :=
  fs.entries.foldl (fun (k : Core) f => { k with flights := k.flights.set f.1 (f.2.restored k.slotFor) }) k

/-- Place what was saved of one core on the same logical core (R389). -/
def State.placeCore (s : State) (ctx : Nat) (x : SavedCore) : State :=
  match x.launch with
  | none =>
    let k := s.core x.core
    s.setCore x.core { k with press := { k.press with z0 := x.press.z0, z1 := x.press.z1, slaved := x.press.slaved }, engs := x.engs }
  | some l =>
    let s := s.setSpk x.core x.spk
    let k := s.core x.core
    let k := { k with flights := .empty }.bring x.flights
    let s := s.setCore x.core { k with
      launch := some l, lastCtx := some ctx, zeroed := k.lastCtx != some ctx, blocks := x.blocks
      nextKey := max k.nextKey x.nextKey, grantQ := x.grantQ, cbs := x.cbs, engs := x.engs, nextFork := x.nextFork, forks := x.forks
      press := { x.press with claim := k.press.claim }, icache := .empty }
    match s.launch? l with
    | some la => { s with launches := s.launches.set l { la with cores := insertN x.core la.cores } }
    | none => s

/-- Outcomes that the lantern holds for a context that was saved out apply, and their slots are freed (R353, R389). A slot that cannot be read or written is passed
over. -/
def State.applyHeld (s : State) (ctx : Nat) : Acc Unit :=
  (List.range (2 ^ (s.ctx ctx).lsize)).foldl (fun (acc : Acc Unit) q => acc.bind fun s _ =>
    match s.readSlot ctx q with
    | (_, .wait n) => .wait n
    | (s, .bad) => .ok s ()
    | (s, .ok r _) =>
      if slotState r ≠ 3 then .ok s ()
      else (s.writeSlot ctx q (r / 2 ^ 224 % 256 / 8 * 8)).bind fun s ok => .ok (if ok then s.applyOutcome ctx r (slotOutcome r) else s) ()) (.ok s ())

/-- A context's launches end without completing, and the task packets that it sent complete no node any more (R385, R397). -/
def State.discardLaunches (s : State) (ctx : Nat) : State :=
  { s with
    launches := s.launches.filter fun _ la => la.ctx != ctx
    packets := s.packets.mapV fun _ p => if p.sent && p.sctx == ctx then { p with node := none } else p }

/-- A context's RUNNING nodes leave their ids empty, keeping the counts (R397). -/
def State.discardNodes (s : State) (ctx : Nat) : State :=
  { s with parts := s.parts.mapV fun _ p => { p with nodes := p.nodes.filter fun _ n => !(bitsN n.recd.toNat 16 12 == ctx && n.st == .running) } }

/-- The stop and the release of what a context that is not FREE holds (R385, R392). Its stores already issued drain. -/
def State.clearCtx (s : State) (ctx : Nat) : Acc Unit :=
  let s := s.stopCtx ctx
  (s.cores.keys.foldl (fun (acc : Acc Unit) c => acc.bind fun s _ => s.drainWcb c ctx) (.ok s ())).bind fun s _ =>
    let s := (s.freeCtx ctx).discardLaunches ctx
    let x := s.ctx ctx
    .ok (s.setCtx ctx { x with st := .idle, saveCnt := (x.saveCnt + 1) % 2 ^ 64, loadable := false, cause := 0, heldCause := none
                               saving := none, claims := [] }) ()

/-- CTXSAVE.DROP of a context that is not FREE (R385, R397). -/
def State.dropCtx (s : State) (ctx : Nat) : Acc Unit := (s.clearCtx ctx).bind fun s _ => .ok (s.discardNodes ctx) ()

-- ---------------------------------------------------------------------------------------------
-- The instructions

/-- A failure status (R388, R403). -/
def statusOf (code n : Nat) : W64 := BitVec.ofNat 64 (2 ^ 63 + code * 2 ^ 48 + n % 2 ^ 32)

/-- The member stays in progress. -/
def againOut (g : W32) : Outs := { lanes := (lanesOf g).map fun l => ⟨l, .done Val.zero [], .again⟩ }

/-- Whether R384 lets a context act on another. A FREE number is no ground for FORBIDDEN. -/
def State.mayMove (s : State) (own c : Nat) : Bool :=
  decide (21 ≤ c ∧ c ≤ 4095) && ((s.ctx c).st == .free || s.reaches own c)

/-- A result of a step that may have to wait: the member stays in progress meanwhile. -/
def State.orAgain (s0 : State) (g : W32) (r : Acc Outs) : Acc Outs :=
  match r with
  | .wait n => .ok (s0.request n) (againOut g)
  | r => r

/-- Whether the CTXSAVE or CTXLOAD in progress on a context is this member's own. -/
def State.mine (s : State) (h : Here) (ctx : Nat) : Bool := h.r.waiting && (s.ctx ctx).saving == some (h.c, h.fid)

/-- The end of CTXSAVE, once everything of the context has landed: release, size, image, and the context's resources (R385). -/
def State.saveImage (s : State) (ctx g lim : Nat) : Acc W64 :=
  let free (s : State) : State := s.setCtx ctx { s.ctx ctx with saving := none }
  (s.releaseCtx ctx).bind fun s _ =>
    let cs := (s.coresOf ctx).map fun c => s.saveCore ctx c
    let n := s.imageLen cs
    if n > lim then .ok (free s) (statusOf 3 n)
    else
      let x := s.ctx ctx
      let func := s.funcOf ctx
      let counter := (x.saveCnt + 1) % 2 ^ 64
      let header := imageHeader func ctx counter n cs (x.st == .halted) x.cause
      let bytes := imageBytes header n s.free
      (({ s with free := s.free + 1 }).writeImage func g (n / 64 + 1) bytes).bind fun s bad =>
        match bad with
        | some a => .ok ((free s).trapContext ctx causeSaveRefused (BitVec.ofNat 64 a)) (statusOf 4 0)
        | none =>
          let groups := s.groups.filter fun _ gr => match s.launch? gr.launch with
            | some la => la.ctx == ctx
            | none => false
          let image : Image := { ctx := ctx, key := x.key, bytes := bytes, cores := cs, groups := groups }
          let s := s.freeCtx ctx
          let x := s.ctx ctx
          let s := s.setCtx ctx { x with st := .saved, saveCnt := counter, loadable := true, saving := none, cause := 0 }
          .ok { s with images := s.images ++ [image] } (BitVec.ofNat 64 n)

/-- CTXSAVE (R385). -/
def execCtxsave (a : Args) (s : State) : Host.Outcome State Fault Refusal :=
  let v := a.view
  s.sysInstr v (specCtxsave v) fun h g s =>
    let c := (s.uniSrc h g v.sa false).toNat
    let gpa := (s.uniSrc h g v.sbSrc true).toNat
    let lim := (s.uniSrc h g v.sc false).toNat
    let x := s.ctx c
    if !s.mayMove h.f.ctx c then .ok s (trapLanes g tFORBIDDEN 1)
    else if gpa % 256 ≠ 0 then .ok s (trapLanes g tMISALIGNED 2)
    else
      let go (s : State) : Acc Outs :=
        if !s.quiet c then .ok s (againOut g)
        else s.orAgain g ((s.saveImage c gpa lim).bind fun s y => .ok (s.acquire h.c 4 false) (onceOut v g y))
      if s.mine h c then go s
      else if x.st = .free ∨ x.st = .saved then .ok s (onceOut v g (statusOf 1 0))
      else if s.transferring c then .ok s (onceOut v g (statusOf 2 0))
      else if !s.covered (s.funcOf c) gpa lim then .ok s (onceOut v g (statusOf 4 0))
      else
        (s.release h.c h.f.ctx 4).bind fun s _ =>
          let s := s.stopCtx c
          .ok (s.setCtx c { s.ctx c with saving := some (h.c, h.fid), claims := [] }) (againOut g)

/-- CTXSAVE.DROP (R385). -/
def execCtxsaveDrop (a : Args) (s : State) : Host.Outcome State Fault Refusal :=
  let v := a.view
  s.sysInstr v (specCtxsaveDrop v) fun h g s =>
    let c := (s.uniSrc h g v.sa false).toNat
    if !s.mayMove h.f.ctx c then .ok s (trapLanes g tFORBIDDEN 1)
    else if (s.ctx c).st = .free then .ok s (onceOut v g (statusOf 1 0))
    else if s.transferring c then .ok s (onceOut v g (statusOf 2 0))
    else (s.dropCtx c).bind fun s _ => .ok s (onceOut v g 0)

/-- What CTXLOAD makes of the image at an address (R389): a status, or the image to place. -/
def State.readSaved (s : State) (ctx gpa : Nat) : Acc (Except Nat Image) :=
  let x := s.ctx ctx
  let func := s.funcOf ctx
  (s.readImage func gpa 4 256 []).bind fun s hd =>
    match hd with
    | none => .ok s (.error 4)
    | some hb =>
      let n := numOfBytes hb
      let len := bitsN n 128 32
      (s.readImage func gpa (len / 64 + 1) len []).bind fun s all =>
        match all with
        | none => .ok s (.error 4)
        | some bytes =>
          if bitsN n 0 32 ≠ 0x49585443 ∨ bitsN n 32 8 ≠ 1 ∨ bitsN n 48 12 ≠ ctx ∨ bitsN n 40 8 ≠ func ∨ len < 256 then .ok s (.error 6)
          else if bitsN n 64 64 ≠ x.saveCnt ∨ !x.loadable then .ok s (.error 5)
          else
            match s.images.find? fun im => im.ctx == ctx && im.key == x.key && im.bytes == bytes with
            | none => .ok s (.error 6)
            | some im => if im.cores.all fun y => s.corePresent y.core then .ok s (.ok im) else .ok s (.error 7)

/-- Whether a core can take saved state: it holds no launch, and its press is not in use. -/
def State.coreFree (s : State) (c : Nat) : Bool :=
  let k := s.core c
  k.launch.isNone && k.blocks.entries.isEmpty && k.flights.entries.isEmpty && !k.press.slaved

/-- The end of CTXLOAD: every core is placed, held outcomes apply, and the context stands as its image says (R389). -/
def State.loadImage (s : State) (ctx : Nat) (im : Image) : Acc Unit :=
  let s := im.cores.foldl (fun (s : State) y => s.placeCore ctx y) s
  let s := { s with groups := im.groups.entries.foldl (fun (m : KMap Group) (g : Nat × Group) => m.set g.1 g.2) s.groups }
  (s.applyHeld ctx).bind fun s _ =>
    let x := s.ctx ctx
    let n := numOfBytes (im.bytes.take 36)
    let y : Ctx := { x with loadable := false, heldCause := none, saving := none, claims := [] }
    let y : Ctx :=
      if bitsN n 264 1 = 1 then { y with st := .halted, cause := bitsN n 272 8 }
      else match x.heldCause with
        | some (cause, _) => { y with st := .halted, cause := cause }
        | none => { y with st := if im.cores.isEmpty then .idle else .resident, cause := 0 }
    .ok (s.setCtx ctx y) ()

/-- CTXLOAD (R389). A REFUSED event follows IMAGE_FAULT, STALE and TAG. -/
def execCtxload (a : Args) (s : State) : Host.Outcome State Fault Refusal :=
  let v := a.view
  s.sysInstr v (specCtxload v) fun h g s =>
    let c := (s.uniSrc h g v.sa false).toNat
    let gpa := s.uniSrc h g v.sbSrc true
    if !s.mayMove h.f.ctx c then .ok s (trapLanes g tFORBIDDEN 1)
    else if gpa.toNat % 256 ≠ 0 then .ok s (trapLanes g tMISALIGNED 2)
    else if (s.ctx c).st ≠ .saved then .ok s (onceOut v g (statusOf 1 0))
    else if s.transferring c ∧ !s.mine h c then .ok s (onceOut v g (statusOf 2 0))
    else
      s.orAgain g ((s.release h.c h.f.ctx 4).bind fun s _ =>
        (s.readSaved c gpa.toNat).bind fun s r =>
          match r with
          | .error code =>
            let s := s.setCtx c { s.ctx c with saving := none, claims := [] }
            .ok (if code = 7 then s else s.postEvent 2 code c gpa) (onceOut v g (statusOf code 0))
          | .ok im =>
            if im.cores.all fun y => s.coreFree y.core then
              (s.loadImage c im).bind fun s _ => .ok (s.acquire h.c 4 false) (onceOut v g 0)
            else .ok (s.setCtx c { s.ctx c with saving := some (h.c, h.fid), claims := im.cores.map (·.core) }) (againOut g))

/-- CTXLOAD.RES (R389): a halted context goes on, where its cause is resumable. -/
def execCtxloadRes (a : Args) (s : State) : Host.Outcome State Fault Refusal :=
  let v := a.view
  s.sysInstr v (specCtxloadRes v) fun h g s =>
    let c := (s.uniSrc h g v.sa false).toNat
    let x := s.ctx c
    if !s.mayMove h.f.ctx c then .ok s (trapLanes g tFORBIDDEN 1)
    else if x.st ≠ .halted ∨ !resumable x.cause then .ok s (onceOut v g (statusOf 1 0))
    else if s.transferring c then .ok s (onceOut v g (statusOf 2 0))
    else .ok (s.setCtx c { x with st := if s.coresOf c = [] then .idle else .resident, cause := 0 }) (onceOut v g 0)

end Sys2Proof.Machine
end

