-- ==== Sys2Proof/Machine/Reads.lean ====
section
/-!
DEFINITION. Sys2Proof/Machine/Reads.lean: what the dies read for themselves in a context's space: kernel descriptors, constant banks (R394), process-group tables
(R400, R401), chunk graphs, packets and images (R449); and the tiles of a node (R399).
-/
namespace Sys2Proof.Machine

open Sys2Proof

-- ---------------------------------------------------------------------------------------------
-- Tiles

/-- Where each page of a range lies behind both stages: the target and the bytes. Pages that do not translate are left out. -/
def State.rangeTargets (s : State) (ctx : Nat) (va : W64) (len : Nat) : Acc (List (Tgt × Nat)) :=
  (pagesOf va len).foldl (fun (acc : Acc (List (Tgt × Nat))) p => acc.bind fun s xs =>
    match s.dieTranslate ctx p.1 .read with
    | (_, .wait n) => .wait n
    | (s, .ok gpa _) => .ok s (match s.second (s.funcOf ctx) gpa false false with
      | .ok (t, _) => xs ++ [(t, p.2)]
      | .error _ => xs)
    | (s, _) => .ok s xs) (.ok s [])

end Sys2Proof.Machine
end

