-- ==== Sys2Proof/Machine/Trellis.lean ====
section
/-!
DEFINITION. Sys2Proof/Machine/Trellis.lean: node records and the node table (R393 to R397), TGPOST and TGDONE (R402 to R404), dispatch and placement (R398, R399,
R299, R300), admission of blocks (R215, R221), completion (R21, R396), the root program (R392) and time slices (R382).
-/
namespace Sys2Proof.Machine

open Sys2Proof

-- ---------------------------------------------------------------------------------------------
-- Fields of a node record (R393)

def nId (r : Nat) : Nat := bitsN r 0 12
def nPrio (r : Nat) : Nat := bitsN r 28 2
def nShip (r : Nat) : Bool := r.testBit 30
def nEvent (r : Nat) : Bool := r.testBit 31
def nPred (r : Nat) : Nat := bitsN r 32 16
def nSpread (r : Nat) : Nat := 2 ^ bitsN r 48 2
def nGroup (r : Nat) : Nat := bitsN r 50 2 + 1
def nSolo (r : Nat) : Bool := r.testBit 52
def nPair (r : Nat) : Bool := r.testBit 53
def nSpk (r : Nat) : Nat := bitsN r 54 4
def nKdesc (r : Nat) : W64 := BitVec.ofNat 64 (bitsN r 64 64)
def nGrid (r : Nat) : Nat × Nat × Nat := (bitsN r 128 32, bitsN r 160 32, bitsN r 192 32)
def nBlocks (r : Nat) : Nat := bitsN r 128 32 * bitsN r 160 32 * bitsN r 192 32
def nStackSz (r : Nat) : Nat := bitsN r 224 32
def nStackBase (r : Nat) : W64 := BitVec.ofNat 64 (bitsN r 256 64)
def nPgt (r : Nat) : W64 := BitVec.ofNat 64 (bitsN r 384 64)
def nDoneAddr (r : Nat) : W64 := BitVec.ofNat 64 (bitsN r 448 64)
def nDoneVal (r : Nat) : Nat := bitsN r 512 64
def nSucc (r : Nat) : List Nat := ((List.range 16).map fun i => bitsN r (576 + 16 * i) 16).filter (· != 0xFFFF)
/-- The used tiles: base and length. -/
def nTiles (r : Nat) : List (W64 × Nat) :=
  ((List.range 8).map fun i => (BitVec.ofNat 64 (bitsN r (1024 + 128 * i) 64), bitsN r (1088 + 128 * i) 32)).filter fun t => t.2 != 0

/-- Whether a record breaks the checks of R403 on its fields. -/
def nodeBad (r : Nat) : Bool :=
  bitsN r 12 4 != 0 || bitsN r 58 6 != 0 || bitsN r 832 192 != 0 || bitsN r 48 2 == 3 || nSpk r > 9
    || (nDoneAddr r).toNat % 8 != 0 || (nSucc r).any (· > 4095)
    || (!nEvent r &&
        ((List.range 8).any (fun i => bitsN r (1121 + 128 * i) 31 != 0)
          || nBlocks r == 0 || nBlocks r > 2 ^ 32
          || nStackSz r % 16 != 0 || (nStackBase r).toNat % 16 != 0 || (nCbank r).toNat % 4 != 0 || (nPgt r).toNat % 64 != 0
          || (nKdesc r).toNat % 64 != 0))

-- ---------------------------------------------------------------------------------------------
-- The node table

/-- Change a partition. -/
def State.inPart (s : State) (p : Nat) (f : Part → Part) : State := s.setPart p (f (s.part p))

/-- One decrement of an id's count (R395, R396): an EMPTY id keeps it; a WAITING node whose count reaches 0 becomes READY. -/
def State.decrement (s : State) (p id : Nat) : State :=
  let x := s.part p
  let n := x.counts.getD id 0 - 1
  let s := s.setPart p { x with counts := x.counts.set id n }
  match x.nodes.get? id with
  | some node =>
    if node.st = .waiting ∧ n ≤ 0 then
      { s.inPart p (fun x => { x with nodes := x.nodes.set id { node with st := .ready, order := s.nextOrder } }) with nextOrder := s.nextOrder + 1 }
    else s
  | none => s

/-- A completion value is written at an address of a context. A failure is recorded and halts the context. -/
def State.doneStore (s : State) (ctx : Nat) (va : W64) (x : Nat) : Acc Unit :=
  let failed (s : State) (kind stage gpa : Nat) (malf : Bool) : Acc Unit :=
    (s.lantern ctx { ty := 4, kind := kind, cause := if kind = 3 then 2 else 1, stage := stage, wrt := true, malf := malf, core := 0
                     flight := 0, va := va.toNat, gpa := gpa }).bind fun s _ =>
      .ok (s.trapContext ctx (if kind = 3 then causeMemberLost else causeStoreRefused) va) ()
  match s.dieTranslate ctx va .write with
  | (s, .noncanon) => failed s 1 1 0 false
  | (s, .fault kind malf stage gpa) => failed s kind stage gpa malf
  | (_, .wait n) => .wait n
  | (s, .ok gpa cls) =>
    match s.writeAtCtl none (s.funcOf ctx) (gpa / 64) false cls (numSec x (gpa % 64)) (maskOf (gpa % 64) 8) 0 with
    | .ok s _ => .ok s ()
    | .bad kind stage => failed s kind stage gpa false
    | .wait n => .wait n

/-- The completion write (R396): DONEVAL at DONEADDR, after a release at .sy. A failure leaves the node complete all the same. -/
def State.doneWrite (s : State) (ctx : Nat) (va : W64) (x : Nat) : Acc Unit :=
  if va = 0 then .ok s () else (s.releaseCtx ctx).bind fun s _ => s.doneStore ctx va x

/-- A node completes (R396). -/
def State.nodeComplete (s : State) (p id : Nat) : Acc Unit :=
  match (s.part p).nodes.get? id with
  | none => .ok s ()
  | some node =>
    let r := node.recd.toNat
    (s.doneWrite (nCtx r) (nDoneAddr r) (nDoneVal r)).bind fun s _ =>
      let s := (nSucc r).foldl (fun (s : State) k => s.decrement p k) s
      .ok (s.inPart p fun x => { x with nodes := x.nodes.erase id }) ()

-- ---------------------------------------------------------------------------------------------
-- TGPOST and TGDONE

/-- The partition whose table a context posts to: a steward's own; firmware posts to that of the context that the record names. -/
def State.postPart (s : State) (own ctx : Nat) : Option Nat := if isFirmware own then s.partOf ctx else s.partOf own

/-- NODES of a partition (R368). -/
def Part.quota (p : Part) : Nat := bitsN p.desc.toNat 192 16

/-- The table of a node to post: nc and r, or the failure code (R401, R403). -/
def State.postTable (s : State) (r : Nat) : State × Except Nat (Nat × Nat) ⊕ Need :=
  if nEvent r ∨ nPgt r = 0 then .inl (s, .ok (0, 0))
  else
    match s.readPgt (nCtx r) (nPgt r) with
    | (_, .wait n) => .inr n
    | (s, .fault) => .inl (s, .error 5)
    | (s, .poison) => .inl (s, .error 5)
    | (s, .bad) => .inl (s, .error 1)
    | (s, .ok t) => match t.rank s.ident.toNat with
      | some k => .inl (s, .ok (t.healthyComps.length, k))
      | none => .inl (s, .error 1)

/-- The kernel descriptor of a node to post, or the failure code (R403). -/
def State.postDesc (s : State) (r : Nat) : State × Except Nat (BitVec 512) ⊕ Need :=
  if nEvent r then .inl (s, .ok 0)
  else
    match s.readBytes (nCtx r) (nKdesc r) 64 with
    | (_, .wait n) => .inr n
    | (s, .fault) => .inl (s, .error 5)
    | (s, .poison) => .inl (s, .error 5)
    | (s, .ok d) => if kValid (BitVec.ofNat 512 d) then .inl (s, .ok (BitVec.ofNat 512 d)) else .inl (s, .error 1)

/-- TGPOST's checks and its entry of the node (R395, R403): the status. -/
def State.postNode (s : State) (own : Nat) (va : W64) : Acc W64 :=
  let fail (s : State) (code : Nat) : Acc W64 := .ok s (statusOf code 0)
  match s.readBytes own va 256 with
  | (_, .wait n) => .wait n
  | (s, .fault) => fail s 5
  | (s, .poison) => fail s 5
  | (s, .ok r) =>
    if nodeBad r then fail s 1
    else
      match s.postPart own (nCtx r) with
      | none => fail s 4
      | some p =>
        if !(s.reaches own (nCtx r)) || (s.partOf (nCtx r)) != some p then fail s 4
        else
          let x := s.part p
          if x.nodes.has (nId r) then fail s 2
          else if x.nodes.entries.length ≥ x.quota then fail s 3
          else
            match s.postTable r with
            | .inr n => .wait n
            | .inl (s, .error code) => fail s code
            | .inl (s, .ok (nc, rank)) =>
              match s.postDesc r with
              | .inr n => .wait n
              | .inl (s, .error code) => fail s code
              | .inl (s, .ok d) =>
                let n := (nPred r : Int) + x.counts.getD (nId r) 0
                let node : Node := { recd := BitVec.ofNat 2048 r, desc := d, st := if n ≤ 0 then .ready else .waiting, nc := nc, r := rank
                                     order := s.nextOrder, launch := none }
                let s := s.inPart p fun x => { x with nodes := x.nodes.set (nId r) node, counts := x.counts.set (nId r) n }
                .ok { s with nextOrder := s.nextOrder + 1 } (BitVec.ofNat 64 (nc * 2 ^ 16 + rank))

/-- TGPOST (R403). -/
def execTgpost (a : Args) (s : State) : Host.Outcome State Fault Refusal :=
  let v := a.view
  s.sysInstr v (specTgpost v) fun h g s =>
    let va := s.uniSrc h g v.sa true
    if va.toNat % 64 ≠ 0 then .ok s (trapLanes g tMISALIGNED 1)
    else
      (s.release h.c h.f.ctx 4).bind fun s _ =>
        (s.postNode h.f.ctx va).bind fun s y => .ok (s.acquire h.c 6 false) (onceOut v g y)

/-- TGDONE (R404). -/
def execTgdone (a : Args) (s : State) : Host.Outcome State Fault Refusal :=
  let v := a.view
  s.sysInstr v (specTgdone v) fun h g s =>
    let id := (s.uniSrc h g v.sa false).toNat
    let node : Option (Nat × Node) := match s.partOf h.f.ctx with
      | some p => if id > 4095 then none else ((s.part p).nodes.get? id).map fun n => (p, n)
      | none => none
    match node with
    | none => .ok s (onceOut v g (statusOf 1 0))
    | some (p, n) =>
      if !nEvent n.recd.toNat then .ok s (onceOut v g (statusOf 1 0))
      else if n.st = .waiting then .ok s (onceOut v g (statusOf 6 0))
      else
        (s.release h.c h.f.ctx 4).bind fun s _ =>
          (s.nodeComplete p id).bind fun s _ => .ok s (onceOut v g 0)

-- ---------------------------------------------------------------------------------------------
-- Time slices (R382)

/-- The enabled VFs that map a partition, in increasing number. -/
def State.vfsOf (s : State) (p : Nat) : List Nat := (List.range 128).filter fun n => (s.vf n).en && (s.vf n).part == some p

def Part.quant (p : Part) : Nat := bitsN p.desc.toNat 272 32

/-- Whether a partition is sliced. -/
def State.sliced (s : State) (p : Nat) : Bool := (s.part p).quant != 0 && decide ((s.vfsOf p).length ≥ 2)

/-- The VF that a partition serves. -/
def State.servingVf (s : State) (p : Nat) : Nat :=
  let vs := s.vfsOf p
  let x := (s.part p).serving
  if vs.contains x then x else vs.headD x

/-- Whether a context's nodes may be dispatched and its blocks admitted (R377, R382, R397, R398): in a sliced partition those of the serving VF alone, and the root program, which
has no node. A partition whose ROOT is invalid runs nothing (R68). -/
def State.mayPlace (s : State) (ctx : Nat) (root : Bool := false) : Bool :=
  let st := (s.ctx ctx).st
  !s.recovery && (st == .idle || st == .resident) && !s.transferring ctx &&
    match s.partOf ctx with
    | some p => !(s.part p).badRoot && (root || !s.sliced p || s.funcOf ctx == s.servingVf p)
    | none => ctx == 0 || !(s.funcOf ctx < 128)

/-- SLICE_EXPIRY (R382): the next VF with ready nodes is served, and SLICE events are posted for the outgoing VF's resident contexts. -/
def execSliceExpiry (part : Nat) (s : State) : Host.Outcome State Fault Refusal :=
  let x := s.part part
  if part ≥ 20 ∨ !s.sliced part ∨ s.clock - x.since < x.quant * 4096 then .next s
  else
    let out := s.servingVf part
    let vs := s.vfsOf part
    let hasReady (n : Nat) : Bool := x.nodes.entries.any fun e => e.2.st == .ready && s.funcOf (nCtx e.2.recd.toNat) == n
    let order := (vs.filter (· > out)) ++ vs.filter (· ≤ out)
    let next := (order.find? hasReady).getD out
    let s := s.setPart part { x with serving := next, since := s.clock }
    .next (s.ctxs.entries.foldl (fun (s : State) e =>
      if e.1 > 20 ∧ e.2.st = .resident ∧ e.2.func = out then s.postEvent 3 0 e.1 0 else s) s)

-- ---------------------------------------------------------------------------------------------
-- Placement (R299, R300, R399)

/-- Whether a CTXLOAD waits for a core. -/
def State.claimed (s : State) (c : Nat) : Bool := s.ctxs.entries.any fun e => e.2.claims.contains c && s.transferring e.1

/-- Whether a launch may use a core: it is present in the partition and holds no other launch. -/
def State.usable (s : State) (clusters l c : Nat) : Bool :=
  let k := s.core c
  clusters.testBit (c / 4) && s.corePresent c && !s.claimed c && !k.busy &&
    (match k.launch with
     | none => k.blocks.entries.isEmpty && !k.engs.entries.any (fun e => e.2.active)
     | some x => x == l)

/-- The units that a block of a launch can take on a die: single cores, pairs or clusters. -/
def unitsOn (d spread : Nat) : List (List Nat) :=
  (List.range (32 / spread)).map fun i => (List.range spread).map fun j => 32 * d + spread * i + j

/-- The dies in order of R399: the home die, the same row, the same column, the diagonal. -/
def dieOrder (home : Nat) : List Nat := [home, home ^^^ 1, home ^^^ 2, home ^^^ 3]

/-- The clusters of a context's partition, as a mask. Function 128 without a partition has every cluster of the package. -/
def State.clusterMask (s : State) (ctx : Nat) : Nat :=
  match s.partOf ctx with
  | some p => bitsN (s.part p).desc.toNat 0 32
  | none => 2 ^ 32 - 1

/-- The units that a launch may use, its own first, lowest first, then free ones in the order of R399. -/
def State.unitsFor (s : State) (l : Nat) (la : Launch) : List (List Nat) :=
  let mask := s.clusterMask la.ctx
  let all := (dieOrder la.homeDie).flatMap fun d => unitsOn d la.spread
  let ok (u : List Nat) : Bool :=
    u.all (fun c => s.usable mask l c) && (!la.pair || u.all fun c => la.spread > 1 || (c % 2 == 0 && s.corePresent (c + 1)))
  let held := ((List.range 4).flatMap fun d => unitsOn d la.spread).filter fun u => u.all (fun c => la.cores.contains c) && ok u
  held ++ all.filter fun u => !(u.all fun c => la.cores.contains c) && ok u

/-- The flights that each core of a unit takes (R299). -/
def divide (f c : Nat) : List Nat := (List.range c).map fun i => f / c + (if i < f % c then 1 else 0)

/-- Whether no block of a launch uses a core yet. -/
def State.freshCore (s : State) (l c : Nat) : Bool :=
  !s.cores.entries.any fun k => k.2.blocks.entries.any fun b => b.2.launch == l && b.2.cores.contains c

/-- The least SPK for a launch (R221). -/
def Launch.spkFor (la : Launch) : Nat := max ((kSpad la.desc + 262143) / 262144) la.spkReq

/-- Whether a block of a launch can be admitted to a unit (R215). -/
def State.unitFits (s : State) (l : Nat) (la : Launch) (u : List Nat) : Bool :=
  let f := kFlights la.desc
  let full := kRegs la.desc
  let home := u.headD 0
  let spad (c : Nat) : Nat := if s.freshCore l c then (if c = home then la.spkFor * 262144 else 0) else s.freeSpad c
  (!la.solo || u.all fun c => s.freshCore l c) &&
  (u.zip (divide f u.length)).all fun (c, n) =>
    let k := s.core c
    let left := s.freeUnits c - 16 * n
    decide (k.flights.entries.length + n ≤ 512) && decide (16 * n ≤ s.freeUnits c) &&
      match k.grantQ.head? with
      | none => decide (n * (full - 16) ≤ left) && (c != home || decide (kSpad la.desc ≤ spad c))
      | some q => match s.block? q.1 q.2 with
        | some b => decide (b.units full c ≤ left) && (q.1 != c || decide (kSpad la.desc ≤ spad c))
        | none => true

/-- A flight at admission (R95, R187): pc, stack top, stage. -/
def Launch.newFlight (la : Launch) (l block idx slot : Nat) : Flight :=
  let n0 := (block * kFlights la.desc + idx) * 32
  { Flight.fresh with
    ctx := la.ctx, launch := l, block := block, idx := idx, stage := stageOf la.desc idx, slot := slot
    threads := .ofList ((List.range 32).map fun lane =>
      (lane, { Thread.fresh with
        pc := BitVec.ofNat 57 (kEntry la.desc), sp := la.stackBase + BitVec.ofNat 64 ((n0 + lane + 1) * la.stackSz) })) }

/-- A core is set up for the first block of a launch on it (R221, R229, R263): its split, its scratchpad zeroed for another context than the last that used it, its barriers
and engine threads. What completed before the launch happens before its threads (R21, R324, R403): the core makes an acquire at .sy. -/
def State.takeCore (s : State) (l : Nat) (la : Launch) (home c : Nat) : State :=
  let s := (s.setSpk c (if c = home then la.spkFor else 0)).acquire c 6 false
  let k := s.core c
  s.setCore c { k with
    launch := some l, zeroed := k.lastCtx != some la.ctx, cbs := .empty, engs := .empty, nextFork := 0, forks := .empty, icache := .empty }

/-- Admit one block to a unit (R21, R215, R299). -/
def State.placeBlock (s : State) (l : Nat) (la : Launch) (block group member : Nat) (u : List Nat) : State :=
  let home := u.headD 0
  let s := (u.filter fun c => s.freshCore l c).foldl (fun (s : State) c => s.takeCore l la home c) s
  let owner := ((u.zip (divide (kFlights la.desc) u.length)).flatMap fun x => List.replicate x.2 x.1).zipIdx
  let r := owner.foldl (fun (acc : State × List (Nat × Nat)) x =>
    let s := acc.1
    let k := s.core x.1
    let f := la.newFlight l block x.2 k.slotFor
    (s.setCore x.1 { k with flights := k.flights.set k.nextKey f, nextKey := k.nextKey + 1 }, acc.2 ++ [(x.1, k.nextKey)])) (s, [])
  let s := r.1
  let b : Block :=
    { ctx := la.ctx, launch := l, sysBlock := block, cores := u, flights := r.2, granted := false, seed := 0, zeroed := false, spad := .empty, spadOpen := true
      spadHeld := 0, reserve := .empty, bars := .empty, group := group, member := member, ended := false }
  let k := s.core home
  s.setCore home { k with blocks := k.blocks.set block b, grantQ := k.grantQ ++ [(home, block)] }

/-- Place the blocks of a group one after another on units of a list; none where one does not fit (R300). -/
def State.placeAll (s : State) (l : Nat) (la : Launch) (group : Nat) (units : List (List Nat)) : List (Nat × Nat) → Option (State × List (Nat × Nat))
  | [] => some (s, [])
  | (member, block) :: rest =>
    match units.find? fun u => s.unitFits l la u with
    | none => none
    | some u =>
      match (s.placeBlock l la block group member u).placeAll l la group units rest with
      | none => none
      | some (s, ms) => some (s, (u.headD 0, block) :: ms)

/-- The blocks that the next admission of a launch takes: one, or a group (R300), with their member indices. Of a group that the package's share of the grid cuts, the blocks of
the share are admitted, all at once (assumption 80, DEDUCED). -/
def Launch.nextBlocks (la : Launch) : List (Nat × Nat) :=
  let lo := la.next / la.group * la.group
  ((List.range la.group).map fun i => (i, lo + i)).filter fun x => la.next ≤ x.2 && x.2 < la.stop

/-- The cores of some units that are new to a launch and whose split is not yet the one it needs (R221). -/
def State.unsplit (s : State) (l : Nat) (la : Launch) (units : List (List Nat)) : List (Nat × Nat) :=
  units.flatMap fun u => (u.filter fun c => s.freshCore l c && (s.core c).spk != (if c = u.headD 0 then la.spkFor else 0)).map fun c => (u.headD 0, c)

/-- Where the next block or group of a launch fits: the state with it placed, and its blocks (R215, R300). -/
def State.fitNext (s : State) (l : Nat) (la : Launch) : Option (State × List (Nat × Nat)) :=
  let units := s.unitsFor l la
  let zones : List (List (List Nat)) :=
    if la.group ≤ 1 then units.map fun u => [u]
    else (uniqOrder (units.map fun u => u.headD 0 / 4)).map fun q => units.filter fun u => u.headD 0 / 4 == q
  zones.findSome? fun z => s.placeAll l la s.nextGroup z la.nextBlocks
where
  /-- The distinct numbers of a list, in order of first appearance. -/
  uniqOrder (xs : List Nat) : List Nat := xs.foldl (fun acc x => if acc.contains x then acc else acc ++ [x]) []

/-- Admit the next block or group of a launch, where it fits (R215, R300, R399). A core whose split must change first is taken, and the admission comes once it is no longer busy
(R220). -/
def State.admitNext (s : State) (l : Nat) : Option State :=
  match s.launch? l with
  | none => none
  | some la =>
    if la.next ≥ la.stop then none
    else
      let bs := la.nextBlocks
      match s.fitNext l la with
      | none => none
      | some (s', ms) =>
        let placed := ms.map fun m => (s'.block? m.1 m.2).elim [] (·.cores)
        let used := uniqN placed.flatten
        let split := s.unsplit l la placed
        if !split.isEmpty then
          let s := split.foldl (fun (s : State) x => s.takeCore l la x.1 x.2) s
          some { s with launches := s.launches.set l { la with cores := (split.map (·.2)).foldr insertN la.cores } }
        else
          let la' := { la with next := la.next + bs.length, live := la.live + bs.length, cores := used.foldr insertN la.cores }
          let s' := { s' with
            launches := s'.launches.set l la'
            groups := s'.groups.set s'.nextGroup ⟨l, (bs.head?.map (·.1)).getD 0, ms, used, .empty⟩
            nextGroup := s'.nextGroup + 1 }
          let x := s'.ctx la.ctx
          some (if x.st = .idle then s'.setCtx la.ctx { x with st := .resident } else s')

/-- BLOCK_ADMIT (R215). -/
def execBlockAdmit (launch : Nat) (s : State) : Host.Outcome State Fault Refusal :=
  match s.launch? launch with
  | none => .next s
  | some la => .next (if s.mayPlace la.ctx (la.node.isNone && la.packet.isNone) then (s.admitNext launch).getD s else s)

-- ---------------------------------------------------------------------------------------------
-- Dispatch (R394, R398, R399)

/-- The home die of a node: that whose channel groups hold the most bytes of its tiles, the lower die on a tie (R399). -/
def State.homeDieOf (s : State) (r : Nat) : Acc Nat :=
  ((nTiles r).foldl (fun (acc : Acc (List (Tgt × Nat))) t => acc.bind fun s xs =>
    (s.rangeTargets (nCtx r) t.1 t.2).bind fun s ys => .ok s (xs ++ ys)) (.ok s [])).bind fun s ts =>
      let on (d : Nat) : Nat := ts.foldl (fun n t => match t.1 with
        | .dev a _ => if s.dieOfAddr a = d then n + t.2 else n
        | _ => n) 0
      .ok s ((List.range 4).foldl (fun best d => if on d > on best then d else best) 0)

/-- The pool package in whose extents every page of a range lies, where there is one (R399). -/
def State.poolOf (s : State) (ctx : Nat) (t : W64 × Nat) : Acc (Option Nat) :=
  ((pagesOf t.1 t.2).foldl (fun (acc : Acc (List (Option Nat))) q => acc.bind fun s ks =>
    match s.dieTranslate ctx q.1 .read with
    | (_, .wait n) => .wait n
    | (s, .ok gpa _) => .ok s (ks ++ [match s.extent (s.funcOf ctx) gpa with
      | some e => if e.tgt = 2 then some e.pkg else none
      | none => none])
    | (s, _) => .ok s (ks ++ [none])) (.ok s [])).bind fun s ks => .ok s (oneOf ks)
where
  /-- The package that all of some pages have. -/
  oneOf (ks : List (Option Nat)) : Option Nat := match ks.head? with
    | some (some k) => if ks.all (· == some k) then some k else none
    | _ => none

/-- The pool package that a node ships to (R399, R454): every used tile in its extents, a healthy member of its table, and a code handle registered. -/
def State.shipTo (s : State) (p : Nat) (node : Node) : Acc (Option (Nat × W64)) :=
  let r := node.recd.toNat
  let ts := nTiles r
  if !nShip r || ts.isEmpty || kCbWords node.desc > 64 || nBlocks r ≥ 2 ^ 32 then .ok s none
  else
    (ts.foldl (fun (acc : Acc (List (Option Nat))) t => acc.bind fun s ks => (s.poolOf (nCtx r) t).bind fun s k => .ok s (ks ++ [k])) (.ok s [])).bind fun s ks =>
      match State.poolOf.oneOf ks with
      | none => .ok s none
      | some k =>
        let handle (s : State) : Option (Nat × W64) := ((s.part p).handles.get? ((nKdesc r).toNat * 2 ^ 16 + k)).map fun h => (k, h)
        if nPgt r = 0 then .ok s (handle s)
        else match s.readPgt (nCtx r) (nPgt r) with
          | (_, .wait n) => .wait n
          | (s, .ok t) => .ok s (if t.healthyPools.contains k then handle s else none)
          | (s, _) => .ok s none

/-- Send a task packet (R453, R454): its fields, sequence number and tag. `launch` is sys.launch of the sender. -/
def State.sendPacket (s : State) (pkg ctx : Nat) (handle : W64) (desc : BitVec 512) (args : List W32) (launch : Option Nat) (node : Option (Nat × Nat)) : State :=
  let seq := s.sendSeq.getD pkg 0 + 1
  let key := (s.packets.keys.foldl max 0) + 1
  let s := { s with
    sendSeq := s.sendSeq.set pkg seq
    packets := s.packets.set key { pkg := BitVec.ofNat 16 pkg, sctx := ctx, func := s.funcOf ctx, link := 0, desc := desc, launch := launch, ctx := ctx, node := node, sent := true, lost := false } }
  s.emit (.packet handle desc args seq (Config.kmac pkg (handle.toNat :: desc.toNat :: seq :: args.map BitVec.toNat)))

/-- The launch of a node on its home die (R394, R401). -/
def State.launchOf (s : State) (p id : Nat) (node : Node) (bank home : Nat) : Launch :=
  let r := node.recd.toNat
  let share := shareOf (nBlocks r) node.r node.nc
  { ctx := nCtx r, id := (s.ctx (nCtx r)).launches % 2 ^ 32, node := some (p, id), desc := node.desc, grid := nGrid r, stackSz := nStackSz r
    stackBase := nStackBase r, cbank := wordsOfNum bank (kCbWords node.desc), bankBad := false, pgt := nPgt r, spread := nSpread r, group := nGroup r
    solo := nSolo r, pair := nPair r, spkReq := nSpk r, next := share.1, stop := share.2, live := 0, cores := [], prio := nPrio r
    homeDie := home, packet := none }

/-- Enter a launch, with the first unit that it takes: that of the first block that it can admit (R399). -/
def State.enterLaunch (s : State) (la : Launch) : State :=
  let l := s.nextLaunch
  let first : List Nat :=
    if la.next ≥ la.stop then []
    else match ({ s with launches := s.launches.set l la }).fitNext l la with
      | some (t, m :: _) => (t.block? m.1 m.2).elim [] (·.cores)
      | _ => []
  let s := first.foldl (fun (s : State) c => s.setCore c { s.core c with launch := some l }) s
  let x := s.ctx la.ctx
  { s.setCtx la.ctx { x with launches := (x.launches + 1) % 2 ^ 32, st := if x.st = .idle then .resident else x.st } with
    launches := s.launches.set l { la with cores := uniqN first }, nextLaunch := l + 1 }

/-- Whether a launch could admit its first block now, or has none to admit. -/
def State.canStart (s : State) (la : Launch) : Bool :=
  la.next ≥ la.stop || (({ s with launches := s.launches.set s.nextLaunch la }).admitNext s.nextLaunch).isSome

/-- The ready nodes that may be dispatched, in order of class and readiness (R398). -/
def State.readyNodes (s : State) (p : Nat) : List (Nat × Node) :=
  let ready := (s.part p).nodes.entries.filter fun e => e.2.st == .ready && !nEvent e.2.recd.toNat && s.mayPlace (nCtx e.2.recd.toNat)
  let key (e : Nat × Node) : Nat := nPrio e.2.recd.toNat * 2 ^ 64 + e.2.order
  (uniqN (ready.map key)).filterMap fun k => ready.find? fun e => key e == k

/-- How a ready node can go: as a task packet to a pool package, or on cores from a home die (R399). -/
inductive Going where
  | ship (pkg : Nat) (handle : W64)
  | cores (home : Nat)
deriving DecidableEq, Repr

/-- How a node would go now; none where nothing can take it. -/
def State.goingOf (s : State) (p id : Nat) (node : Node) : Acc (Option Going) :=
  (s.shipTo p node).bind fun s k =>
    match k with
    | some (k, h) => .ok s (some (.ship k h))
    | none => (s.homeDieOf node.recd.toNat).bind fun s d => .ok s (if s.canStart (s.launchOf p id node 0 d) then some (.cores d) else none)

/-- The first of some ready nodes that can go; one behind it goes only where it cannot (R398). -/
def State.firstGoing (s : State) (p : Nat) : List (Nat × Node) → Acc (Option (Nat × Node × Going))
  | [] => .ok s none
  | (id, node) :: rest => (s.goingOf p id node).bind fun s g =>
    match g with
    | some g => .ok s (some (id, node, g))
    | none => s.firstGoing p rest

/-- A node that ships is sent as a task packet (R454). Where its package has been lost the packet comes back lost at once: the context receives MEMBER_LOST and the node stays
RUNNING (R405, R430). -/
def State.shipNode (s : State) (part id : Nat) (node : Node) (bank k : Nat) (handle : W64) : State :=
  let r := node.recd.toNat
  let s := s.inPart part fun x => { x with nodes := x.nodes.set id { node with st := .running } }
  if !s.linked k then s.trapContext (nCtx r) causeMemberLost 0
  else
    let desc : BitVec 512 := BitVec.ofNat 512 (4 * kCbWords node.desc * 2 ^ 192 + nBlocks r * 2 ^ 224)
    s.sendPacket k (nCtx r) handle desc ((wordsOfNum bank (kCbWords node.desc)).entries.map (·.2)) none (some (part, id))

/-- NODE_DISPATCH (R398): the first ready node that can be placed. A constant bank that cannot be read halts the context and leaves the node READY. -/
def execNodeDispatch (part : Nat) (s : State) : Host.Outcome State Fault Refusal :=
  if part ≥ 20 ∨ s.recovery then .next s
  else
    match s.firstGoing part (s.readyNodes part) with
    | .wait n => .next (s.request n)
    | .bad _ _ => .next s
    | .ok s none => .next s
    | .ok s (some (id, node, g)) =>
      let r := node.recd.toNat
      match s.readBank node with
      | (s, .wait n) => .next (s.request n)
      | (s, .fault) => .next (s.trapContext (nCtx r) causeLaunchFault (nCbank r))
      | (s, .poison) => .next (s.trapContext (nCtx r) causeLaunchFault (nCbank r))
      | (s, .ok bank) =>
        match g with
        | .ship k handle => .next (s.shipNode part id node bank k handle)
        | .cores d =>
          let l := s.nextLaunch
          let s := s.enterLaunch (s.launchOf part id node bank d)
          .next (s.inPart part fun x => { x with nodes := x.nodes.set id { node with st := .running, launch := some l } })

/-- A launch that has ended leaves its context (R377). A core on which a block of it still holds scratchpad, for engine threads that run on, stays with it (R293, R399). -/
def State.endLaunch (s : State) (l : Nat) (la : Launch) : State :=
  let s := s.leaveCores l la.cores
  let s := { s with launches := s.launches.erase l }
  let x := s.ctx la.ctx
  if x.st = .resident ∧ !s.launches.entries.any (fun e => e.2.ctx == la.ctx) then s.setCtx la.ctx { x with st := .idle } else s

/-- Whether every flight of a launch has exited. -/
def Launch.isOver (la : Launch) : Bool := la.next ≥ la.stop && la.live == 0

/-- LAUNCH_COMPLETE (R21, R396): the launch's stores are released at .dv, and its node completes. A root program never completes; a task packet's launch completes with its
packet. -/
def execLaunchComplete (launch : Nat) (s : State) : Host.Outcome State Fault Refusal :=
  match s.launch? launch with
  | none => .next s
  | some la =>
    match la.node with
    | none => .next s
    | some (p, id) =>
      let st := (s.ctx la.ctx).st
      if !la.isOver || !(st == .resident || st == .idle) || s.transferring la.ctx then .next s
      else s.finish (s.nodeComplete p id) fun s _ => s.endLaunch launch la

-- ---------------------------------------------------------------------------------------------
-- The root program (R369, R392)

/-- Whether a flight of a context is in a member that waits for the device. -/
def State.waiting (s : State) (ctx : Nat) : Bool :=
  s.cores.entries.any fun k => k.2.flights.entries.any fun f => f.2.ctx == ctx && (match f.2.run with
    | some r => r.waiting
    | none => false)

/-- ROOT_PROGRAM_START: a launch of one block of one flight in the steward's context, when the partition has clusters and its function is enabled; afresh where the steward has
halted, with the node table kept. Its stack is not stated: a free value; and it has no node to name a constant bank, so that every word of its bank reads zero, whatever
CBWORDS says (assumption 67, DESIGN CHOICE). An invalid ROOT is remembered until PART_SET (R68). -/
def execRootProgramStart (part : Nat) (s : State) : Host.Outcome State Fault Refusal :=
  let x := s.part part
  let ctx := part + 1
  let func := bitsN x.desc.toNat 256 8
  let halted := (s.ctx ctx).st == .halted
  if part ≥ 20 ∨ s.recovery ∨ bitsN x.desc.toNat 0 32 = 0 ∨ (func < 128 ∧ !(s.vf func).en) ∨ (x.rootUp ∧ !halted) ∨ x.badRoot ∨ s.waiting ctx then .next s
  else
    let root := bitsN x.desc.toNat 384 64
    match s.readGpa func (root % 2 ^ 57) 64 with
    | (_, .wait n) => .next (s.request n)
    | (s, .ok d) =>
      let desc := BitVec.ofNat 512 d
      if root % 64 ≠ 0 ∨ !kValid desc ∨ kFlights desc ≠ 1 then .next (s.inPart part fun x => { x with badRoot := true })
      else
        s.finish (if halted then s.clearCtx ctx else .ok s ()) fun s _ =>
          let stack := Config.freeNat s.free
          let s := { s with free := s.free + 1 }
          let la : Launch :=
            { ctx := ctx, id := (s.ctx ctx).launches % 2 ^ 32, node := none, desc := desc, grid := (1, 1, 1), stackSz := 16 * (stack % 2 ^ 28)
              stackBase := BitVec.ofNat 64 (stack / 2 ^ 28 * 16), cbank := .empty, bankBad := false, pgt := 0, spread := 1, group := 1, solo := false, pair := false
              spkReq := 0, next := 0, stop := 1, live := 0, cores := [], prio := 0, homeDie := 0, packet := none }
          if s.canStart la then (s.enterLaunch la).inPart part fun x => { x with rootUp := true } else s.inPart part fun x => { x with rootUp := false }
    | (s, _) => .next (s.inPart part fun x => { x with badRoot := true })

-- ---------------------------------------------------------------------------------------------
-- Held event records (R381)

/-- EVENT_SLOT_FREED: held records are written when their slot is free. -/
def execEventSlotFreed (ring : Nat) (s : State) : Host.Outcome State Fault Refusal :=
  let r := s.ring ring
  .next (if r.broken then s else s.retryRing ring r.held.length)

/-- EVENT_RING_RETRY: the records of a ring that could not be written are tried again. -/
def execEventRingRetry (ring : Nat) (s : State) : Host.Outcome State Fault Refusal :=
  let r := s.ring ring
  .next (if r.broken then s.retryRing ring r.held.length else s)

end Sys2Proof.Machine
end

