-- ==== Sys2Proof/Machine/Hypervisor.lean ====
section
/-!
DEFINITION. Sys2Proof/Machine/Hypervisor.lean: the commands of the mailboxes (R370, R371, R373), the way masks (R372), partitions (R368, R369), granting and removing
extents (R343, R346), and opening and closing contexts (R373, R377).
-/
namespace Sys2Proof.Machine

open Sys2Proof

-- ---------------------------------------------------------------------------------------------
-- Mailboxes (R370)

/-- RESULT codes. -/
def rDONE := 0
def rBAD := 1
def rSTATE := 2
def rNOKEY := 3
def rQUOTA := 4

/-- A command has run: the mailbox of a function holds what was written and its RESULT, and BUSY is 0. -/
def State.answer (s : State) (func code index : Nat) (arg : BitVec 512) (result : Nat) : State :=
  { s with mail := s.mail.set func { result := result, arg := arg, code := code % 256, index := index % 2 ^ 16, pending := none } }

/-- A command without arguments keeps the argument words. -/
def State.answerKeep (s : State) (func code index result : Nat) : State := s.answer func code index (s.mailbox func).arg result

/-- A start written while another command of the mailbox is BUSY is ignored; the command in progress goes on. -/
def State.command (s : State) (func : Nat) (i : Nat × Nat × BitVec 512) (go : Host.Outcome State Fault Refusal) : Host.Outcome State Fault Refusal :=
  if (s.mailbox func).pending.all (· == i) then go else .next s

/-- A command that cannot complete yet keeps BUSY set; it goes on when its event comes again. -/
def State.setBusy (s : State) (func : Nat) (i : Nat × Nat × BitVec 512) : State := { s with mail := s.mail.set func { s.mailbox func with pending := some i } }

/-- The end of a command that may have to wait. `s0` is the state in which it waits. -/
def State.complete {α : Type} (s0 : State) (func : Nat) (i : Nat × Nat × BitVec 512) (r : Acc α) (f : State → α → State) : Host.Outcome State Fault Refusal :=
  match r with
  | .ok s x => .next (f s x)
  | .bad _ _ => .next s0
  | .wait n => .next ((s0.request n).setBusy func i)

-- ---------------------------------------------------------------------------------------------
-- Partitions

/-- The fields of a descriptor (R368). -/
def dClusters (d : BitVec 512) : Nat := bitsN d.toNat 0 32
def dWays (d : BitVec 512) : Nat := bitsN d.toNat 32 32
def dChan (d : BitVec 512) : Nat := bitsN d.toNat 64 128
def dVats (d : BitVec 512) : Nat := bitsN d.toNat 208 16
def dCtxq (d : BitVec 512) : Nat := bitsN d.toNat 224 16
def dKeyq (d : BitVec 512) : Nat := bitsN d.toNat 240 16
def dStewfn (d : BitVec 512) : Nat := bitsN d.toNat 256 8
def dEvBase (d : BitVec 512) : Nat := bitsN d.toNat 320 64
def dEvSize (d : BitVec 512) : Nat := bitsN d.toNat 448 4

/-- Whether a cluster has a present core. -/
def State.clusterPresent (s : State) (q : Nat) : Bool := (List.range 4).any fun i => s.corePresent (4 * q + i)

/-- A descriptor that PART_SET refuses with RESULT 1: a field out of range, an absent cluster, or an overlap with another partition. -/
def State.partBad (s : State) (p : Nat) (d : BitVec 512) : Bool :=
  decide (bitsN d.toNat 192 16 > 4096) || decide (dVats d > 4096) || (s.build == .gzC && dVats d != 0) || decide (dCtxq d > 4075)
    || decide (dKeyq d > 2048) || decide (dStewfn d > 128) || bitsN d.toNat 264 8 != 0 || bitsN d.toNat 304 16 != 0
    || dEvBase d % 4096 != 0 || (dEvSize d != 0 && !decide (4 ≤ dEvSize d ∧ dEvSize d ≤ 12)) || bitsN d.toNat 452 60 != 0
    || (s.build == .gzC && dChan d / 2 ^ 64 != 0)
    || ((List.range 32).any fun q => (dClusters d).testBit q && !s.clusterPresent q)
    || s.parts.entries.any fun e => e.1 != p && (dClusters e.2.desc &&& dClusters d != 0 || dChan e.2.desc &&& dChan d != 0)

/-- A new image key (R375). -/
def State.newKey (s : State) (c : Nat) : State :=
  { s.setCtx c { s.ctx c with key := s.nextKeyGen } with nextKeyGen := s.nextKeyGen + 1 }

/-- A ring's base and size are set; what it holds is tried again (R381). -/
def State.setRingAt (s : State) (key func base size : Nat) : State :=
  let r := s.ring key
  (s.setRing key { r with func := func, base := base, size := size }).retryRing key r.held.length

/-- PART_SET (R371). -/
def execPartSet (index : Nat) (arg : BitVec 512) (s : State) : Host.Outcome State Fault Refusal :=
  let done (s : State) (r : Nat) : Host.Outcome State Fault Refusal := .next (s.answer 128 1 index arg r)
  s.command 128 (1, index, arg) <|
  if index < 20 ∧ (s.vfs.entries.any fun e => e.2.en && e.2.part == some index) then done s rSTATE
  else if index ≥ 20 ∨ s.partBad index arg then done s rBAD
  else
    let x := s.part index
    let s := s.setPart index { x with desc := arg, rootUp := x.rootUp && dClusters arg != 0, badRoot := false }
    let s := (s.newKey (index + 1)).setRingAt index (dStewfn arg) (dEvBase arg) (dEvSize arg)
    done s rDONE

-- ---------------------------------------------------------------------------------------------
-- Virtual functions

/-- Whether a VF has an open context. -/
def State.hasCtx (s : State) (n : Nat) : Bool := s.ctxs.entries.any fun e => decide (e.1 > 20) && e.2.st != .free && e.2.func == n

/-- VF_SET (R371). Disabling a function of a pool package frees its code slots and vats (R435, R451). -/
def execVfSet (index : Nat) (arg : BitVec 512) (s : State) : Host.Outcome State Fault Refusal :=
  let p := bitsN arg.toNat 0 5
  let en := arg.getLsbD 8
  let x := s.vf index
  let done (s : State) (r : Nat) : Host.Outcome State Fault Refusal := .next (s.answer 128 2 index arg r)
  s.command 128 (2, index, arg) <|
  if index ≥ 128 ∨ p ≥ 20 then done s rBAD
  else if (x.en ∧ x.part ≠ some p) ∨ (x.en ∧ !en ∧ s.hasCtx index) then done s rSTATE
  else if (en ∧ x.ways = 0) ∨ dClusters (s.part p).desc = 0 then done s rBAD
  else
    let s := s.setVf index { x with part := some p, en := en }
    let s := if en ∨ s.build = .gzC then s
      else { s with code := s.code.filter fun _ k => k.func != index, vats := s.vats.filter fun _ v => v.func != index }
    done s rDONE

/-- Whether requests reach configuration space: through host port 0 in GZ-C, fabric port 0 in GZ-X (R408, R458). -/
def State.configUp (s : State) : Bool :=
  if s.build = .gzC then ((s.die 0).hostPort).elim false (·.up) else ((s.die 0).fports.get? 0).elim false (·.up)

/-- WAY_MASK_WRITE (R372): a write in configuration space (R408). -/
def execWayMaskWrite (vf : Nat) (mask : BitVec 32) (s : State) : Host.Outcome State Fault Refusal :=
  .next (if vf < 128 ∧ s.configUp then
      let x := s.vf vf
      let ways : BitVec 32 := match x.part with
        | some p => BitVec.ofNat 32 (dWays (s.part p).desc)
        | none => 0
      s.setVf vf { x with ways := mask &&& ways }
    else s)

-- ---------------------------------------------------------------------------------------------
-- Extents

/-- The bytes of a function's range are given up by every cache (R343): nothing in it is owned, registrations are recalled, write-combining entries drained, dirty bytes
written to the target that the extents give now, and every copy dropped. -/
def State.flushRange (s : State) (func lo hi : Nat) : Acc Unit :=
  let inside (k : Nat) : Bool := k / 2 ^ 51 == func && decide (lo ≤ k % 2 ^ 51 * 64 ∧ k % 2 ^ 51 * 64 < hi)
  if s.l2.entries.any fun e => inside e.1 && e.2.owner.isSome then .wait .held
  else
    let drained := s.cores.keys.foldl (fun (acc : Acc Unit) c =>
      ((s.core c).wcb.filter fun w => w.func == func && decide (lo ≤ w.line * 256 ∧ w.line * 256 < hi)).foldl (fun (acc : Acc Unit) w =>
        acc.bind fun s _ => (s.drainEntry c w).bind fun s _ =>
          let k := s.core c
          .ok (s.setCore c { k with wcb := k.wcb.erase w }) ()) acc) (.ok s ())
    drained.bind fun s _ =>
      let keys := (uniqN (s.l2.keys ++ s.cores.entries.flatMap fun e => e.2.l1.keys)).filter inside
      .ok (keys.foldl (fun (s : State) k =>
        let s := (s.recall k (BitVec.allOnes 16)).dropOthers k none
        let s := match s.second func (k % 2 ^ 51 * 64) false false with
          | .ok (.host a, _) =>
            if (s.home k).copy.isSome then s.evictL2 k
            else if s.lines.has (a / 64) then { s.emit (.evict .cleanEvictNoData (a / 64 * 64) 0 false) with lines := s.lines.erase (a / 64) } else s
          | .ok (t, _) => s.writeBack k t
          | .error _ => s
        let h := s.home k
        s.setHome k { h with copy := none, reg := .empty, sharers := [] }) s) ()

/-- The pages of a local extent in a mode other than PRIV that serve its function there (R411). -/
def State.sharedPages (s : State) (func : Nat) (e : Extent) : List (Nat × PageMode) :=
  if e.tgt ≠ 0 then []
  else s.pages.entries.filter fun p => p.2.mode != 0 && p.2.func == func
    && decide (e.pbase ≤ p.1 * 4096 ∧ p.1 * 4096 < e.pbase + e.len * 65536) && p.1 * 4096 - e.pbase + e.gbase == p.2.gpn * 4096

/-- Whether a flip of a page is in progress: its flight still waits in it. -/
def State.flipping (s : State) (page : Nat) : Bool :=
  s.flips.any fun x => x.page == page && match s.flight? x.core x.fid with
    | some f => (match f.run with
      | some r => r.waiting
      | none => false)
    | none => false

/-- Device memory at an address, as the extent of a function reaches it: under its key (R345). -/
def State.devTgt (s : State) (func sec a : Nat) : Tgt :=
  match s.second func (sec * 64) false false with
  | .ok (t, _) => t
  | .error _ => .dev a 0

/-- One sector's step of R418: a host copy is back-invalidated, or the sector is poisoned where the host cannot answer. `link` says that a snoop went unanswered. -/
def State.snoopOut (s : State) (func sec a : Nat) (link : Bool) : Acc Bool :=
  let k := secKey func sec
  if (s.home k).host = .i then .ok s link
  else if s.hostUp then .wait (.snoop true func sec a)
  else .ok (s.unanswered k (s.devTgt func sec a)) true

/-- The steps of R418 for a page that EXT_DEL meets (R424). -/
def State.flipBack (s : State) (p : Nat × PageMode) : Acc Unit :=
  ((List.range 64).foldl (fun (acc : Acc Bool) i => acc.bind fun s link => s.snoopOut p.2.func (p.2.gpn * 64 + i) (p.1 * 4096 + 64 * i) link) (.ok s false)).bind
    fun s _ =>
      let s := (List.range 64).foldl (fun (s : State) i =>
        let k := secKey p.2.func (p.2.gpn * 64 + i)
        (s.recall k (BitVec.allOnes 16)).dropOthers k none) s
      .ok { s with pages := s.pages.erase p.1, flips := s.flips.filter fun x => x.page != p.1 } ()

/-- Mark the pages of an extent as on their way to the device (R418). -/
def State.markPages (s : State) (ps : List (Nat × PageMode)) : State :=
  { s with pages := ps.foldl (fun (m : KMap PageMode) p => m.set p.1 { p.2 with mode := 3 }) s.pages }

/-- Every package that the pool's snoop filter knows as a holder of a range gives its copies up (R432, R433). -/
def State.snoopRange (s : State) (func : Nat) (e : Extent) : Acc Unit :=
  let inside (k : Nat) : Bool := decide (e.pbase ≤ k * 64 ∧ k * 64 < e.pbase + e.len * 65536)
  if e.tgt ≠ 0 then .ok s ()
  else
    match (s.pfilter.entries.filter fun x => inside x.1).findSome? fun x => (s.holder (x.1 * 64) true none).map fun q => (x.1 * 64, q) with
    | some (a, q) => .wait (.peer true func ((a - e.pbase + e.gbase) / 64) a q)
    | none => .ok { s with pfilter := s.pfilter.filter fun k _ => !inside k } ()

/-- Removing an extent up to step 5 of R343: its shared pages come back first (R424). -/
def State.leaveExtent (s : State) (func : Nat) (e : Extent) : Acc Unit :=
  let ps := s.sharedPages func e
  if ps.any fun p => s.flipping p.1 then .wait .held
  else (s.snoopRange func e).bind fun s _ =>
    (ps.foldl (fun (acc : Acc Unit) p => acc.bind fun s _ => s.flipBack p) (.ok s ())).bind fun s _ =>
      s.flushRange func e.gbase (e.gbase + e.len * 65536)

/-- A key identifier returns (R345). -/
def State.freeKey (s : State) (k : Nat) : State :=
  { s with keyUsed := s.keyUsed.erase k, keyFree := 2048 - (s.keyUsed.erase k).length }

/-- The lowest free key identifier. -/
def State.lowKey (s : State) : Option Nat := (List.range 2048).find? fun k => !s.keyUsed.contains k

/-- The channel group or channel of a device-physical address (R369), and the memory behind each: 1 TiB of HBM4 over 64 groups, 6 TiB of LPDDR6 over 128 channels (R5;
assumption 89, DEDUCED). -/
def State.groupSize (s : State) : Nat := if s.build = .gzC then 2 ^ 34 else 2 ^ 36
def State.groupCount (s : State) : Nat := if s.build = .gzC then 64 else 128
def State.groupBytes (s : State) : Nat := if s.build = .gzC then 2 ^ 34 else 3 * 2 ^ 34

/-- Whether a range of local memory may be granted to a function (R369, R411). -/
def State.localOk (s : State) (func pbase bytes : Nat) : Bool :=
  let top := pbase + bytes
  let part : Option Nat := if func < 128 then (s.vf func).part else none
  let groups := (List.range ((top - 1) / s.groupSize - pbase / s.groupSize + 1)).map (pbase / s.groupSize + ·)
  -- no byte of the range stands behind the memory of its channel
  let there : Bool := groups.all fun g => decide (min top ((g + 1) * s.groupSize) ≤ g * s.groupSize + s.groupBytes)
  decide (top ≤ s.groupSize * s.groupCount) && there
    && (func == 128 || match part with
      | some p => groups.all fun g => (dChan (s.part p).desc).testBit g
      | none => false)
    && (s.build != .gzC || decide (top ≤ 0xFF00000000) || decide (0x10000000000 ≤ pbase))
    && !s.exts.entries.any fun x => x.1 / 256 != func && x.2.tgt == 0 && decide (pbase < x.2.pbase + x.2.len * 65536 ∧ x.2.pbase < top)

/-- The extent that EXT_ADD's bytes give, without its key, and its index; none for a bad argument. -/
def extentOf (arg : BitVec 512) : Option (Extent × Nat) :=
  let n := arg.toNat
  let e : Extent := { rd := n.testBit 1, wr := n.testBit 2, coh := n.testBit 3, tgt := bitsN n 4 4, gbase := bitsN n 16 41 * 65536, len := bitsN n 64 32
                      pbase := bitsN n 128 64, keyId := 0, key := 0, pkg := bitsN n 208 16 }
  let idx := bitsN n 256 16
  if e.tgt > 3 ∨ e.len = 0 ∨ e.pbase % 65536 ≠ 0 ∨ idx > 255 ∨ bitsN n 8 8 ≠ 0 ∨ bitsN n 57 7 ≠ 0 ∨ bitsN n 96 32 ≠ 0 ∨ bitsN n 203 5 ≠ 0 ∨ bitsN n 224 32 ≠ 0
      ∨ e.gbase + e.len * 65536 > 2 ^ 57 then none
  else some (e, idx)

/-- Key identifiers held by a partition's functions (R375). -/
def State.keysOf (s : State) (p : Nat) : Nat := (s.exts.entries.filter fun x => decide (x.1 / 256 < 128) && (s.vf (x.1 / 256)).part == some p).length

/-- A range of local memory becomes fresh (R346, R347). -/
def State.makeFresh (s : State) (pbase bytes : Nat) : State :=
  let out (k : Nat) : Bool := !decide (pbase / 64 ≤ k ∧ k < (pbase + bytes) / 64)
  { s with
    mem := s.mem.filter fun c => out (c.1 / 64)
    written := s.written.filter fun k _ => out k
    memPsn := s.memPsn.filter out }

/-- The result that EXT_ADD's checks give (R346, R371): RESULT 0 with a key identifier, or another. -/
def State.extCheck (s : State) (func : Nat) (e : Extent) : Nat × Nat :=
  if e.tgt = 0 ∧ !s.localOk func e.pbase (e.len * 65536) then (rBAD, 0)
  else match s.lowKey with
    | none => (rNOKEY, 0)
    | some k =>
      match if func < 128 then (s.vf func).part else none with
      | some p => if s.keysOf p ≥ dKeyq (s.part p).desc then (rQUOTA, 0) else (rDONE, k)
      | none => (rDONE, k)

/-- Install an extent: the range leaves every cache, what stood at the index goes, the memory is fresh, and a key identifier is taken with a new key, which nothing but this
grant has (R343, R345, R346). -/
def State.grant (s : State) (func idx : Nat) (e : Extent) (key : Nat) : Acc Unit :=
  let old := s.exts.get? (func * 256 + idx)
  let left : Acc Unit := match old with
    | some o => s.leaveExtent func o
    | none => .ok s ()
  left.bind fun s _ =>
    (s.flushRange func e.gbase (e.gbase + e.len * 65536)).bind fun s _ =>
      let s := match old with
        | some o => s.freeKey o.keyId
        | none => s
      let s := if e.tgt = 0 then s.makeFresh e.pbase (e.len * 65536) else s
      let used := insertN key s.keyUsed
      .ok { s with
        released := s.released.filter fun r => r.1 != func || decide (r.2.1 + r.2.2 ≤ e.gbase ∨ e.gbase + e.len * 65536 ≤ r.2.1)
        exts := s.exts.set (func * 256 + idx) { e with keyId := key, key := s.nextKeyGen }, nextKeyGen := s.nextKeyGen + 1
        keyUsed := used, keyFree := 2048 - used.length } ()

/-- The state in which a removal waits: new accesses to the range are held (R343), and the pages that come back hold host requests (R412, R418). -/
def State.leave (s : State) (func idx : Nat) : State :=
  match s.exts.get? (func * 256 + idx) with
  | some o =>
    let s := { s with leaving := insertN (func * 256 + idx) s.leaving }
    if (s.sharedPages func o).any fun p => s.flipping p.1 then s else s.markPages (s.sharedPages func o)
  | none => s

/-- The removal at work: its own accesses are not held. -/
def State.left (s : State) (func idx : Nat) : State := { s with leaving := s.leaving.erase (func * 256 + idx) }

/-- EXT_ADD (R346, R371). -/
def execExtAdd (index : Nat) (arg : BitVec 512) (s : State) : Host.Outcome State Fault Refusal :=
  let done (s : State) (r : Nat) : State := s.answer 128 3 index arg r
  s.command 128 (3, index, arg) <|
  match extentOf arg with
  | none => .next (done s rBAD)
  | some (e, idx) =>
    if index > 128 then .next (done s rBAD)
    else
      let r := s.extCheck index e
      if r.1 ≠ rDONE then .next (done s r.1)
      else
        let s := s.leave index idx
        s.complete 128 (3, index, arg) ((s.left index idx).grant index idx e r.2) fun s _ => done s rDONE

/-- EXT_DEL (R343, R371, R424). An entry that is not valid is a wrong state. -/
def execExtDel (index : Nat) (arg : BitVec 512) (s : State) : Host.Outcome State Fault Refusal :=
  let idx := bitsN arg.toNat 256 16
  let done (s : State) (r : Nat) : State := s.answer 128 4 index arg r
  s.command 128 (4, index, arg) <|
  if index > 128 ∨ idx > 255 then .next (done s rBAD)
  else
    match s.exts.get? (index * 256 + idx) with
    | none => .next (done s rSTATE)
    | some e =>
      let s := s.leave index idx
      s.complete 128 (4, index, arg) ((s.left index idx).leaveExtent index e) fun s _ =>
        done ({ s with exts := s.exts.erase (index * 256 + idx) }.freeKey e.keyId) rDONE

-- ---------------------------------------------------------------------------------------------
-- Event rings

/-- EVT_SET for a function's ring (R371, R373, R381). Its base is a GPA; a ring that no extent covers cannot be written (R381). -/
def State.evtSet (s : State) (func code : Nat) (arg : BitVec 512) : Host.Outcome State Fault Refusal :=
  let base := bitsN arg.toNat 0 64
  let size := bitsN arg.toNat 64 8
  s.command func (code, 0, arg) <|
  if size < 4 ∨ size > 12 then .next (s.answer func code 0 arg rBAD)
  else .next ((s.setRingAt (funcRing func) func base size).answer func code 0 arg rDONE)

/-- PF's EVT_SET (R371). -/
def execPfEvtSet (arg : BitVec 512) (s : State) : Host.Outcome State Fault Refusal := s.evtSet 128 5 arg

/-- A VF's EVT_SET (R373). -/
def execVfEvtSet (vf : Nat) (arg : BitVec 512) (s : State) : Host.Outcome State Fault Refusal :=
  if vf < 128 ∧ (s.vf vf).en then s.evtSet vf 3 arg else .next s

-- ---------------------------------------------------------------------------------------------
-- Contexts

/-- A context number becomes FREE (R373, R377): its image key, its nodes of every state, its launches, graphs and held arrivals go. -/
def State.closeCtx (s : State) (c : Nat) : State :=
  let s := s.discardLaunches c
  let owned := s.l2.entries.filterMap fun e => match e.2.owner with
    | some (.seq d slot _) => (match (s.die d).graphs.get? slot with
      | some g => if g.ctx = c then some e.1 else none
      | none => none)
    | _ => none
  let s := owned.foldl (fun (s : State) k => s.freeSector k) s
  let s := { s with
    parts := s.parts.mapV fun _ p => { p with nodes := p.nodes.filter fun _ n => nCtx n.recd.toNat != c }
    dies := s.dies.mapV fun _ d => { d with graphs := d.graphs.filter fun _ g => g.ctx != c }
    reqs := s.reqs.filter fun q => q.ctx != c || q.core != 128
    arrivals := s.arrivals.filter fun a => a.ctx != c
    pctxs := s.pctxs.filter fun p => p.2 != c
    allots := s.allots.erase c }
  s.setCtx c (Ctx.reset c)

/-- Whether CTXQ of a VF's partition lets it open one more context; a VF that maps none has no quota. -/
def State.mayOpen (s : State) (vf : Nat) : Bool :=
  match (s.vf vf).part with
  | none => false
  | some p => decide ((s.ctxs.entries.filter fun e => decide (e.1 > 20) && e.2.st != .free && decide (e.2.func < 128) && (s.vf e.2.func).part == some p).length
                < dCtxq (s.part p).desc)

/-- CTX_OPEN (R373). With every number taken it answers as at the quota. A disabled function has no mailbox. -/
def execCtxOpen (vf : Nat) (s : State) : Host.Outcome State Fault Refusal :=
  if vf ≥ 128 ∨ !(s.vf vf).en then .next s
  else s.command vf (1, 0, 0) <|
    match if s.mayOpen vf then ((List.range 4075).map (· + 21)).find? fun c => (s.ctx c).st == .free else none with
    | none => .next (s.answerKeep vf 1 0 rQUOTA)
    | some c =>
      let s := ((s.setCtx c { Ctx.reset c with st := .idle, func := vf }).newKey c).dropTlb c fun _ => true
      let arg := (s.mailbox vf).arg
      .next (s.answer vf 1 0 (BitVec.ofNat 512 (arg.toNat / 2 ^ 16 * 2 ^ 16 + c)) rDONE)

/-- CTX_CLOSE (R373). -/
def execCtxClose (vf index : Nat) (s : State) : Host.Outcome State Fault Refusal :=
  if vf ≥ 128 ∨ !(s.vf vf).en then .next s
  else s.command vf (2, index, 0) <|
    let x := s.ctx index
    if index < 21 ∨ index > 4095 ∨ x.func ≠ vf ∨ (x.st ≠ .idle ∧ x.st ≠ .saved) then .next (s.answerKeep vf 2 index rSTATE)
    else if s.transferring index then .next (s.setBusy vf (2, index, 0))
    else .next ((s.closeCtx index).answerKeep vf 2 index rDONE)

/-- CTX_KILL (R371): it waits for a CTXSAVE or CTXLOAD of the context in progress. -/
def execCtxKill (index : Nat) (s : State) : Host.Outcome State Fault Refusal :=
  s.command 128 (6, index, 0) <|
  if index < 21 ∨ index > 4095 then .next (s.answerKeep 128 6 index rBAD)
  else if (s.ctx index).st = .free then .next (s.answerKeep 128 6 index rSTATE)
  else if s.transferring index then .next (s.setBusy 128 (6, index, 0))
  else s.complete 128 (6, index, 0) (s.dropCtx index) fun s _ => (s.closeCtx index).answerKeep 128 6 index rDONE

/-- An unlisted command code (R371): RESULT 1 and no effect. -/
def execMailboxUnknownCode (func code index : Nat) (s : State) : Host.Outcome State Fault Refusal :=
  let listed : Bool := if func = 128 then decide (1 ≤ code ∧ code ≤ 6) else decide (1 ≤ code ∧ code ≤ 3)
  .next (if func > 128 ∨ listed ∨ (s.mailbox func).pending.isSome then s else s.answerKeep func code index rBAD)

end Sys2Proof.Machine
end

