-- ==== Sys2Proof/Machine/Host.lean ====
section
/-!
DEFINITION. Sys2Proof/Machine/Host.lean: the host's side of the package: CXL.mem requests and page modes (R410 to R413), back-invalidation (R414), PMFLIP (R415 to R418), host
memory (R419, R420), and the registers of the ports (R24, R425, R429).
-/
namespace Sys2Proof.Machine

open Sys2Proof

-- ---------------------------------------------------------------------------------------------
-- Ports

/-- A host port that can carry traffic. -/
def State.hostLive (s : State) (n : Nat) : Bool :=
  match s.hostPortOf n with
  | some p => p.up && !p.viral
  | none => false

def State.inHostPort (s : State) (n : Nat) (f : Port → Port) : State :=
  match s.hostPortOf n with
  | some p => s.setDie n { s.die n with hostPort := some (f p) }
  | none => s

/-- HREFUSED and POISONRX (R425). -/
def State.refused (s : State) (n : Nat) : State := s.inHostPort n fun p => { p with c1 := satInc p.c1 }
def State.poisonRx (s : State) (n : Nat) : State := s.inHostPort n fun p => { p with c2 := satInc p.c2 }

/-- Whether a port exists in this build (R24). -/
def State.hasPort (s : State) (r : PortRef) : Bool :=
  match r with
  | .host n => (s.hostPortOf n).isSome
  | .fabric d n => decide (d < 4) && decide (n < s.fabPorts)

def State.portOf (s : State) (r : PortRef) : Port :=
  match r with
  | .host n => (s.hostPortOf n).getD .reset
  | .fabric d n => (s.die d).fports.getD n .reset

def State.setPort (s : State) (r : PortRef) (p : Port) : State :=
  if !s.hasPort r then s
  else match r with
    | .host n => s.inHostPort n fun _ => p
    | .fabric d n =>
      let x := s.die d
      s.setDie d { x with fports := x.fports.set n p }

-- ---------------------------------------------------------------------------------------------
-- The host's requests to device memory (R410 to R413)

/-- What a host request finds: no device memory at the address; an answer as for a private page; a hold; or the sector that serves it, with the key of its extent. -/
inductive HostHit where
  | none
  | refused
  | hold
  | serve (func sec addr key : Nat)
deriving DecidableEq, Repr

/-- The treatment of a host request by the mode of its page (R412). -/
def State.hostHit (s : State) (port : Nat) (addr : BitVec 64) : HostHit :=
  match s.hb with
  | none => .none
  | some hb =>
    let a := (addr - hb).toNat / 64 * 64
    if s.recovery ∨ !s.hostLive port ∨ a ≥ s.hdmSize then .none
    else
      let m := s.pageMode a
      let cover := (s.extent m.func (m.gpn * 4096)).filter fun e =>
        e.tgt == 0 && e.rd && e.wr && e.pbase + (m.gpn * 4096 - e.gbase) == a / 4096 * 4096
      let sec := m.gpn * 64 + a % 4096 / 64
      let serve : HostHit := match cover with
        | none => .refused
        | some e => if (s.home (secKey m.func sec)).owner.isSome || s.isLeaving m.func (sec * 64) then .hold else .serve m.func sec a e.key
      if m.mode = 0 then .refused
      else if m.mode = 2 then serve
      else if m.mode = 1 then
        -- served once the flip has cleaned its sector (R417)
        match s.flips.find? fun x => x.page == a / 4096 with
        | some x => if x.next > a % 4096 / 64 then serve else .hold
        | none => .hold
      else .hold

/-- The host state that a MetaValue asks for. -/
def MetaState (mv : MetaValue) : HSt := match mv with
  | .invalid => .i
  | .shared => .s
  | .any => .a

/-- A read served at the home: registered words are merged in; every L1 copy is given up first, but for MetaValue Shared (R412). -/
def State.hostRead (s : State) (func sec a key : Nat) (mv : MetaValue) : State × BitVec 512 × Bool :=
  let k := secKey func sec
  let s := s.fillHome k (.dev a key) true
  let s := if mv = .shared then s else (s.recall k (BitVec.allOnes 16)).dropOthers k none
  let (d, p) := s.copyOf k
  let v := s.mergedView k ⟨d, BitVec.allOnes 64, 0, p, true, 0⟩
  let s := if mv = .invalid then s else s.setHome k { s.home k with host := MetaState mv }
  (s, v.data, v.psn != 0)

/-- HOST_MEMRD (R412). -/
def execHostMemrd (port : Nat) (addr : BitVec 64) (mv : MetaValue) (s : State) : Host.Outcome State Fault Refusal :=
  match s.hostHit port addr with
  | .none => .next s
  | .hold => .next s
  | .refused => .next ((s.refused port).emit (.hostData addr 0 true))
  | .serve func sec a key =>
    let r := s.hostRead func sec a key mv
    .next (r.1.emit (.hostData addr r.2.1 r.2.2))

/-- A write served at the home (R412, R423). -/
def State.hostWrite (s : State) (port func sec a key : Nat) (data : BitVec 512) (mask : BitVec 64) (mv : MetaValue) (poison : Bool) : State :=
  let k := secKey func sec
  let s := if mask = BitVec.allOnes 64 then s else s.fillHome k (.dev a key) true
  let s := (s.writeCopy none k true data mask 0)
  let s := if poison then (s.poisonSector k).poisonRx port else s
  s.setHome k { s.home k with host := MetaState mv }

/-- HOST_MEMWR: MemWr, or MemWrPtl where the mask is not full (R412). -/
def execHostMemwr (port : Nat) (addr : BitVec 64) (data : BitVec 512) (mask : BitVec 64) (mv : MetaValue) (poison : Bool) (s : State) :
    Host.Outcome State Fault Refusal :=
  match s.hostHit port addr with
  | .none => .next s
  | .hold => .next s
  | .refused => .next ((if poison then s.poisonRx port else s).refused port |>.emit (.hostDone addr))
  | .serve func sec a key => .next ((s.hostWrite port func sec a key data mask mv poison).emit (.hostDone addr))

/-- HOST_MEMINV (R412). -/
def execHostMeminv (port : Nat) (addr : BitVec 64) (mv : MetaValue) (s : State) : Host.Outcome State Fault Refusal :=
  match s.hostHit port addr with
  | .none => .next s
  | .hold => .next s
  | .refused => .next ((s.refused port).emit (.hostDone addr))
  | .serve func sec _ _ =>
    let k := secKey func sec
    .next ((s.setHome k { s.home k with host := MetaState mv }).emit (.hostDone addr))

/-- HDM_DECODER_COMMIT (R410): the host commits the decoder's base. GZ-X has no host. -/
def execHdmDecoderCommit (hb : BitVec 64) (s : State) : Host.Outcome State Fault Refusal :=
  .next (if s.build = .gzC ∧ !s.recovery ∧ s.hdmSize ≠ 0 then { s with hb := some hb } else s)

-- ---------------------------------------------------------------------------------------------
-- Back-invalidation (R414)

/-- The state of a package in the pool's snoop filter (R433). -/
def State.setHolder (s : State) (a q : Nat) (st : HSt) : State :=
  let xs := (s.pfilter.getD (a / 64) []).filter fun x => x.1 != q
  let xs := if st = .i then xs else xs ++ [(q, st)]
  { s with pfilter := if xs = [] then s.pfilter.erase (a / 64) else s.pfilter.set (a / 64) xs }

/-- BISNP_RESPONSE: the bytes that the host returns are merged into the L2's copy, and its state falls to S or I. -/
def execBisnpResponse (i : Nat) (data : BitVec 512) (mask : BitVec 64) (s : State) : Host.Outcome State Fault Refusal :=
  match s.snoops[i]? with
  | none => .next s
  | some x =>
    let k := secKey x.func x.sec
    let s := { s with snoops := s.snoops.eraseIdx i }
    let s := if mask = 0 then s else (s.fillHome k (s.devTgt x.func x.sec x.addr) true).writeCopy none k true data mask 0
    .next (match x.pkg with
      | none => s.setHome k { s.home k with host := if x.inv then .i else .s }
      | some q => s.setHolder x.addr q (if x.inv then .i else .s))

/-- BICONFLICT (R406): the host has a request of its own for a sector that a snoop names. The device acknowledges the conflict, which orders the two: the request that the home
has accepted by now stands before the snoop, and the snoop stays outstanding until its answer. -/
def execBiconflict (i : Nat) (s : State) : Host.Outcome State Fault Refusal :=
  .next (match s.snoops[i]? with
    | some x => if x.pkg = none then s.emit (.biConflictAck x.addr) else s
    | none => s)

-- ---------------------------------------------------------------------------------------------
-- PMFLIP (R415 to R418)

/-- The checks of R416 in their order: a status code, or the function, guest page and device page. -/
def State.flipCheck (s : State) (c : Nat) (va : W64) (toDev : Bool) : State × (Except Nat (Nat × Nat × Nat) ⊕ Need) :=
  if s.build = .gzX ∨ s.hb.isNone then (s, .inl (.error 5))
  else
    match s.dieTranslate c va .write with
    | (s, .noncanon) => (s, .inl (.error 1))
    | (s, .fault _ _ _ _) => (s, .inl (.error 1))
    | (s, .wait n) => (s, .inr n)
    | (s, .ok gpa _) =>
      let func := s.funcOf c
      match s.extent func gpa with
      | none => (s, .inl (.error 1))
      | some e =>
        let a := e.pbase + (gpa - e.gbase)
        let m := s.pageMode a
        if !e.rd ∨ !e.wr then (s, .inl (.error 1))
        else if e.tgt ≠ 0 ∨ a ≥ s.hdmSize then (s, .inl (.error 2))
        else if (if toDev then m.mode ≠ 2 ∨ m.func ≠ func ∨ m.gpn ≠ gpa / 4096 else m.mode ≠ 0) then (s, .inl (.error 3))
        else (s, .inl (.ok (func, gpa / 4096, a / 4096)))

def State.dropFlip (s : State) (x : Flip) : State := { s with flips := s.flips.filter fun y => y.page != x.page }
def State.setFlip (s : State) (x : Flip) : State := { s with flips := s.flips.map fun y => if y.page = x.page then x else y }

/-- One sector of a flip to the host (R417): it is made clean, once no transfer owns it. Answers the status at the end. -/
def State.flipHostStep (s : State) (x : Flip) : State × Option W64 :=
  let k := secKey x.func (x.gpn * 64 + x.next)
  if (s.home k).owner.isSome then (s, none)
  else
    let s := ((s.recall k (BitVec.allOnes 16)).writeBack k (s.devTgt x.func (x.gpn * 64 + x.next) (x.page * 4096 + 64 * x.next))).dropOthers k none
    if x.next + 1 < 64 then (s.setFlip { x with next := x.next + 1 }, none)
    else ({ s.dropFlip x with pages := s.pages.set x.page ⟨2, x.func, x.gpn⟩ }, some 0)

/-- One sector of a flip to the device (R418). -/
def State.flipDevStep (s : State) (x : Flip) : State × Option W64 :=
  let sec := x.gpn * 64 + x.next
  match s.snoopOut x.func sec (x.page * 4096 + 64 * x.next) x.link with
  | .wait n => (s.request n, none)
  | .bad _ _ => (s, none)
  | .ok s link =>
    if x.next + 1 < 64 then (s.setFlip { x with next := x.next + 1, link := link }, none)
    else
      let s := (List.range 64).foldl (fun (s : State) i =>
        let k := secKey x.func (x.gpn * 64 + i)
        (s.recall k (BitVec.allOnes 16)).dropOthers k none) s
      ({ s.dropFlip x with pages := s.pages.erase x.page }, some (if link then statusOf 4 0 else 0))

/-- PMFLIP in either direction: its checks and its entry's transition at the first turn, then a sector a turn (R417, R418). -/
def State.pmflip (s : State) (a : Args) (toDev : Bool) : Host.Outcome State Fault Refusal :=
  let v := a.view
  s.sysInstr v (specPmflip toDev v) fun h g s =>
    let c := (s.uniSrc h g v.sa false).toNat
    let va := s.uniSrc h g v.sbSrc true
    let done (s : State) (y : W64) : Acc Outs := .ok (s.acquire h.c 6 false) (onceOut v g y)
    match if h.r.waiting then s.flips.find? (fun x => x.core == h.c && x.fid == h.fid) else none with
    | some x =>
      match if toDev then s.flipDevStep x else s.flipHostStep x with
      | (s, none) => .ok s (againOut g)
      | (s, some y) => done s y
    | none =>
      if !s.reaches h.f.ctx c then .ok s (trapLanes g tFORBIDDEN 1)
      else if va.toNat % 4096 ≠ 0 then .ok s (trapLanes g tMISALIGNED 2)
      else
        (s.release h.c h.f.ctx 6).bind fun s _ =>
          match s.flipCheck c va toDev with
          | (_, .inr n) => .wait n
          | (s, .inl (.error code)) => done s (statusOf code 0)
          | (s, .inl (.ok (func, gpn, page))) =>
            let flip : Flip := { core := h.c, fid := h.fid, page := page, func := func, gpn := gpn, toDev := toDev, next := 0, link := false }
            .ok { s with pages := s.pages.set page ⟨if toDev then 3 else 1, func, gpn⟩, flips := s.flips ++ [flip] } (againOut g)

/-- PMFLIP.H (R417). -/
def execPmflipH (a : Args) (s : State) : Host.Outcome State Fault Refusal := s.pmflip a false

/-- PMFLIP.D (R418). -/
def execPmflipD (a : Args) (s : State) : Host.Outcome State Fault Refusal := s.pmflip a true

-- ---------------------------------------------------------------------------------------------
-- Host memory: the coherence agent (R419, R420)

/-- The line that the agent holds at a host address, with its key. -/
def State.lineAt (s : State) (addr : BitVec 64) : Option (HostLine × Nat) :=
  (s.lines.get? (addr.toNat / 64)).map fun ln => (ln, secKey ln.func ln.gsec)

/-- The sectors that a snoop names: that of the line which the agent holds at a host address, or those that this package caches of a pool package's sector (R427). -/
def State.snooped (s : State) (src : Option (BitVec 16)) (addr : BitVec 64) : List Nat :=
  match src with
  | none => ((s.lineAt addr).map (·.2)).toList
  | some q => s.cachedOf fun p a => p == q.toNat && a / 64 == addr.toNat / 64

/-- What the package holds of some sectors: the bytes of a mask, and whether a word is poisoned. -/
def State.snoopBytes (s : State) (ks : List Nat) (mask : Sector → BitVec 64) : BitVec 512 × BitVec 64 × Bool :=
  ks.foldl (fun (r : BitVec 512 × BitVec 64 × Bool) k =>
    match (s.home k).copy with
    | none => r
    | some x =>
      let v := s.mergedView k x
      (mergeBytes r.1 v.data (mask v), r.2.1 ||| mask v, r.2.2 || v.psn != 0)) (0, 0, false)

/-- A snoop is answered, unless a transfer owns the sector: then after its last write (R420). In recovery nothing answers (R458). -/
def State.snoop (s : State) (src : Option (BitVec 16)) (addr : BitVec 64) (f : List Nat → State × (BitVec 512 × BitVec 64 × Bool)) :
    Host.Outcome State Fault Refusal :=
  let ks := s.snooped src addr
  if s.recovery || ks.any fun k => (s.home k).owner.isSome then .next s
  else
    let (s, d, m, p) := f ks
    .next (s.emit (.snpData addr d m p))

/-- SNPINV: registrations are recalled, every copy goes, modified bytes are returned. -/
def execSnpinv (req : SnpReq) (s : State) : Host.Outcome State Fault Refusal :=
  s.snoop req.src req.addr fun ks =>
    let s := ks.foldl (fun (s : State) k => (s.recall k (BitVec.allOnes 16)).dropOthers k none) s
    let r := s.snoopBytes ks (·.dirty)
    let s := ks.foldl (fun (s : State) k => s.setHome k { s.home k with copy := none, host := if req.src.isSome then .i else (s.home k).host }) s
    (if req.src.isNone then { s with lines := s.lines.erase (req.addr.toNat / 64) } else s, r)

/-- SNPDATA: modified bytes are returned and the L2 keeps a clean shared copy; a line held without its data is exclusive no longer. -/
def execSnpdata (req : SnpReq) (s : State) : Host.Outcome State Fault Refusal :=
  s.snoop req.src req.addr fun ks =>
    let s := ks.foldl (fun (s : State) k => s.recall k (BitVec.allOnes 16)) s
    let r := s.snoopBytes ks (·.dirty)
    let s := ks.foldl (fun (s : State) k =>
      let h := s.home k
      s.setHome k { h with copy := h.copy.map fun x => { x with dirty := 0 }, host := if req.src.isSome ∧ h.host ≠ .i then .s else h.host }) s
    (match if req.src.isNone then s.lines.get? (req.addr.toNat / 64) else none with
     | some ln => { s with lines := s.lines.set (req.addr.toNat / 64) { ln with excl := false } }
     | none => s, r)

/-- SNPCUR: the current bytes are returned and nothing changes. -/
def execSnpcur (req : SnpReq) (s : State) : Host.Outcome State Fault Refusal :=
  s.snoop req.src req.addr fun ks => (s, s.snoopBytes ks (·.valid))

/-- CXL_CACHE_RESPONSE: the line arrives that the agent has asked for, for the one function that holds it; whoever waited for it tries again (R419). Poisoned data poisons the
sector and is counted (R423). -/
def execCxlCacheResponse (i port : Nat) (data : BitVec 512) (poison : Bool) (s : State) : Host.Outcome State Fault Refusal :=
  match s.creqs[i]? with
  | none => .next s
  | some q =>
    if q.failed ∨ !q.sent ∨ !s.hostLive port ∨ s.recovery then .next s
    else
      let k := secKey q.func q.sec
      let s := { s with creqs := s.creqs.filter fun x => x.failed || x.addr / 64 != q.addr / 64 }
      let s := if poison ∧ q.r ≠ .rdOwnNoData then s.poisonRx port else s
      let old := s.lines.get? (q.addr / 64)
      let excl : Bool := match old with
        | some ln => ln.excl && ln.func == q.func && ln.gsec == q.sec
        | none => false
      let line (excl : Bool) (curr : Option (BitVec 512 × Bool)) : State :=
        { s with lines := s.lines.set (q.addr / 64) { func := q.func, gsec := q.sec, excl := excl, curr := curr } }
      let install (s : State) : State :=
        let s := s.roomL2 k
        let h := s.home k
        -- bytes that the package has written since under the line stay
        let x : Sector := match h.copy with
          | some c => { c with data := mergeBytes data c.data c.dirty, valid := BitVec.allOnes 64
                               psn := if poison then BitVec.allOnes 16 else c.psn, coh := true }
          | none => ⟨data, BitVec.allOnes 64, 0, if poison then BitVec.allOnes 16 else 0, true, s.clock⟩
        s.setHome k { h with copy := some x }
      .next (match q.r with
        | .rdCurr => line excl (some (data, poison))
        | .rdShared => install (line excl none)
        | .rdOwn => install (line true none)
        | .rdOwnNoData => line true none)

end Sys2Proof.Machine
end

