-- ==== Sys2Proof/Machine/Graphs.lean ====
section
/-!
DEFINITION. Sys2Proof/Machine/Graphs.lean: the collective sequencer of a die: graph images (R443), their operations (R444, R445), a run and its completion record (R442, R446,
R447), and CGLOAD and CGRUN (R448 to R450).
-/
namespace Sys2Proof.Machine

open Sys2Proof

-- ---------------------------------------------------------------------------------------------
-- Fields (R443)

def gNops (h : BitVec 512) : Nat := bitsN h.toNat 0 11
def gDbase (h : BitVec 512) : Nat := bitsN h.toNat 16 3
def gDoff (h : BitVec 512) : Nat := bitsN h.toNat 32 32
def gDcb (h : BitVec 512) : Nat := bitsN h.toNat 64 6
def gDcbv (h : BitVec 512) : Bool := h.toNat.testBit 70
def gTmo (h : BitVec 512) : Nat := bitsN h.toNat 128 32

def oKind (o : BitVec 256) : Nat := bitsN o.toNat 0 4
def oFmt (o : BitVec 256) : Nat := bitsN o.toNat 4 4
def oLbase (o : BitVec 256) : Nat := bitsN o.toNat 8 3
def oNdep (o : BitVec 256) : Nat := bitsN o.toNat 16 10
def oLoff (o : BitVec 256) : Nat := bitsN o.toNat 32 32
def oCount (o : BitVec 256) : Nat := bitsN o.toNat 64 16
def oVidx (o : BitVec 256) : Nat := bitsN o.toNat 80 16
def oVm (o : BitVec 256) : Nat := bitsN o.toNat 96 8
def oNcon (o : BitVec 256) : Nat := bitsN o.toNat 104 8
def oNfet (o : BitVec 256) : Nat := bitsN o.toNat 112 8
def oRbase (o : BitVec 256) : Nat := bitsN o.toNat 128 3
def oCb (o : BitVec 256) : Nat := bitsN o.toNat 136 6
def oCbv (o : BitVec 256) : Bool := o.toNat.testBit 142
def oCcore (o : BitVec 256) : Nat := bitsN o.toNat 144 7
def oRoff (o : BitVec 256) : Nat := bitsN o.toNat 160 32
def oAmount (o : BitVec 256) : BitVec 32 := BitVec.ofNat 32 (bitsN o.toNat 192 32)
/-- The successors, as a set: S0 and S1, where they are not 0x7FF (R446). -/
def oSucc (o : BitVec 256) : List Nat := (uniqN [bitsN o.toNat 224 11, bitsN o.toNat 235 11]).filter (· != 0x7FF)

/-- Whether an operation names a vat. -/
def oVat (o : BitVec 256) : Bool := oKind o ≤ 1

/-- The bytes of an element of a vat format: F32, BF16, F16. -/
def vatBytes (fmt : Nat) : Nat := if fmt = 0 then 4 else 2
def vatTy (fmt : Nat) : Ty := if fmt = 0 then .f32 else if fmt = 1 then .bf16 else .f16

-- ---------------------------------------------------------------------------------------------
-- The checks of CGLOAD (R443, R449)

/-- A header outside R443. -/
def gHeadBad (h : BitVec 512) : Bool :=
  let n := h.toNat
  gNops h == 0 || decide (gNops h > 1024) || bitsN n 11 5 != 0 || bitsN n 19 13 != 0 || gDoff h % 16 != 0 || bitsN n 71 57 != 0 || bitsN n 160 352 != 0

/-- An operation outside R443, in a graph of `n`. -/
def opBad (n : Nat) (o : BitVec 256) : Bool :=
  let x := o.toNat
  bitsN x 11 5 != 0 || bitsN x 26 6 != 0 || bitsN x 120 8 != 0 || bitsN x 131 5 != 0 || bitsN x 143 1 != 0 || bitsN x 151 9 != 0 || bitsN x 246 10 != 0
    || decide (oKind o > 4)
    || (if oVat o then decide (oFmt o > 2) || oCount o == 0 || decide (oCount o > 256) || oNcon o == 0 || oNfet o == 0 else oFmt o != 0)
    || (oKind o == 2 && oCount o == 0) || (oKind o == 3 && !oCbv o) || (oSucc o).any (n ≤ ·)

/-- How many operations of a graph name each operation as a successor (R449). -/
def namedCounts (ops : List (BitVec 256)) : KMap Nat :=
  (ops.flatMap oSucc).foldl (fun (m : KMap Nat) k => m.set k (m.getD k 0 + 1)) .empty

/-- How many operations can be reached by completing those that nothing names, one after another: all of them where there is no cycle. Fuel: one round for each
operation. -/
def peelOps (ops : List (BitVec 256)) : Nat → KMap Nat → List Nat → Nat
  | 0, _, _ => 0
  | _ + 1, _, [] => 0
  | n + 1, left, i :: queue =>
    let r := (oSucc (ops.getD i 0)).foldl (fun (a : KMap Nat × List Nat) k =>
      let c := a.1.getD k 0 - 1
      (a.1.set k c, if c = 0 then a.2 ++ [k] else a.2)) (left, queue)
    1 + peelOps ops n r.1 r.2

/-- Whether a graph is refused with BAD_GRAPH. -/
def graphBad (h : BitVec 512) (ops : List (BitVec 256)) : Bool :=
  let n := gNops h
  let named := namedCounts ops
  let sources := (List.range n).filter fun i => named.getD i 0 == 0
  gHeadBad h || ops.any (opBad n) || (List.range n).any (fun i => named.getD i 0 != oNdep (ops.getD i 0)) || peelOps ops (n + 1) named sources != n

-- ---------------------------------------------------------------------------------------------
-- Runs

/-- Status codes of the completion record (R447). -/
def cgLOST := 1
def cgABORTED := 2
def cgREFUSED := 3
def cgTIMEOUT := 4
def cgMISMATCH := 5
def cgFAULT := 6
def cgPOISON := 7
def cgPREEMPTED := 8

def State.graph? (s : State) (d slot : Nat) : Option Graph := (s.die d).graphs.get? slot
def State.setGraph (s : State) (d slot : Nat) (g : Graph) : State :=
  let x := s.die d
  s.setDie d { x with graphs := x.graphs.set slot g }

def Graph.op (g : Graph) (o : Nat) : BitVec 256 := g.ops.getD o 0
def CgRun.st (r : CgRun) (o : Nat) : OpSt := r.sts.getD o .waiting

/-- Change a run. -/
def State.inRun (s : State) (d slot : Nat) (f : CgRun → CgRun) : State :=
  match s.graph? d slot with
  | some g => s.setGraph d slot { g with run := g.run.map f }
  | none => s

def OpSt.inFlight (x : OpSt) : Bool := match x with
  | .started => true
  | .retrying => true
  | .landing _ => true
  | _ => false

/-- Operations of a run, and of a die's sequencer, that are in flight. -/
def CgRun.busy (r : CgRun) : Nat := (r.sts.entries.filter fun e => e.2.inFlight).length
def State.seqBusy (s : State) (d : Nat) : Nat :=
  (s.die d).graphs.entries.foldl (fun n g => n + (g.2.run.map CgRun.busy).getD 0) 0

/-- The pool member that an operation's VM selects (R445). -/
def CgRun.member (r : CgRun) (o : BitVec 256) : Nat := r.pools.getD (oVm o % r.pools.length) 0

/-- The local address of an operation (R444). -/
def CgRun.local (r : CgRun) (o : BitVec 256) : W64 := r.bases.getD (oLbase o) 0 + BitVec.ofNat 64 (oLoff o)

def vatKeyOf (r : CgRun) (o : BitVec 256) : VatKey := ⟨r.coll, BitVec.ofNat 16 (oVidx o)⟩

/-- A request of an operation to another package is outstanding (R430): it ends with the operation, or with its answer. -/
def State.opAsks (s : State) (d slot o pkg : Nat) (gpa : Nat) : State :=
  match s.graph? d slot with
  | none => s
  | some g =>
    let r := s.fabricPort pkg gpa
    let q : Request :=
      { pkg := pkg, via := r.1.2, port := r.1.1, ctx := g.ctx, since := s.clock, core := 128, fid := 0, va := 0, gpa := gpa, what := .op d slot o }
    { r.2 with reqs := s.reqs ++ [q] }
def State.opAnswered (s : State) (d slot o : Nat) : State := { s with reqs := s.reqs.filter fun q => q.what != .op d slot o }
/-- Whether a request of an operation is outstanding. -/
def State.opWaits (s : State) (d slot o : Nat) : Bool := s.reqs.any fun q => q.what == .op d slot o

/-- An operation fails: the first failure is the run's status, and the run stops (R442, R446). -/
def State.opFail (s : State) (d slot o code ident : Nat) : State :=
  (s.opAnswered d slot o).inRun d slot fun r => { r with
    sts := r.sts.set o .failed, stopping := true
    status := r.status.orElse fun _ => some (code, o, BitVec.ofNat 16 ident) }

/-- An operation completes: the counts of its successors fall (R446). -/
def State.opDone (s : State) (d slot o : Nat) : State :=
  match s.graph? d slot with
  | none => s
  | some g => (s.opAnswered d slot o).inRun d slot fun r => { r with
      sts := r.sts.set o .completed
      cnts := (oSucc (g.op o)).foldl (fun (m : KMap Int) k => m.set k (m.getD k (oNdep (g.op k)) - 1)) r.cnts }

/-- The values that a contribution sends, least element first. -/
def valuesOf (fmt count x : Nat) : List W32 := (List.range count).map fun i => BitVec.ofNat 32 (bitsN x (8 * vatBytes fmt * i) (8 * vatBytes fmt))

/-- A contribution is sent (R436, R437). -/
def State.sendContrib (s : State) (d slot o : Nat) (vals : List W32) : State :=
  match s.graph? d slot with
  | none => s
  | some g =>
    match g.run with
    | none => s
    | some r =>
      let x := g.op o
      ((s.inRun d slot fun r => { r with sts := r.sts.set o .started, began := r.began.set o s.clock, sent := r.sent.set o vals }).opAsks d slot o (r.member x) 0).emit
        (.contrib (BitVec.ofNat 16 (r.member x)) (s.funcOf g.ctx) (vatKeyOf r x) (oFmt x) (oNcon x) (oNfet x) (oCount x) vals)

/-- Start a SENDV: its values are read and sent (R444). A read that has to wait leaves the contribution to be retried. -/
def State.startSendv (s : State) (d slot o : Nat) (g : Graph) (r : CgRun) : State :=
  let x := g.op o
  let a := r.local x
  if a.toNat % 64 ≠ 0 then s.opFail d slot o cgFAULT 0
  else if !s.reachable (r.member x) then s.opFail d slot o cgLOST (r.member x)
  else
    match s.readFar g.ctx r.pgt a (oCount x * vatBytes (oFmt x)) with
    | (s, .ok n) => s.sendContrib d slot o (valuesOf (oFmt x) (oCount x) n)
    | (s, .fault) => s.opFail d slot o cgFAULT 0
    | (s, .poison) => s.opFail d slot o cgPOISON 0
    | (_, .wait n) => (s.request n).inRun d slot fun r => { r with sts := r.sts.set o .retrying, began := r.began.set o s.clock }

/-- Start an operation (R444, R446). -/
def State.startOp (s : State) (d slot o : Nat) : State :=
  match s.graph? d slot with
  | none => s
  | some g =>
    match g.run with
    | none => s
    | some r =>
      let x := g.op o
      let mark (st : OpSt) (s : State) : State := s.inRun d slot fun r => { r with sts := r.sts.set o st, began := r.began.set o s.clock }
      match oKind x with
      | 0 => s.startSendv d slot o g r
      | 1 =>
        if (r.local x).toNat % 64 ≠ 0 then s.opFail d slot o cgFAULT 0
        else if !s.reachable (r.member x) then s.opFail d slot o cgLOST (r.member x)
        else (mark .started s).emit (.fetch (BitVec.ofNat 16 (r.member x)) (s.funcOf g.ctx) (vatKeyOf r x) (oFmt x))
      | 2 => if (r.local x).toNat % 64 ≠ 0 then s.opFail d slot o cgFAULT 0 else mark (.landing 0) s
      | _ => mark .started s

/-- Start what may start, in increasing index, with at most 64 operations of the die in flight (R442, R446). -/
def State.pumpRun (s : State) (d slot : Nat) : State :=
  match s.graph? d slot with
  | none => s
  | some g => (List.range g.ops.length).foldl (fun (s : State) o =>
      match (s.graph? d slot).bind (·.run) with
      | none => s
      | some r =>
        if !r.stopping && r.st o == .waiting && decide (r.cnts.getD o (oNdep (g.op o)) ≤ 0) && decide (s.seqBusy d < 64) then s.startOp d slot o else s) s

/-- The ABORTs of a stop: every vat key that the graph names, at its member where that is reachable (R442). -/
def State.sendAborts (s : State) (d slot : Nat) (g : Graph) (r : CgRun) : State :=
  let s := s.inRun d slot fun r => { r with
    aborted := true
    sts := r.sts.mapV fun _ x => if x = .retrying then .failed else x }
  (g.ops.filter fun o => oVat o && s.reachable (r.member o)).foldl (fun (s : State) o =>
    s.emit (.abort (BitVec.ofNat 16 (r.member o)) (s.funcOf g.ctx) (vatKeyOf r o))) s

/-- The completion record of a run (R447). -/
def CgRun.record (r : CgRun) : Nat :=
  let (st, op, ident) := r.status.getD (0, 0, 0)
  st % 256 + op % 1024 * 2 ^ 16 + ident.toNat * 2 ^ 32 + r.coll.toNat * 2 ^ 64 + r.gen % 2 ^ 32 * 2 ^ 96

/-- An arrival at a barrier of this package (R234): whether it was refused. -/
def State.arriveAt (s : State) (core cb ctx launch : Nat) (amount : Int) : State × Bool :=
  match s.arrive core cb ctx launch amount with
  | .applied s => (s, false)
  | .held => ({ s with arrivals := s.arrivals ++ [⟨core, cb, ctx, launch, amount⟩] }, false)
  | .refused => (s, true)

/-- An arrival that a core of this package has refused faults into the context that made it (R234; assumption 86, DEDUCED). -/
def State.arrivalRefused (s : State) (ctx core : Nat) : State := s.noteFailure ctx core 0 1 3 0

/-- The end of a run: the record, and the signal of DCB even where the record cannot be written (R446, R447). A refused signal faults into the run's context (R234; assumption
86, DEDUCED). -/
def State.endRun (s : State) (d slot : Nat) (g : Graph) (r : CgRun) : Acc Unit :=
  let va := r.bases.getD (gDbase g.hdr) 0 + BitVec.ofNat 64 (gDoff g.hdr)
  let written : Acc Unit :=
    if va.toNat % 16 ≠ 0 then .ok s ()
    else
      match s.dieTranslate g.ctx va .write with
      | (_, .wait n) => .wait n
      | (s, .ok gpa cls) =>
        match s.writeUnit (s.funcOf g.ctx) gpa cls (numSec r.record (gpa % 64)) (maskOf (gpa % 64) 16) false with
        | .bad _ _ => .ok s ()
        | x => x
      | (s, _) => .ok s ()
  written.bind fun s _ =>
    let s := if gDcbv g.hdr then
        (match s.arriveAt r.core (gDcb g.hdr) g.ctx r.launch 1 with
         | (s, refused) => if refused then s.arrivalRefused g.ctx r.core else s)
      else s
    .ok (s.setGraph d slot { g with run := none }) ()

/-- The ABORTs of a run that stops, and the end of a run that has nothing in flight. -/
def State.closeRun (s : State) (d slot : Nat) : State :=
  match s.graph? d slot with
  | none => s
  | some g =>
    match g.run with
    | none => s
    | some r =>
      let s := if r.stopping && !r.aborted then s.sendAborts d slot g r else s
      match (s.graph? d slot).bind (·.run) with
      | none => s
      | some r =>
        if (r.stopping && r.busy == 0) || (List.range g.ops.length).all fun o => r.st o == .completed then
          match s.endRun d slot g r with
          | .ok s _ => s
          | .bad _ _ => s
          | .wait n => s.request n
        else s

/-- Bring a die's sequencer forward after a change to one run: that run's stop or end, and then what every run of the die may start. An operation may fail as it starts. -/
def State.settle (s : State) (d slot : Nat) : State :=
  (s.die d).graphs.keys.foldl (fun (s : State) k => (s.pumpRun d k).closeRun d k) (s.closeRun d slot)

-- ---------------------------------------------------------------------------------------------
-- Operations complete

/-- The answer of a pool package to a contribution or fetch that was not served; the record names that package (R447). -/
def State.vatRefused (s : State) (d slot o : Nat) (pkg : Nat) (res : FabRes) : State :=
  match res with
  | .lost _ => s.opFail d slot o cgLOST pkg
  | .aborted _ => s.opFail d slot o cgABORTED pkg
  | .refused _ => s.opFail d slot o cgREFUSED pkg
  | .mismatch _ => s.opFail d slot o cgMISMATCH pkg
  | _ => s

/-- The answer to a contribution (R436, R437). -/
def State.contribAnswer (s : State) (d slot o : Nat) (r : CgRun) (x : BitVec 256) (res : FabRes) : State :=
  if !s.reachable (r.member x) then s.opFail d slot o cgLOST (r.member x)
  else
    match res with
    | .ack => s.opDone d slot o
    | .nack => (s.opAnswered d slot o).inRun d slot fun r => { r with sts := r.sts.set o (if r.stopping then .failed else .retrying), began := r.began.set o s.clock }
    | .values _ => s
    | res => s.vatRefused d slot o (r.member x) res

/-- The sectors of a FETCHV: address and bytes of each. -/
def fetchSectors (x : BitVec 256) (a : W64) : List (W64 × Nat) :=
  let total := oCount x * vatBytes (oFmt x)
  (List.range ((total + 63) / 64)).map fun i => (a + BitVec.ofNat 64 (64 * i), min 64 (total - 64 * i))

/-- Take the sectors that an operation will write (R330). None where one is refused. -/
def State.seqOwn (s : State) (ctx : Nat) (o : Owner) : List (W64 × Nat) → Acc Bool
  | [] => .ok s true
  | (a, len) :: rest =>
    match s.dieTranslate ctx a .write with
    | (_, .wait n) => .wait n
    | (s, .ok gpa _) => (s.takeOwner (s.funcOf ctx) gpa o (len == 64)).bind fun s got => if got then s.seqOwn ctx o rest else .ok s false
    | (s, _) => .ok s false

/-- A fetch is answered: its sectors are owned, and land one after another. -/
def State.fetchAnswer (s : State) (d slot o : Nat) (g : Graph) (r : CgRun) (x : BitVec 256) (vs : List W32) : Acc Unit :=
  let own : Owner := .seq d slot o
  (s.routeRange g.ctx r.pgt (r.local x) (oCount x * vatBytes (oFmt x))).bind fun s _ => (s.seqOwn g.ctx own (fetchSectors x (r.local x))).bind fun s got =>
    if got then .ok (s.inRun d slot fun r => { r with sts := r.sts.set o (.landing 0), sent := r.sent.set o vs }) ()
    else .ok ((s.dropOwner own).opFail d slot o cgFAULT 0) ()

/-- Sector n of a FETCHV lands (R444): it is written and released, and its barrier counts its bytes. -/
def State.fetchLand (s : State) (d slot o n : Nat) (g : Graph) (r : CgRun) (x : BitVec 256) : Acc Unit :=
  let own : Owner := .seq d slot o
  let secs := fetchSectors x (r.local x)
  let fail (s : State) (code : Nat) : Acc Unit := .ok ((s.dropOwner own).opFail d slot o code 0) ()
  match secs[n]? with
  | none => .ok (s.opDone d slot o) ()
  | some (a, len) =>
    let b := vatBytes (oFmt x)
    let vals := ((r.sent.getD o []).drop (64 / b * n)).take (len / b)
    let data := vals.zipIdx.foldl (fun (m : Nat) v => m + v.1.toNat % 2 ^ (8 * b) * 2 ^ (8 * b * v.2)) 0
    match s.dieTranslate g.ctx a .write with
    | (_, .wait n) => .wait n
    | (s, .ok gpa cls) =>
      let k := secKey (s.funcOf g.ctx) (gpa / 64)
      match (s.takeRoute g.ctx r.pgt gpa).bind fun s _ => s.passOwner k (· == own) fun s => s.writeUnit (s.funcOf g.ctx) gpa cls (BitVec.ofNat 512 data) (maskOf 0 len) false with
      | .wait n => .wait n
      | .bad _ _ => fail s cgFAULT
      | .ok s _ =>
        let s := s.disownKey k own
        let (s, refused) := if oCbv x then s.arriveAt (oCcore x) (oCb x) g.ctx r.launch len else (s, false)
        if refused then fail s cgREFUSED
        else if n + 1 < secs.length then .ok (s.inRun d slot fun r => { r with sts := r.sts.set o (.landing (n + 1)) }) ()
        else .ok (s.opDone d slot o) ()
    | (s, _) => fail s cgFAULT

/-- Sector n of a SENDP (R444): it is read and sent to a TGT 1 address on the route that the run's table gives now (R401), and has landed when the destination acknowledges
it. -/
def State.sendpStep (s : State) (d slot o n : Nat) (g : Graph) (r : CgRun) (x : BitVec 256) (res : FabRes) : Acc Unit :=
  let step : W64 := BitVec.ofNat 64 (64 * n)
  let src := r.local x + step
  let dst := r.bases.getD (oRbase x) 0 + BitVec.ofNat 64 (oRoff x) + step
  let fail (s : State) (code ident : Nat) : Acc Unit := .ok (s.opFail d slot o code ident) ()
  match s.dieTranslate g.ctx dst .write with
  | (_, .wait n) => .wait n
  | (s, .ok gpa cls) =>
    match s.extent (s.funcOf g.ctx) gpa with
    | none => fail s cgFAULT 0
    | some e =>
      if e.tgt ≠ 1 ∨ !e.wr ∨ dst.toNat % 64 ≠ 0 then fail s cgFAULT 0
      else if !s.opWaits d slot o then
        match s.readFar g.ctx r.pgt src 64 with
        | (_, .wait n) => .wait n
        | (s, .fault) => fail s cgFAULT 0
        | (s, .poison) => fail s cgPOISON 0
        | (s, .ok data) =>
          (s.takeRoute g.ctx r.pgt gpa).bind fun s _ =>
            if !s.reachable e.pkg then fail s cgLOST e.pkg
            else
              let words := (List.range 16).map fun i => BitVec.ofNat 32 (bitsN data (32 * i) 32)
              .ok (((s.inRun d slot fun r => { r with sent := r.sent.set o words }).opAsks d slot o e.pkg gpa).emit
                (.sendp e.pkg (e.pbase + (gpa - e.gbase)) (BitVec.ofNat 512 data) false (oCbv x) (oCb x) (oCcore x))) ()
      else
        match res with
        | .ack =>
          let data := (r.sent.getD o []).zipIdx.foldl (fun (m : Nat) w => m + w.1.toNat * 2 ^ (32 * w.2)) 0
          -- the acknowledged sector is no write that still waits for an answer
          (s.writeUnit (s.funcOf g.ctx) gpa cls (BitVec.ofNat 512 data) (BitVec.allOnes 64) false).bind fun t _ =>
            let s := { t with reqs := s.reqs, out := s.out }.opAnswered d slot o
            if n + 1 < oCount x then .ok (s.inRun d slot fun r => { r with sts := r.sts.set o (.landing (n + 1)) }) ()
            else .ok (s.opDone d slot o) ()
        | .lost _ => fail s cgLOST e.pkg
        | .refused _ => fail s cgREFUSED e.pkg
        | _ => .ok s ()
  | (s, _) => fail s cgFAULT 0

/-- A wait on a barrier ends when it is armed with a count of zero (R444), with an acquire at its SCOPE. The sequencer reads at the homes, so only the L2 takes part. -/
def State.waitStep (s : State) (d slot o : Nat) (g : Graph) (r : CgRun) (x : BitVec 256) : State :=
  let b := s.cb (oCcore x) (oCb x)
  if r.stopping then s.opFail d slot o cgPREEMPTED 0
  else if !s.holdsLaunch (oCcore x) g.ctx r.launch then s.opFail d slot o cgREFUSED 0
  else if b.armed ∧ b.count = 0 then (s.acquireL2 b.scope).opDone d slot o
  else s

/-- A SIGNAL applies its amount (R444). -/
def State.signalStep (s : State) (d slot o : Nat) (g : Graph) (r : CgRun) (x : BitVec 256) : State :=
  if !oCbv x then s.opDone d slot o
  else
    let (s, refused) := s.arriveAt (oCcore x) (oCb x) g.ctx r.launch (oAmount x).toInt
    if refused then s.opFail d slot o cgREFUSED 0 else s.opDone d slot o

/-- What the event of an operation does (R444). -/
def State.opStep (s : State) (d slot o : Nat) (g : Graph) (r : CgRun) (res : FabRes) : Acc Unit :=
  let x := g.op o
  match r.st o with
  | .started =>
    (match oKind x with
     | 0 => .ok (s.contribAnswer d slot o r x res) ()
     | 1 =>
       if !s.reachable (r.member x) then .ok (s.opFail d slot o cgLOST (r.member x)) ()
       else
         (match res with
          | .values vs => if vs.length = oCount x then s.fetchAnswer d slot o g r x vs else .ok s ()
          | .ack => .ok s ()
          | .nack => .ok s ()
          | res => .ok (s.vatRefused d slot o (r.member x) res) ())
     | 3 => .ok (s.waitStep d slot o g r x) ()
     | _ => .ok (s.signalStep d slot o g r x) ())
  | .landing n => if oKind x = 1 then s.fetchLand d slot o n g r x else s.sendpStep d slot o n g r x res
  | _ => .ok s ()

/-- CG_OP_COMPLETE (R446): the answer to an operation in flight, or its next sector; then the run goes on. -/
def execCgOpComplete (die slot op : Nat) (res : FabRes) (s : State) : Host.Outcome State Fault Refusal :=
  match s.graph? die slot with
  | none => .next s
  | some g =>
    match g.run with
    | none => .next s
    | some r => s.finish (s.opStep die slot op g r res) fun s _ => s.settle die slot

/-- CONTRIB_RETRY (R436): a contribution that got a NACK is sent again after 2048 cycles, unless its run has stopped; `res` is the answer. -/
def execContribRetry (die slot op : Nat) (res : FabRes) (s : State) : Host.Outcome State Fault Refusal :=
  match s.graph? die slot with
  | none => .next s
  | some g =>
    match g.run with
    | none => .next s
    | some r =>
      let x := g.op op
      if r.st op ≠ .retrying then .next s
      else if r.stopping then .next (s.settle die slot)
      else
        match r.sent.get? op with
        | none => .next ((s.startSendv die slot op g r).settle die slot)
        | some vals =>
          if s.clock - r.began.getD op 0 < 2048 then .next s
          else .next (((s.sendContrib die slot op vals).contribAnswer die slot op r x res).settle die slot)

/-- CG_TIMEOUT (R446): a wait on a barrier or a fetch has passed its TMO. -/
def execCgTimeout (die slot op : Nat) (s : State) : Host.Outcome State Fault Refusal :=
  match s.graph? die slot with
  | none => .next s
  | some g =>
    match g.run with
    | none => .next s
    | some r =>
      let k := oKind (g.op op)
      if r.st op ≠ .started ∨ (k ≠ 1 ∧ k ≠ 3) ∨ gTmo g.hdr = 0 ∨ s.clock - r.began.getD op 0 < gTmo g.hdr * 4096 then .next s
      else .next ((s.opFail die slot op cgTIMEOUT 0).settle die slot)

-- ---------------------------------------------------------------------------------------------
-- CGLOAD and CGRUN (R448 to R450)

/-- What the instructions of R449 share: one execution for the bundle at every privilege, a release at .pl before and an acquire at .pl after. `body` answers the
DST value, or none for poisoned bytes, which trap (R449). -/
def State.packInstr (s : State) (v : View) (o : OpSpec) (body : Here → W32 → State → Acc (Option W64)) : Host.Outcome State Fault Refusal :=
  s.flightInstr v o { once := true } fun h g s =>
    (s.release h.c h.f.ctx 5).bind fun s _ =>
      (body h g s).bind fun s y =>
        match y with
        | some y => .ok (s.acquire h.c 5 false) (onceOut v g y)
        | none => .ok s { lanes := (lanesOf g).map fun l => ⟨l, .trap tPOISON 1 (.tok 0), .next⟩ }

/-- CGLOAD (R450). -/
def State.loadGraph (s : State) (ctx core : Nat) (pgt va : W64) : Acc (Option W64) :=
  let d := core / 32
  let fail (s : State) (code : Nat) : Acc (Option W64) := .ok s (some (statusOf code 0))
  if va.toNat % 64 ≠ 0 then fail s 1
  else
    match s.readFar ctx pgt va 64 with
    | (_, .wait n) => .wait n
    | (s, .fault) => fail s 3
    | (s, .poison) => .ok s none
    | (s, .ok h) =>
      let hdr := BitVec.ofNat 512 h
      if gHeadBad hdr then fail s 1
      else
        match s.readFar ctx pgt (va + 64) (32 * gNops hdr) with
        | (_, .wait n) => .wait n
        | (s, .fault) => fail s 3
        | (s, .poison) => .ok s none
        | (s, .ok b) =>
          let ops := (List.range (gNops hdr)).map fun i => BitVec.ofNat 256 (b / 2 ^ (256 * i))
          if graphBad hdr ops then fail s 1
          else
            let x := s.die d
            match (List.range 8).find? fun k => !x.graphs.has k with
            | none => fail s 2
            | some k =>
              if x.graphs.entries.foldl (fun n g => n + g.2.ops.length) 0 + ops.length > 4096 then fail s 2
              else
                let gen := (x.nextGen + 1) % 2 ^ 32
                .ok (s.setDie d { x with nextGen := gen, graphs := x.graphs.set k { ctx := ctx, gen := gen, hdr := hdr, ops := ops, run := none } })
                  (some (BitVec.ofNat 64 (k + d * 2 ^ 3 + gen * 2 ^ 32)))

/-- The graph that a handle names on the issuing die, of the issuing context. -/
def State.graphOf (s : State) (ctx core : Nat) (handle : W64) : Option (Nat × Graph) :=
  let h := handle.toNat
  let slot := h % 8
  match s.graph? (core / 32) slot with
  | some g => if bitsN h 5 27 = 0 ∧ bitsN h 3 2 = core / 32 ∧ g.gen = h / 2 ^ 32 ∧ g.ctx = ctx then some (slot, g) else none
  | none => none

/-- CGLOAD (R450). -/
def execCgload (a : Args) (s : State) : Host.Outcome State Fault Refusal :=
  let v := a.view
  s.packInstr v (specCgload false v) fun h g s => s.loadGraph h.f.ctx h.c (s.tableOf h.f.launch) (s.uniSrc h g v.sa true)

/-- CGLOAD.FREE (R450). -/
def execCgloadFree (a : Args) (s : State) : Host.Outcome State Fault Refusal :=
  let v := a.view
  s.packInstr v (specCgload true v) fun h g s =>
    match s.graphOf h.f.ctx h.c (s.uniSrc h g v.sa true) with
    | none => .ok s (some (statusOf 4 0))
    | some (slot, gr) =>
      if gr.run.isSome then .ok s (some (statusOf 5 0))
      else
        let x := s.die (h.c / 32)
        .ok (s.setDie (h.c / 32) { x with graphs := x.graphs.erase slot }) (some 0)

/-- CGRUN's start of a run, with the table that it has read (R446, R450). -/
def State.startRunOf (s : State) (h : Here) (slot : Nat) (g : Graph) (bases : List W64) (coll : W32) (pgt : W64) (t : Pgt) : Acc (Option W64) :=
  let pools := t.healthyPools
  if !(t.healthyComps ++ pools).contains s.ident.toNat ∨ (pools.isEmpty && g.ops.any oVat) then .ok s (some (statusOf 6 0))
  else
    let run : CgRun :=
      { bases := bases, coll := coll, core := h.c, launch := ((s.launch? h.f.launch).map (·.id)).getD 0, gen := t.gen, pools := pools, pgt := pgt, cnts := .empty
        sts := .empty, began := .empty, sent := .empty, status := none, stopping := false, aborted := false }
    .ok ((s.setGraph (h.c / 32) slot { g with run := some run }).settle (h.c / 32) slot) (some 0)

/-- CGRUN (R450). -/
def execCgrun (a : Args) (s : State) : Host.Outcome State Fault Refusal :=
  let v := a.view
  s.packInstr v (specCgrun v) fun h g s =>
    match s.graphOf h.f.ctx h.c (s.uniSrc h g v.sa true) with
    | none => .ok s (some (statusOf 4 0))
    | some (slot, gr) =>
      if gr.run.isSome then .ok s (some (statusOf 5 0))
      else
        let bases := (List.range 8).map fun k => h.r.sreg (a.sb.idx.toNat + k)
        let coll := (s.uniSrc h g v.sc false).setWidth 32
        match (s.launch? h.f.launch).map (·.pgt) with
        | none => .ok s (some (statusOf 6 0))
        | some pgt =>
          if pgt = 0 then .ok s (some (statusOf 6 0))
          else
            match (s.acquireL2 6).readPgt h.f.ctx pgt with
            | (_, .wait n) => .wait n
            | (s, .fault) => .ok s (some (statusOf 3 0))
            | (s, .poison) => .ok s none
            | (s, .bad) => .ok s (some (statusOf 6 0))
            | (s, .ok t) => s.startRunOf h slot gr bases coll pgt t

end Sys2Proof.Machine
end

