-- ==== Sys2Proof/Machine/Links.lean ====
section
/-!
DEFINITION. Sys2Proof/Machine/Links.lean: the links of the package: lost peers, viral ports and unanswered requests (R408, R414, R423, R430), training and lanes (R407, R463),
and DOE (R409, R458).
-/
namespace Sys2Proof.Machine

open Sys2Proof

-- ---------------------------------------------------------------------------------------------
-- Requests that fail (R342, R423, R430)

/-- What an outstanding request of this package leaves when it fails: the lane of a load defers at landing; a write has had no effect, and is reported by STORE_FAILURE; an
operation fails with LOST. -/
def State.failReq (s : State) (q : Request) : State :=
  match q.what with
  | .load id lane =>
    match s.flight? q.core q.fid with
    | none => s
    | some f =>
      match f.loads.get? id with
      | none => s
      | some ld =>
        let res := ld.res.map fun r => if r.1 = lane then (r.1, LRes.late 3 3 false q.va (BitVec.ofNat 64 q.gpa)) else r
        s.setFlight q.core q.fid { f with loads := f.loads.set id { ld with res := res } }
  | .write b old mask psn =>
    let s := { s with
      fab := setSector b old mask s.fab
      fabPsn := if psn then insertN (b / 64) s.fabPsn else s.fabPsn.erase (b / 64) }
    -- no copy keeps bytes that never arrived
    let k := secKey (s.funcOf q.ctx) (q.gpa / 64)
    let h := s.home k
    let s := if (h.copy.map (·.dirty)) = some 0 ∧ h.owner.isNone then s.setHome k { h with copy := none } else s
    if q.ctx < 4096 then s.noteFailure q.ctx q.core (((s.flight? q.core q.fid).map (·.idx)).getD 0) 3 3 q.gpa else s
  | .op d slot o => (s.opFail d slot o cgLOST q.pkg).settle d slot

/-- The requests of a test fail, the latest first, so that of writes to one place what stood before all of them remains. -/
def State.failReqs (s : State) (p : Request → Bool) : State :=
  let bad := s.reqs.filter p
  bad.reverse.foldl (fun (s : State) q => s.failReq q) { s with reqs := s.reqs.filter fun q => !p q }

/-- The operations in flight that are aimed at the vats of a package (R442, R456): die, slot and number. -/
def State.aimed (s : State) (pkg : Nat) : List (Nat × Nat × Nat) :=
  s.dies.entries.flatMap fun d => d.2.graphs.entries.flatMap fun g => match g.2.run with
    | none => []
    | some r => ((List.range g.2.ops.length).filter fun o => (r.st o).inFlight && oVat (g.2.op o) && r.member (g.2.op o) == pkg).map fun o => (d.1, g.1, o)

/-- A peer package is lost (R430): LOST on every port to it; what is outstanding to it or on a route through it fails (R456), and runs with an operation aimed at it; its
sectors and requests here are given up; and the task packets that it has will complete with LOST (R453). -/
def State.losePkg (s : State) (pkg : Nat) : State :=
  let s := { s with
    lostPkgs := insertN pkg s.lostPkgs
    dies := s.dies.mapV fun _ d => { d with fports := d.fports.mapV fun _ p => if p.peer.toNat = pkg then { p with lost := true } else p }
    heldReqs := s.heldReqs.filter fun q => q.req.pkg.toNat != pkg
    packets := s.packets.mapV fun _ p => if p.sent && p.pkg.toNat == pkg then { p with lost := true } else p }
  let s := (s.dropOwner (.peer pkg)).failReqs fun q => q.pkg == pkg || q.via == pkg
  (s.aimed pkg).foldl (fun (s : State) x => (s.opFail x.1 x.2.1 x.2.2 cgLOST pkg).settle x.1 x.2.1) s

/-- A peer whose every link is down or viral is lost. -/
def State.checkPeer (s : State) (pkg : Nat) : State :=
  let links := s.dies.entries.flatMap fun d => (d.2.fports.entries.filter fun p => p.2.peer.toNat == pkg).map (·.2)
  if !links.isEmpty && links.all fun p => !p.up || p.viral then s.losePkg pkg else s

/-- BISNP_TIMEOUT: no answer within 2^22 cycles. The sector is poisoned; a flip to the device that waits for a BISnpInv of its sector ends with LINK (R414, R416, R418). A package
that does not answer is lost. -/
def execBisnpTimeout (i : Nat) (s : State) : Host.Outcome State Fault Refusal :=
  match s.snoops[i]? with
  | none => .next s
  | some x =>
    if s.clock - x.start < 2 ^ 22 then .next s
    else
      let t := { s with snoops := s.snoops.eraseIdx i }
      match x.pkg with
      | some q => .next ((t.setHolder x.addr q .i).losePkg q)
      | none =>
        let waits (f : Flip) : Bool := x.inv && f.toDev && f.page == x.addr / 4096 && f.func == x.func && f.gpn * 64 + f.next == x.sec
        .next ({ t with flips := t.flips.map fun (f : Flip) => if waits f then { f with link := true } else f }.unanswered (secKey x.func x.sec)
          (s.devTgt x.func x.sec x.addr))

-- ---------------------------------------------------------------------------------------------
-- The links

/-- The agent's requests on a host port that carries no more traffic go to the other port, or end where there is none (R408). -/
def State.moveReqs (s : State) (n : Nat) : State :=
  { s with creqs := if s.hostLive (1 - n) then s.creqs.map fun q => if q.port = n ∧ !q.failed then { q with port := 1 - n } else q
                    else s.creqs.filter fun q => q.port != n || q.failed }

/-- A port goes down (R408, R430). Without port 0 the host cannot reach configuration space: a machine check. -/
def State.portDown (s : State) (r : PortRef) : State :=
  let p := s.portOf r
  let s := s.setPort r { p with up := false, retrain := false }
  match r with
  | .host n => (if n = 0 then s.emit (.machineCheck 2) else s).moveReqs n
  | .fabric _ _ => if p.up then s.checkPeer p.peer.toNat else s

/-- LINK_DOWN (R408, R430). -/
def execLinkDown (port : PortRef) (s : State) : Host.Outcome State Fault Refusal :=
  .next (if s.hasPort port && (s.portOf port).up then s.portDown port else s)

/-- LINK_TRAIN (R407, R24, R430): the port comes up at x16 on its working lanes, or stays down (R408). Retraining clears VIRAL and LOST. -/
def execLinkTrain (port : PortRef) (peer : BitVec 16) (lanes : Nat) (slow ide : Bool) (s : State) : Host.Outcome State Fault Refusal :=
  if !s.hasPort port then .next s
  else if lanes < 16 then .next (s.portDown port)
  else
    let p := s.portOf port
    let s := s.setPort port { p with up := true, viral := false, lost := false, ide := ide, spares := 18 - min lanes 18, slow := slow, peer := peer, retrain := false }
    match port with
    | .host _ => .next s
    | .fabric _ _ =>
      .next { s with
        lostPkgs := s.lostPkgs.erase peer.toNat
        dies := s.dies.mapV fun _ d => { d with fports := d.fports.mapV fun _ p => if p.peer = peer then { p with lost := false } else p } }

/-- LANE_FAIL (R463): a spare is swapped in by a retrain; without a spare the port stays down. -/
def execLaneFail (port : PortRef) (s : State) : Host.Outcome State Fault Refusal :=
  let p := s.portOf port
  .next (if !s.hasPort port || !p.up then s
    else if p.spares < 2 then s.setPort port { p with spares := p.spares + 1, retrain := true }
    else s.portDown port)

/-- LANE_RETRAIN_DONE (R463). -/
def execLaneRetrainDone (port : PortRef) (s : State) : Host.Outcome State Fault Refusal :=
  .next (if s.hasPort port then s.setPort port { s.portOf port with retrain := false } else s)

/-- VIRAL_RECEIVED (R423): each context with a request outstanding on the port takes the context trap VIRAL; its loads defer, and its writes have had no effect. Host lines that
wait on the port fail for everyone that waits for them. A peer without another link is lost (R430). -/
def execViralReceived (port : PortRef) (s : State) : Host.Outcome State Fault Refusal :=
  let p := s.portOf port
  if !s.hasPort port || !p.up || p.viral then .next s
  else
    let onHost (q : CReq) : Bool := !q.failed && port == .host q.port
    let ctxs := uniqN (((s.reqs.filter fun q => q.port == port).map (·.ctx) ++ (s.creqs.filter onHost).map (·.ctx)).filter (· < 4096))
    let s := (s.setPort port { p with viral := true }).failReqs fun q => q.port == port
    let s := { s with creqs := (s.creqs.filter fun q => !(onHost q && q.ctx ≥ 4096)).map fun q => if onHost q then { q with failed := true } else q }
    let s := ctxs.foldl (fun (s : State) c => s.trapContext c causeViral 0) s
    match port with
    | .host _ => .next s
    | .fabric _ _ => .next (s.checkPeer p.peer.toNat)

/-- PEER_REQUEST_TIMEOUT (R430): a request of any kind unanswered for 2^22 cycles counts its peer as lost, and TMOCNT of its port counts it. -/
def execPeerRequestTimeout (i : Nat) (s : State) : Host.Outcome State Fault Refusal :=
  match s.reqs[i]? with
  | none => .next s
  | some q =>
    let p := s.portOf q.port
    if s.clock - q.since < 2 ^ 22 || p.retrain then .next s
    else .next ((s.setPort q.port { p with c1 := satInc p.c1 }).losePkg q.pkg)

/-- HOLD_NOTICE (R430): the holding package asks for more time, and the request's count starts again. -/
def execHoldNotice (i : Nat) (s : State) : Host.Outcome State Fault Refusal :=
  match s.reqs[i]? with
  | none => .next s
  | some q => .next { s with reqs := s.reqs.set i { q with since := s.clock } }

/-- HOLD_NOTICE_TIMER (R430): this package sends the notice for another's request that it holds, every 2^16 cycles. -/
def execHoldNoticeTimer (i : Nat) (s : State) : Host.Outcome State Fault Refusal :=
  match s.heldReqs[i]? with
  | none => .next s
  | some q => .next (if s.clock - q.since < 2 ^ 16 then s else { s with heldReqs := s.heldReqs.set i { q with since := s.clock } }.emit (.holdNotice i))

-- ---------------------------------------------------------------------------------------------
-- DOE (R409, R458)

/-- The measurements of attestation (R458): the hashes of the firmware image and of the configuration record, and the retire masks of the four dies. -/
def State.measurements (s : State) : List Byte :=
  bytesN (Config.digest (s.flash.map BitVec.toNat)).toNat 32 ++ bytesN (Config.digest (s.cfg.map BitVec.toNat)).toNat 32
    ++ (List.range 4).flatMap fun d => bytesN (s.die d).retire.toNat 8

/-- Whether DOE is reached through a port (R406, R408, R458): host port 0 of GZ-C; a fabric port of GZ-X, which in recovery is port 0. -/
def State.doeUp (s : State) (port : PortRef) : Bool :=
  (s.portOf port).up && s.hasPort port && match port with
    | .host n => n == 0
    | .fabric d n => s.build == .gzX && (!s.recovery || (d == 0 && n == 0))

/-- DOE_REQUEST (R409): SPDM measurements, or IDE_KM keys for a port. -/
def execDoeRequest (req : DoeReq) (s : State) : Host.Outcome State Fault Refusal :=
  if !s.doeUp req.port then .next s
  else match req.msg with
  | .measurements => .next (s.emit (.doe 0 s.measurements))
  | .ideKeys port =>
    .next (if s.hasPort port && (s.portOf port).up then (s.setPort port { s.portOf port with ide := true }).emit (.doe 1 []) else s)

end Sys2Proof.Machine
end

