-- ==== Sys2Proof/Machine/Pool.lean ====
section
/-!
DEFINITION. Sys2Proof/Machine/Pool.lean: what other packages ask of this one: memory (R309, R427, R432 to R434), SENDP sectors (R444), dynamic capacity (R431, R432), and
vats (R435 to R440).
-/
namespace Sys2Proof.Machine

open Sys2Proof

-- ---------------------------------------------------------------------------------------------
-- Memory that other packages reach

/-- The pool-side function of a package and function (R427). -/
def State.bound (s : State) (pkg : BitVec 16) (func : Nat) : Option Nat := (s.binds.find? fun x => x.1 == (pkg, func)).map (·.2)

/-- The local extent that holds n bytes at a device-physical address, with its function: of one function, or of any (R444). -/
def State.extentAt (s : State) (func : Option Nat) (a n : Nat) : Option (Nat × Extent) :=
  (s.exts.entries.find? fun e =>
    e.2.tgt == 0 && decide (e.2.pbase ≤ a ∧ a + n ≤ e.2.pbase + e.2.len * 65536) && (func.isNone || func == some (e.1 / 256))).map
    fun e => (e.1 / 256, e.2)

/-- Whether a request reads, and whether it writes, at its home. -/
def reqRd (q : MemReq) : Bool := match q.kind with
  | .read => true
  | .readOwn => true
  | .readSite => true
  | .atomic _ _ => true
  | _ => false
def reqWr (q : MemReq) : Bool := match q.kind with
  | .read => false
  | .readSite => false
  | .disown => false
  | _ => true

/-- Bytes of an atomic by its type code. -/
def atomTy (code : Nat) : Ty := (Ty.ofCode code).getD .b32

/-- The bytes of a write request, with the poison that came with them. Like every write of an agent that is no core of the package, it leaves no L1 copy of the sector (R317,
R330). -/
def State.writeReq (s : State) (func sec : Nat) (q : MemReq) : Acc Unit :=
  (s.writeAtHome none func sec false false q.data q.mask 0).bind fun s _ =>
    let s := s.takeSector (secKey func sec)
    .ok (if q.poison then s.poisonSector (secKey func sec) else s) ()

/-- Whether a request may pass the owner of its sector (R281): the package that owns it. -/
def ownsIt (q : MemReq) (o : Owner) : Bool := o == .peer q.pkg.toNat

/-- A request performed at the home of its sector (R320, R330, R434): data and poison for a read, the old value for an atomic. A transfer of another package holds a sector here
until it gives it up. -/
def State.serveHome (s : State) (func gpa : Nat) (q : MemReq) : Acc (BitVec 512 × Bool) :=
  let sec := gpa / 64
  let k := secKey func sec
  match q.kind with
  | .read => (s.readAtHome func sec (BitVec.allOnes 64)).bind fun s (d, p) => .ok s (d, p != 0)
  | .readSite => (s.readAtCtl func sec true false).bind fun s (d, p) => .ok s (d, p != 0)
  | .readOwn =>
    (s.readyHome func sec true true true false).bind fun s (t, coh) =>
      let s := ((s.fillHome k t coh).recall k (BitVec.allOnes 16)).dropOthers k none
      .ok s ((s.copyOf k).1, (s.copyOf k).2 != 0)
  | .own =>
    match (s.home k).owner with
    | some o => if ownsIt q o then .ok s (0, false) else .wait .held
    | none => (s.readyHome func sec false true true false).bind fun s _ =>
        let s := s.takeSector k
        .ok (s.setHome k { s.home k with owner := some (.peer q.pkg.toNat) }) (0, false)
  | .disown => .ok (if (s.home k).owner = some (.peer q.pkg.toNat) then s.freeSector k else s) (0, false)
  | .write => (s.writeReq func sec q).bind fun s _ => .ok s (0, false)
  | .writeBack => (s.writeReq func sec q).bind fun s _ => .ok s (0, false)
  | .atomic op code =>
    let ty := atomTy code
    (s.rmwN 1000 .ctl func gpa false (if op = 11 then 48 else ty.bytes) (atomNew op ty (q.b.toNat % 2 ^ ty.width) (q.c.toNat % 2 ^ ty.width))).bind fun s (m, p) =>
      .ok s (BitVec.ofNat 512 m, p)

/-- The answer to a request: data, an acknowledgement, or a refusal. -/
def State.memAnswer (s : State) (q : MemReq) (r : Option (BitVec 512 × Bool)) : State :=
  match r with
  | none => s.emit (.memAck q.pkg q.addr false)
  | some (d, p) => if reqRd q then s.emit (.memData q.pkg q.addr d p) else s.emit (.memAck q.pkg q.addr true)

/-- A request that must wait at a home here: the holding package counts it, and sends the requester notices (R430). -/
def State.holdReq (s : State) (q : MemReq) (n : Need) : State :=
  let s := s.request n
  if s.heldReqs.any fun x => x.req == q then s else { s with heldReqs := s.heldReqs ++ [⟨q, s.clock⟩] }

/-- A request that has been answered waits here no more. -/
def State.unholdReq (s : State) (q : MemReq) : State := { s with heldReqs := s.heldReqs.filter fun x => x.req != q }

/-- Serve a request that reaches an extent; a refusal of the second stage is the sender's (R342). -/
def State.serveExtent (s : State) (func : Nat) (e : Extent) (q : MemReq) : Host.Outcome State Fault Refusal :=
  let a := q.addr.toNat
  let gpa := e.gbase + (a - e.pbase)
  if (reqRd q && !e.rd) || (reqWr q && !e.wr) then .next (s.memAnswer q none)
  else
    match s.passOwner (secKey func (gpa / 64)) (fun o => ownsIt q o && q.kind != .own && q.kind != .disown) fun s => s.serveHome func gpa q with
    | .ok s r => .next ((s.unholdReq q).memAnswer q (some r))
    | .bad _ _ => .next ((s.unholdReq q).memAnswer q none)
    | .wait n => .next (s.holdReq q n)

/-- The port of a pool package's crossbar to a destination (R428): of one that is linked. Each link joins a compute package to a pool package (R24). -/
def State.crossbar (s : State) (dst : BitVec 16) : Option PortRef :=
  if s.build = .gzX ∧ s.linked dst.toNat then (s.livePorts.find? fun p => p.2.2 == dst.toNat).map fun p => .fabric p.1 p.2.1 else none

/-- PEER_MEM_REQUEST (R309): a compute package's memory, reached through the pool by another package's TGT 1 extent. A pool package switches one that is for another package to
the port of its destination; one that it cannot deliver is refused (R2, R428). -/
def execPeerMemRequest (req : MemReq) (s : State) : Host.Outcome State Fault Refusal :=
  if s.recovery then .next s
  else if s.build = .gzX ∧ req.dst ≠ s.ident then
    match s.crossbar req.dst with
    | some port => .next (s.emit (.forward port req))
    | none => .next (s.memAnswer req none)
  else match s.extentAt none req.addr.toNat 1 with
    | none => .next (s.memAnswer req none)
    | some (func, e) => s.serveExtent func e req

/-- The package that must give a sector up before a request is served (R433): one in A for a read, every other holder for a request that will own the sector, every holder for
an atomic, a site step or a write at the controller. -/
def State.conflict (s : State) (q : MemReq) : Option Nat :=
  let a := q.addr.toNat
  match q.kind with
  | .read => s.holder a false (some q.pkg.toNat)
  | .readOwn => s.holder a true (some q.pkg.toNat)
  | .own => s.holder a true (some q.pkg.toNat)
  | .writeBack => none
  | .disown => none
  | _ => s.holder a true none

/-- The snoop filter after a request (R433): a coherent read makes the requester a sharer, a read that owns makes it the holder. Bulk memory is not tracked; the class of the
page is the sender's and comes with the request. -/
def State.afterReq (s : State) (e : Extent) (q : MemReq) (old : List (Nat × HSt)) : State :=
  let a := q.addr.toNat
  let p := q.pkg.toNat
  let s := { s with pfilter := if old = [] then s.pfilter.erase (a / 64) else s.pfilter.set (a / 64) old }
  let tracked := e.coh || q.coh
  match q.kind with
  | .read => if tracked && !(old.any fun x => x == (p, .a)) then s.setHolder a p .s else s
  | .readOwn => if tracked then s.setHolder a p .a else s
  | .own => if tracked then s.setHolder a p .a else s
  | .writeBack => s.setHolder a p .i
  | _ => s

/-- POOL_MEM_REQUEST (R427, R433): pool memory of a bound pair. Requests of an unbound pair, or to a range that is not granted, are refused (R427, R432). -/
def execPoolMemRequest (req : MemReq) (s : State) : Host.Outcome State Fault Refusal :=
  if s.recovery then .next s
  else match s.bound req.pkg req.func with
  | none => .next (s.memAnswer req none)
  | some pf =>
    match s.extentAt (some pf) req.addr.toNat 1 with
    | none => .next (s.memAnswer req none)
    | some (func, e) =>
      let a := req.addr.toNat
      let gpa := e.gbase + (a - e.pbase)
      if s.isLeaving func gpa && req.kind != .disown && (s.home (secKey func (gpa / 64))).owner != some (.peer req.pkg.toNat) then .next (s.holdReq req .held)
      else match s.conflict req with
      | some q =>
        -- a holder in A gives bytes up for a read; an access that owns or changes the sector invalidates
        .next (s.holdReq req (.peer (match req.kind with
          | .read => false
          | _ => true) func (gpa / 64) a q))
      | none =>
        if (reqRd req && !e.rd) || (reqWr req && !e.wr) then .next (s.memAnswer req none)
        else
          let old := s.pfilter.getD (a / 64) []
          let bare := { s with pfilter := s.pfilter.erase (a / 64) }
          match bare.passOwner (secKey func (gpa / 64)) (fun o => ownsIt req o && req.kind != .own && req.kind != .disown) fun s => s.serveHome func gpa req with
          | .ok s r => .next (((s.afterReq e req old).unholdReq req).memAnswer req (some r))
          | .bad _ _ => .next ((s.unholdReq req).memAnswer req none)
          | .wait n => .next (s.holdReq req n)

/-- SENDP_SECTOR (R444): accepted where one function's local extent with WR holds the sector and the named barrier is of a context of that function. The sector for a
context that is saved out is retried by the sender (R457). A pool package switches one that is for another package to the port of its destination (R428). -/
def execSendpSector (ends : PodEnds) (addr : BitVec 64) (data : BitVec 512) (poison : Bool) (cbv : Bool) (cb core ctx launch : Nat) (s : State) :
    Host.Outcome State Fault Refusal :=
  let refuse (s : State) : State := s.emit (.memAck ends.src addr false)
  if s.recovery then .next s
  else if s.build = .gzX ∧ ends.dst ≠ s.ident then
    match s.crossbar ends.dst with
    | some port => .next (s.emit (.forwardSector port ends.src ends.dst addr data poison cbv cb core ctx launch))
    | none => .next (refuse s)
  else match s.extentAt none addr.toNat 64 with
  | none => .next (refuse s)
  | some (func, e) =>
    if !e.wr ∨ addr.toNat % 64 ≠ 0 ∨ (cbv ∧ s.funcOf ctx ≠ func) then .next (refuse s)
    else
      let land (s : State) : Host.Outcome State Fault Refusal :=
        match s.writeUnit func (e.gbase + (addr.toNat - e.pbase)) false data (BitVec.allOnes 64) poison with
        | .ok s _ =>
          let s := if cbv then (s.arriveAt core cb ctx launch 64).1 else s
          .next (s.emit (.memAck ends.src addr true))
        | .bad _ _ => .next (refuse s)
        | .wait n => .next (s.request n)
      if !cbv then land s
      else match s.arrive core cb ctx launch 64 with
        | .applied _ => land s
        | .held => .next s
        | .refused => .next (refuse s)

-- ---------------------------------------------------------------------------------------------
-- Dynamic capacity (R431, R432)

/-- The dynamic capacity regions of a logical device, at most 8 (R431); one that nothing has bounded has all of memory as its region 0 (assumption 90, DESIGN CHOICE). -/
def State.regionsOf (s : State) (func : Nat) : List (Nat × Nat) :=
  match (List.range 8).filterMap fun n => s.regions.get? (func * 8 + n) with
  | [] => [(0, 2 ^ 43)]
  | rs => rs

/-- ADD_DYNAMIC_CAPACITY: a grant to a pool-side function in blocks of 256 MiB within one of its regions, as R346 gives. -/
def execAddDynamicCapacity (func index : Nat) (arg : BitVec 512) (tag : Nat) (s : State) : Host.Outcome State Fault Refusal :=
  let answer (ok : Bool) (s : State) : State := s.emit (.capacity func index tag ok)
  match extentOf arg with
  | none => .next (answer false s)
  | some (e, _) =>
    let r := s.extCheck func e
    let inside := (s.regionsOf func).any fun g => decide (g.1 ≤ e.pbase ∧ e.pbase + e.len * 65536 ≤ g.1 + g.2)
    if s.build = .gzC ∨ s.recovery ∨ func > 128 ∨ index > 255 ∨ e.tgt ≠ 0 ∨ e.len % 4096 ≠ 0 ∨ e.pbase % 2 ^ 28 ≠ 0 ∨ !inside ∨ r.1 ≠ rDONE then
      .next (answer false s)
    else s.finish ((s.left func index).grant func index e r.2) fun s _ => answer true { s with tags := s.tags.set (func * 256 + index) tag }

/-- RELEASE_DYNAMIC_CAPACITY: as R343, with every holder back-invalidated first; new accesses are held meanwhile. What reaches the range afterwards is refused (R432). -/
def execReleaseDynamicCapacity (func index : Nat) (s : State) : Host.Outcome State Fault Refusal :=
  let key := func * 256 + index
  let tag := s.tags.getD key 0
  let answer (ok : Bool) (s : State) : State := s.emit (.capacity func index tag ok)
  match s.exts.get? key with
  | none => .next (answer false s)
  | some e =>
    if s.build = .gzC ∨ s.recovery ∨ index > 255 then .next (answer false s)
    else (s.leave func index).finish ((s.left func index).leaveExtent func e) fun s _ =>
      answer true ({ s with exts := s.exts.erase key, tags := s.tags.erase key, released := s.released ++ [(func, e.gbase, e.len * 65536)] }.freeKey e.keyId)

-- ---------------------------------------------------------------------------------------------
-- Vats

/-- The vat of a pool-side function and key. -/
def State.vat? (s : State) (func : Nat) (key : VatKey) : Option (Nat × Vat) := s.vats.entries.find? fun v => v.2.func == func && v.2.key == key

/-- Whether a function's partition may hold one more vat (R368, R436). -/
def State.vatQuota (s : State) (func : Nat) : Bool :=
  match (s.vf func).part with
  | none => false
  | some p => decide ((s.vats.entries.filter fun v => (s.vf v.2.func).part == some p).length < dVats (s.part p).desc)

/-- The addition of one contribution to every element (R437). -/
def Vat.add (v : Vat) (vals : List W32) : Vat :=
  let elems := vals.zipIdx.foldl (fun (m : KMap (BitVec 384)) x =>
    let old := match m.get? x.2 with
      | some b => XA.ofNat b.toNat
      | none => XA.zero
    m.set x.2 (BitVec.ofNat 384 (old.add (fval (vatTy v.fmt) false x.1.toNat)).toNat)) v.elems
  let n := v.got + 1
  { v with elems := elems, got := n, st := if n = v.ncon then .full else .filling }

/-- The rounded elements that a fetch returns (R438). -/
def Vat.values (v : Vat) (fmt : Nat) : List W32 :=
  (List.range v.count).map fun i =>
    BitVec.ofNat 32 ((match v.elems.get? i with
      | some b => XA.ofNat b.toNat
      | none => XA.zero).round (vatTy fmt).fmt)

/-- A contribution is served (R436, R437): it is added to its vat, or takes a FREE one, or is refused. -/
def State.contribute (s : State) (q : VatReq) : State :=
  let answer (s : State) (r : FabRes) : State := s.emit (.vatAnswer q.pkg r)
  match s.bound q.pkg q.func with
  | none => answer s (.refused s.ident)
  | some pf =>
    match s.vat? pf q.key with
    | some (i, v) =>
      if v.st = .aborted then answer { s with vats := s.vats.set i { v with since := s.clock } } (.aborted s.ident)
      else if v.st = .full ∨ v.ncon ≠ q.ncon ∨ v.nfet ≠ q.nfet ∨ v.fmt ≠ q.fmt ∨ v.count ≠ q.count then answer s (.mismatch s.ident)
      else answer { s with vats := s.vats.set i (v.add q.vals) } .ack
    | none =>
      match if s.vatQuota pf then (List.range 4096).find? fun i => !s.vats.has i else none with
      | none => answer s .nack
      | some i =>
        let v : Vat := { func := pf, key := q.key, st := .filling, ncon := q.ncon, nfet := q.nfet, fmt := q.fmt, count := q.count, got := 0, fetched := 0
                         elems := .empty, since := s.clock }
        answer { s with vats := s.vats.set i (v.add q.vals) } .ack

/-- The end of a cycle: the requests for vats that reached the allocator in it are served from the first port at or after q, and after a tie q becomes the winner's port plus 1
(R436). -/
def State.serveVats (s : State) : State :=
  let qs := (List.range 32).flatMap fun k => s.vatQ.filter fun q => q.port == (s.vatPort + k) % 32
  let next := match qs with
    | q :: _ :: _ => (q.port + 1) % 32
    | _ => s.vatPort
  qs.foldl (fun (s : State) q => s.contribute q) { s with vatQ := [], vatPort := next }

/-- VAT_CONTRIBUTION (R436, R437): one for a key that has a vat is served at once; one that needs a vat waits for the allocator's order among those of its cycle. -/
def execVatContribution (port : Nat) (pkg : BitVec 16) (func : Nat) (key : VatKey) (fmt ncon nfet count : Nat) (vals : List (BitVec 32)) (s : State) :
    Host.Outcome State Fault Refusal :=
  let q : VatReq := { port := port, pkg := pkg, func := func, key := key, fmt := fmt, ncon := ncon, nfet := nfet, count := count, vals := vals }
  if s.recovery ∨ port ≥ 32 then .next s
  else match (s.bound pkg func).map fun pf => s.vat? pf key with
    | some none => .next { s with vatQ := s.vatQ ++ [q] }
    | _ => .next (s.contribute q)

/-- VAT_FETCH (R438): one for a key with no vat, or whose vat is filling, waits at the sender. The NFET-th fetch frees the vat. -/
def execVatFetch (pkg : BitVec 16) (func : Nat) (key : VatKey) (fmt : Nat) (s : State) : Host.Outcome State Fault Refusal :=
  let answer (s : State) (r : FabRes) : Host.Outcome State Fault Refusal := .next (s.emit (.vatAnswer pkg r))
  if s.recovery then .next s
  else match s.bound pkg func with
  | none => answer s (.refused s.ident)
  | some pf =>
    match s.vat? pf key with
    | none => .next s
    | some (i, v) =>
      match v.st with
      | .filling => .next s
      | .aborted => answer { s with vats := s.vats.set i { v with since := s.clock } } (.aborted s.ident)
      | .full =>
        let v' := { v with fetched := v.fetched + 1 }
        answer { s with vats := if v'.fetched ≥ v.nfet then s.vats.erase i else s.vats.set i v' } (.values (v.values fmt))

/-- VAT_ABORT (R439): the vat refuses from now on; without a vat nothing happens. -/
def execVatAbort (pkg : BitVec 16) (func : Nat) (key : VatKey) (s : State) : Host.Outcome State Fault Refusal :=
  match if s.recovery then none else (s.bound pkg func).bind fun pf => s.vat? pf key with
  | none => .next s
  | some (i, v) => .next { s with vats := s.vats.set i { v with st := .aborted, elems := .empty, since := s.clock } }

/-- VAT_ABORT_EXPIRY (R435): 2^24 cycles without a request that names the key. -/
def execVatAbortExpiry (i : Nat) (s : State) : Host.Outcome State Fault Refusal :=
  match s.vats.get? i with
  | none => .next s
  | some v => .next (if v.st = .aborted ∧ s.clock - v.since ≥ 2 ^ 24 then { s with vats := s.vats.erase i } else s)

end Sys2Proof.Machine
end

