-- ==== Sys2Proof/Machine/Tasks.lean ====
section
/-!
DEFINITION. Sys2Proof/Machine/Tasks.lean: task images and packets: TSREG and TSHIP (R448, R449, R451 to R453), and the pool package's side: verification, the packet's context
with its page tables, its launch and its completion (R451, R453, R454).
-/
namespace Sys2Proof.Machine

open Sys2Proof

-- ---------------------------------------------------------------------------------------------
-- Images (R451)

/-- Fields of an image's first 128 bytes. -/
def tMagic (n : Nat) : Nat := bitsN n 0 32
def tLen (n : Nat) : Nat := bitsN n 32 32
def tKoff (n : Nat) : Nat := bitsN n 64 32
def tStack (n : Nat) : Nat := bitsN n 96 32

/-- Where packet contexts find the image and the stacks (R453). -/
def imgBase : Nat := 0xFF00000000000000
def stackBase : Nat := 0xFF40000000000000

/-- The first bytes of an image that BAD_IMAGE refuses without its code: MAGIC, LEN, KOFF, STACKSZ and the OID of XMSS-SHAKE_20_256, 9 in RFC 8391 with its most
significant byte first. -/
def imageHeadBad (n : Nat) : Bool :=
  tMagic n != 0x4B534154 || tLen n % 64 != 0 || decide (tLen n > 2 ^ 24) || decide (tLen n < 2948 + 64) || tStack n % 16 != 0 || tKoff n % 64 != 0
    || decide (tKoff n < 128) || decide (tKoff n + 64 > tLen n - 2820) || bitsN n 128 32 != 0x09000000

/-- The kernel descriptor of an image. -/
def imageDesc (x koff : Nat) : BitVec 512 := BitVec.ofNat 512 (x / 2 ^ (8 * koff))

/-- An image that BAD_IMAGE refuses, from its bytes as a number. -/
def imageBad (x : Nat) : Bool :=
  let d := imageDesc x (tKoff x)
  imageHeadBad x || !kValid d || decide (kEntry d < imgBase + 128) || decide (kEntry d ≥ imgBase + (tLen x - 2820))

/-- The steward registers a handle for the kernel descriptor of an image (R454). -/
def State.noteHandle (s : State) (ctx : Nat) (kdesc : W64) (pkg : Nat) (handle : W64) : State :=
  if !isPrivileged ctx then s
  else match s.partOf ctx with
    | some p => s.inPart p fun x => { x with handles := x.handles.set (kdesc.toNat * 2 ^ 16 + pkg) handle }
    | none => s

/-- The pool package's answer to an image that is well formed: the handle that it gave the same image before, for this function; else a new handle, or NOSPACE, UNTRUSTED, or
NO_MEMBER for an unbound pair. The answer to a new image is the other package's: a free choice. -/
def State.imageReply (s : State) (ctx pkg hash : Nat) (kdesc : W64) : Acc (Option W64) :=
  let func := s.funcOf ctx
  match s.codes.find? fun c => c.pkg == pkg && c.func == func && c.hash == some hash with
  | some c => .ok (s.noteHandle ctx kdesc pkg c.handle) (some c.handle)
  | none =>
    let (k, s) := s.pick 4
    if k = 1 then .ok s (some (statusOf 2 0))
    else if k = 2 then .ok s (some (statusOf 8 0))
    else if k = 3 then .ok s (some (statusOf 9 0))
    else
      let (slot, s) := s.pick 4096
      let (gen, s) := s.pick (2 ^ 32)
      let handle : W64 := BitVec.ofNat 64 (pkg + slot * 2 ^ 16 + gen * 2 ^ 32)
      let s : State := { s with codes := s.codes ++ [⟨pkg, func, some hash, handle⟩] }
      .ok (s.noteHandle ctx kdesc pkg handle) (some handle)

/-- TSREG (R451). -/
def execTsreg (a : Args) (s : State) : Host.Outcome State Fault Refusal :=
  let v := a.view
  s.packInstr v (specTsreg v) fun h g s =>
    let va := s.uniSrc h g v.sa true
    let pkg := (s.uniSrc h g v.sbSrc false).toNat % 2 ^ 16
    let fail (s : State) (code : Nat) : Acc (Option W64) := .ok s (some (statusOf code 0))
    match s.readFar h.f.ctx (s.tableOf h.f.launch) va 128 with
    | (_, .wait n) => .wait n
    | (s, .fault) => fail s 3
    | (s, .poison) => .ok s none
    | (s, .ok hd) =>
      if imageHeadBad hd then fail s 7
      else
        match s.readFar h.f.ctx (s.tableOf h.f.launch) va (tLen hd) with
        | (_, .wait n) => .wait n
        | (s, .fault) => fail s 3
        | (s, .poison) => .ok s none
        | (s, .ok x) =>
          if imageBad x then fail s 7
          else if !s.linked pkg then fail s 9
          else (s.emit (.image (BitVec.ofNat 16 pkg) (bytesN x (tLen x)))).imageReply h.f.ctx pkg (Config.digest ((bytesN x (tLen x)).map BitVec.toNat)).toNat (va + BitVec.ofNat 64 (tKoff x))

-- ---------------------------------------------------------------------------------------------
-- Packets (R452, R453)

def pDone (d : BitVec 512) : W64 := BitVec.ofNat 64 (bitsN d.toNat 0 64)
def pVal (d : BitVec 512) : W64 := BitVec.ofNat 64 (bitsN d.toNat 64 64)
def pCb (d : BitVec 512) : Nat := bitsN d.toNat 128 6
def pCbv (d : BitVec 512) : Bool := d.toNat.testBit 134
def pCcore (d : BitVec 512) : Nat := bitsN d.toNat 135 7
def pAmount (d : BitVec 512) : W32 := BitVec.ofNat 32 (bitsN d.toNat 160 32)
def pArglen (d : BitVec 512) : Nat := bitsN d.toNat 192 9
def pGrid (d : BitVec 512) : Nat := bitsN d.toNat 224 32

/-- A packet descriptor outside R452. -/
def packetBad (d : BitVec 512) : Bool :=
  decide (pArglen d > 256) || pArglen d % 4 != 0 || pGrid d == 0 || (pDone d).toNat % 8 != 0 || bitsN d.toNat 142 18 != 0 || bitsN d.toNat 201 23 != 0
    || bitsN d.toNat 256 256 != 0

/-- The pool package's answer to a packet (R449, R453): it accepts a current code handle of the context's function. Any other is BAD_HANDLE, or NO_MEMBER where the pair is
unbound: which of them is the other package's, a free choice, unless the function has handles there. -/
def State.handleCheck (s : State) (ctx pkg : Nat) (handle : W64) : State × Nat :=
  let mine := s.codes.filter fun c => c.pkg == pkg && c.func == s.funcOf ctx
  if mine.any fun c => c.handle == handle then (s, 0)
  else if !mine.isEmpty then (s, 4)
  else
    let (k, s) := s.pick 2
    (s, if k = 1 then 9 else 4)

/-- TSHIP (R453). -/
def execTship (a : Args) (s : State) : Host.Outcome State Fault Refusal :=
  let v := a.view
  s.packInstr v (specTship v) fun h g s =>
    let handle := s.uniSrc h g v.sa true
    let va := s.uniSrc h g v.sbSrc true
    let pkg := handle.toNat % 2 ^ 16
    let fail (s : State) (code : Nat) : Acc (Option W64) := .ok s (some (statusOf code 0))
    if va.toNat % 64 ≠ 0 then fail s 10
    else
      match s.readFar h.f.ctx (s.tableOf h.f.launch) va 64 with
      | (_, .wait n) => .wait n
      | (s, .fault) => fail s 3
      | (s, .poison) => .ok s none
      | (s, .ok dn) =>
        let d := BitVec.ofNat 512 dn
        if packetBad d then fail s 10
        else
          match s.readFar h.f.ctx (s.tableOf h.f.launch) (va + 64) (pArglen d) with
          | (_, .wait n) => .wait n
          | (s, .fault) => fail s 3
          | (s, .poison) => .ok s none
          | (s, .ok args) =>
            if !s.linked pkg then fail s 9
            else
              let (s, code) := s.handleCheck h.f.ctx pkg handle
              if code ≠ 0 then fail s code
              else
                let words := (List.range (pArglen d / 4)).map fun i => BitVec.ofNat 32 (args / 2 ^ (32 * i))
                .ok (s.sendPacket pkg h.f.ctx handle d words ((s.launch? h.f.launch).map (·.id)) none) (some 0)

-- ---------------------------------------------------------------------------------------------
-- The pool package's side: images

/-- TASK_IMAGE_RECEIVE (R451): an image is verified once for each pool-side function and hash; a handle or a failure goes back. -/
def execTaskImageReceive (link : Nat) (pkg : BitVec 16) (func : Nat) (image : List (BitVec 8)) (s : State) : Host.Outcome State Fault Refusal :=
  let answer (s : State) (y : W64) : Host.Outcome State Fault Refusal := .next (s.emit (.imageAnswer pkg y))
  let handle (k gen : Nat) : W64 := BitVec.ofNat 64 (s.ident.toNat + k * 2 ^ 16 + gen % 2 ^ 32 * 2 ^ 32)
  if s.build = .gzC ∨ s.recovery ∨ link ≥ 32 then .next s
  else
    match s.bound pkg func with
    | none => answer s (statusOf 9 0)
    | some pf =>
      let nats := image.map BitVec.toNat
      let hash := (Config.digest nats).toNat
      match s.code.entries.find? fun c => c.2.func == pf && c.2.hash == hash with
      | some c => answer s (handle c.1 c.2.gen)
      | none =>
        let x := numOfBytes image
        let pk := (nats.drop 16).take 68
        if image.length ≠ tLen x ∨ imageBad x then answer s (statusOf 7 0)
        else if !s.trusted.contains (pf, (Config.digest pk).toNat) ∨ !Config.xmssOk pk (nats.take (tLen x - 2820)) (nats.drop (tLen x - 2820)) then
          answer s (statusOf 8 0)
        else
          match (List.range 4096).find? fun k => !s.code.has k with
          | none => answer s (statusOf 2 0)
          | some k =>
            let gen := s.nextKeyGen
            answer { s with code := s.code.set k { gen := gen % 2 ^ 32, func := pf, hash := hash, image := image }, nextKeyGen := gen + 1 } (handle k gen)

-- ---------------------------------------------------------------------------------------------
-- The pool package's side: the packet's context

/-- The memory allotted to a packet context: its guest-physical base, above every heap window, and its device base, behind the channels (assumption 64, DESIGN CHOICE). -/
def allotGpa (ctx : Nat) : Nat := 2 ^ 56 + ctx * 2 ^ 44
def allotDev (ctx : Nat) : Nat := 2 ^ 44 + ctx * 2 ^ 44

/-- Tables and pages of a region of n pages of 4 KiB whose virtual base is a multiple of 2^48: its level 3 table, then the tables of levels 2, 1 and 0. -/
def regionTables (n : Nat) : Nat × Nat × Nat :=
  let n0 := (n + 511) / 512
  let n1 := (n0 + 511) / 512
  (n0, n1, (n1 + 511) / 512)

def regionSize (n : Nat) : Nat :=
  let (n0, n1, n2) := regionTables n
  4096 * (1 + n2 + n1 + n0)

/-- The entries of a region's tables placed at an offset of the allotment, mapping pages from another offset with the leaf bits given: address in the allotment and value. -/
def regionEntries (ctx t page n leaf : Nat) : List (Nat × Nat) :=
  let (n0, n1, n2) := regionTables n
  let g := allotGpa ctx
  let t2 := t + 4096
  let t1 := t2 + 4096 * n2
  let t0 := t1 + 4096 * n1
  (List.range n2).map (fun k => (t + 8 * k, g + t2 + 4096 * k + 3))
    ++ (List.range n1).map (fun k => (t2 + 8 * k, g + t1 + 4096 * k + 3))
    ++ (List.range n0).map (fun k => (t1 + 8 * k, g + t0 + 4096 * k + 3))
    ++ (List.range n).map fun k => (t0 + 8 * k, g + page + 4096 * k + leaf)

/-- What a packet context's memory holds: page tables that map the image readable and executable and the stacks readable and writable, both bulk (R453). -/
structure PacketMap where
  root   : Nat
  bytes  : Nat
  cells  : List (Nat × List Byte)
deriving DecidableEq, Repr

def packetMap (ctx : Nat) (image : List Byte) (stackBytes : Nat) : PacketMap :=
  let ni := (image.length + 4095) / 4096
  let ns := (stackBytes + 4095) / 4096
  let ti := 4096
  let ts := ti + regionSize ni
  let pi := ts + regionSize ns
  let ps := pi + 4096 * ni
  let g := allotGpa ctx
  -- V, R and X for the image; V, R and W for the stacks
  let entries := [(8 * 0x100, g + ti + 3), (8 * 0x140, g + ts + 3)] ++ regionEntries ctx ti pi ni 0x15 ++ regionEntries ctx ts ps ns 0xD
  { root := g, bytes := ps + 4096 * ns, cells := (pi, image) :: entries.map fun e => (e.1, bytesN e.2 8) }

/-- The context that a pool package keeps for a sending context (R453): the one it has, or a new one, within its partition's quota. -/
def State.keptCtx (s : State) (pkg : BitVec 16) (sctx pf : Nat) : Option (State × Nat) :=
  match s.pctxs.find? fun p => p.1 == (pkg, sctx, pf) with
  | some p => some (s, p.2)
  | none =>
    match if s.mayOpen pf then ((List.range 4075).map (· + 21)).find? fun c => (s.ctx c).st == .free else none with
    | none => none
    | some c =>
      let s := ((s.setCtx c { Ctx.reset c with st := .idle, func := pf, hlimit := 2 ^ 56 }).newKey c).dropTlb c fun _ => true
      some ({ s with pctxs := s.pctxs ++ [((pkg, sctx, pf), c)] }, c)

/-- Map an image and stacks for a packet context: its memory is fresh, then holds the tables and the image. -/
def State.mapPacket (s : State) (ctx pf : Nat) (image : List Byte) (stackBytes : Nat) : Acc Unit :=
  let m := packetMap ctx image stackBytes
  let len := (m.bytes + 65535) / 65536
  let e : Extent := { rd := true, wr := true, coh := false, tgt := 0, gbase := allotGpa ctx, len := len, pbase := allotDev ctx, keyId := 0, key := s.nextKeyGen, pkg := 0 }
  let old := ((s.allots.get? ctx).map (·.2.len)).getD 0
  (s.flushRange pf (allotGpa ctx) (allotGpa ctx + max len old * 65536)).bind fun s _ =>
    let s := s.makeFresh (allotDev ctx) (max len old * 65536)
    let s := { s with
      allots := s.allots.set ctx (pf, e)
      nextKeyGen := s.nextKeyGen + 1
      mem := m.cells.foldl (fun (cs : List Host.Cell) (x : Nat × List Byte) => setCells (allotDev ctx + x.1) x.2 cs) s.mem
      written := (m.cells.flatMap fun (x : Nat × List Byte) => sectorsOf (allotDev ctx + x.1) x.2.length).foldl (fun (w : KMap Nat) k => w.set k e.key) s.written }
    .ok ((s.setCtx ctx { s.ctx ctx with ptroot := BitVec.ofNat 64 m.root, hbase := 0, hlimit := 2 ^ 56, hoffset := 0 }).dropTlb ctx fun _ => true) ()

/-- A completion goes to the sender (R453). -/
def State.packetAnswer (s : State) (pkg : BitVec 16) (sctx : Nat) (d : BitVec 512) (val : W64) : State :=
  s.emit (.packetDone pkg sctx (pDone d) val (pCbv d) (pCb d) (pCcore d) (pAmount d))

/-- The launch of a packet's kernel (R453). -/
def packetLaunch (key ctx id : Nat) (desc d : BitVec 512) (stackSz : Nat) (args : List W32) : Launch :=
  { ctx := ctx, id := id, node := none, desc := desc, grid := (pGrid d, 1, 1), stackSz := stackSz, stackBase := BitVec.ofNat 64 stackBase
    cbank := .ofList (args.zipIdx.map fun x => (x.2, x.1)), bankBad := false, pgt := 0, spread := 1, group := 1, solo := false, pair := false, spkReq := 0, next := 0, stop := pGrid d
    live := 0, cores := [], prio := 0, homeDie := 0, packet := some key }

/-- TASK_PACKET_RECEIVE (R453): a packet whose tag fails, whose sequence number is not above the last accepted on its link, or whose handle is stale is refused with a completion.
A packet waits while its context still runs another. -/
def execTaskPacketReceive (link : Nat) (pkg : BitVec 16) (ctx : Nat) (func : Nat) (handle : BitVec 64) (desc : BitVec 512) (args : List (BitVec 32)) (seq : Nat)
    (tag : BitVec 256) (s : State) : Host.Outcome State Fault Refusal :=
  let refuse (s : State) : Host.Outcome State Fault Refusal := .next (s.packetAnswer pkg ctx desc (statusOf 1 0))
  if s.build = .gzC ∨ s.recovery ∨ link ≥ 32 then .next s
  else
    match s.bound pkg func, s.code.get? (bitsN handle.toNat 16 12) with
    | some pf, some slot =>
      let x := numOfBytes slot.image
      let kd := imageDesc x (tKoff x)
      let stack := pGrid desc * kFlights kd * 32 * tStack x
      if handle.toNat % 2 ^ 16 ≠ s.ident.toNat ∨ bitsN handle.toNat 28 4 ≠ 0 ∨ handle.toNat / 2 ^ 32 ≠ slot.gen ∨ slot.func ≠ pf
          ∨ seq ≤ s.lastSeq.getD link 0 ∨ tag ≠ Config.kmac link (handle.toNat :: desc.toNat :: seq :: args.map BitVec.toNat)
          ∨ packetBad desc ∨ stack > 2 ^ 43 then refuse s
      else
        match s.keptCtx pkg ctx pf with
        | none => refuse s
        | some (t, c) =>
          if (t.ctx c).st ≠ .idle then .next s
          else
            s.finish (t.mapPacket c pf slot.image stack) fun s _ =>
              let key := s.packets.keys.foldl max 0 + 1
              let la := packetLaunch key c (s.ctx c).launches kd desc (tStack x) args
              let s := { s with
                lastSeq := s.lastSeq.set link seq
                packets := s.packets.set key { pkg := pkg, sctx := ctx, func := pf, link := link, desc := desc, launch := some s.nextLaunch, ctx := c, node := none
                                               sent := false, lost := false } }
              s.enterLaunch la
    | _, _ => refuse s

-- ---------------------------------------------------------------------------------------------
-- Completions (R453, R454)

/-- A packet that runs here ends: with success once its launch is over, with FAULT where its context was halted or dropped. -/
def State.packetEnd (s : State) (i : Nat) (p : Packet) : Host.Outcome State Fault Refusal :=
  let gone (s : State) : State := { s with packets := s.packets.erase i }
  let fault (s : State) : State := gone (s.packetAnswer p.pkg p.sctx p.desc (statusOf 2 0))
  match p.launch.bind s.launch? with
  | none => .next (fault s)
  | some la =>
    if (s.ctx p.ctx).st = .halted then s.finish (s.dropCtx p.ctx) fun s _ => fault s
    else if la.isOver && (s.ctx p.ctx).st == .resident && !s.transferring p.ctx then
      s.finish (s.releaseCtx p.ctx) fun s _ => (gone (s.packetAnswer p.pkg p.sctx p.desc (pVal p.desc))).endLaunch (p.launch.getD 0) la
    else .next s

/-- A packet that was sent from here completes: DONEVAL or the failure code is written and its barrier is decremented (a refused decrement faults into the context: assumption
86, DEDUCED). A shipped node completes or raises MEMBER_LOST; while its context is HALTED the node stays RUNNING (R397). For a saved-out context the completion is retried. -/
def State.packetBack (s : State) (i : Nat) (p : Packet) (code : Nat) : Host.Outcome State Fault Refusal :=
  let gone (s : State) : State := { s with packets := s.packets.erase i }
  let st := (s.ctx p.sctx).st
  if st = .saved then .next s
  else if st = .free then .next (gone s)
  else
    match p.node with
    | some (part, id) =>
      if st = .halted then .next s
      else if code = 0 then s.finish (s.nodeComplete part id) fun s _ => gone s else .next (gone (s.trapContext p.sctx causeMemberLost 0))
    | none =>
      let val := if code = 0 then (pVal p.desc).toNat else (statusOf code 0).toNat
      s.finish (if pDone p.desc = 0 then .ok s () else s.doneStore p.sctx (pDone p.desc) val) fun s _ =>
        if pCbv p.desc then
          (match s.arriveAt (pCcore p.desc) (pCb p.desc) p.sctx (p.launch.getD 0) (pAmount p.desc).toInt with
          | (s, refused) => gone (if refused then s.arrivalRefused p.sctx (pCcore p.desc) else s))
        else gone s

/-- TASK_PACKET_COMPLETE (R453, R454): `code` is that of the completion: 0 for success, 1 REFUSED, 2 FAULT, or 3 LOST, which the sending port writes where the pool package
was lost first. -/
def execTaskPacketComplete (i : Nat) (code : Nat) (s : State) : Host.Outcome State Fault Refusal :=
  match s.packets.get? i with
  | none => .next s
  | some p => if p.sent then (if if p.lost then code = 3 else code < 3 then s.packetBack i p code else .next s) else s.packetEnd i p

end Sys2Proof.Machine
end

