-- ==== Sys2Proof/Machine/Bringup.lean ====
section
/-!
DEFINITION. Sys2Proof/Machine/Bringup.lean: unallocated opcodes, errors of the hardware, field repair, the power governor, boot and recovery (R49, R225, R307, R332, R348,
R458 to R464).
-/
namespace Sys2Proof.Machine

open Sys2Proof

/-- UNALLOCATED_OPCODE (R49): ILLEGAL in every thread of exec, or the terminal trap of an engine thread. -/
def execUnallocatedOpcode (_word : BitVec 96) (s : State) : Host.Outcome State Fault Refusal :=
  if s.cur.engine then
    if (s.core s.cur.core).engs.has s.cur.fid then .next s.illegalEngine else .fault .noAgent
  else
    match s.here? with
    | none => .fault .noAgent
    | some _ => .next s.illegalMember

-- ---------------------------------------------------------------------------------------------
-- A lost core (R307)

/-- Whether a cluster group of a context was admitted to a core. -/
def State.groupOn (s : State) (core ctx : Nat) : Bool :=
  s.groups.entries.any fun g => g.2.cores.contains core && ((s.launch? g.2.launch).elim false fun la => la.ctx == ctx)

/-- The contexts that lose something with a core (R307): flights, engine threads, a press grant or a grant on it; a spread block or a cluster group that includes it. -/
def State.losers (s : State) (core : Nat) : List Nat :=
  s.ctxs.keys.filter fun x => (s.ctx x).st == .resident && (s.coreHolds core x || s.pressHeld core x || s.groupOn core x)

/-- CORE_LOST (R307): a machine check, and each of those contexts halts. The Trellis places nothing on the core from now on. -/
def execCoreLost (core : Nat) (s : State) : Host.Outcome State Fault Refusal :=
  .next (if !s.corePresent core then s
    else
      let xs := s.losers core
      let s := (s.setCore core { s.core core with lost := true }).emit (.machineCheck 3)
      xs.foldl (fun (s : State) x => s.trapContext x causeCoreLost 0) s)

-- ---------------------------------------------------------------------------------------------
-- Errors that check bits find (R225, R234, R255, R332, R348, R394)

def State.bumpCore (s : State) (c lo : Nat) : State := s.setCore c { s.core c with errc := bumpField (s.core c).errc lo }
def State.bumpDie (s : State) (d lo : Nat) : State := s.setDie d { s.die d with errc := bumpField (s.die d).errc lo }

/-- The four bytes of word i of a sector. -/
def oneWord (i : Nat) : BitVec 64 := maskOf (4 * (i % 16)) 4

/-- An error in a scratchpad word sets its poison bit (R225). -/
def State.spadError (s : State) (c key w : Nat) : State :=
  match s.block? c key with
  | some b =>
    if b.holds (4 * w) 4 then (s.setBlock c key { b with spad := b.spad.set w { b.word w with psn := true } }).bumpCore c 16 else s
  | none => s

/-- An error in a bank cell poisons it; its bits are free (R255). -/
def State.cellError (s : State) (c bank i j : Nat) : State :=
  let p := (s.core c).press
  let z := if bank = 0 then p.z0 else p.z1
  if bank > 1 ∨ i ≥ 192 ∨ j ≥ 384 then s
  else
    let z := { z with cells := z.cells.set (384 * i + j) ⟨Config.freeCell s.free (384 * i + j), true⟩ }
    { s with free := s.free + 1 }.setPress c (if bank = 0 then { p with z0 := z } else { p with z1 := z })

/-- An error in an L1 word (R332): a clean word is dropped; a dirty one goes back poisoned and its registration is released. -/
def State.l1Error (s : State) (c k w : Nat) : State :=
  match s.l1? c k with
  | none => s
  | some x =>
    let m := oneWord w
    if x.valid &&& m = 0 then s
    else
      let s :=
        if x.dirty &&& m = 0 then s
        else
          let s := s.roomL2 k
          let h := s.home k
          let cp := (h.copy.getD (Sector.none x.coh)).merge x.data (x.dirty &&& m) (1#16 <<< (w % 16)) true
          s.setHome k { h with copy := some cp, reg := h.reg.filter fun i o => i != w % 16 || o != c }
      (s.setL1 c k { x with valid := x.valid &&& ~~~m, dirty := x.dirty &&& ~~~m, psn := x.psn &&& ~~~(1#16 <<< (w % 16)) }).bumpCore c 48

/-- An error in an L2 word (R332): a clean word is dropped and fetched again; in a dirty word, the only copy, it leaves poison. -/
def State.l2Error (s : State) (k w : Nat) : State :=
  let h := s.home k
  match h.copy with
  | none => s
  | some x =>
    let m := oneWord w
    if x.valid &&& m = 0 then s
    else
      let y := if x.dirty &&& m = 0 then { x with valid := x.valid &&& ~~~m, psn := x.psn &&& ~~~(1#16 <<< (w % 16)) }
        else { x with psn := x.psn ||| (1#16 <<< (w % 16)) }
      (s.setHome k { h with copy := some y }).bumpDie (lineDie (k % 2 ^ 51 * 64)) 16

/-- The directory state of a sector is lost (R332): every word is poisoned, no L1 holds the sector any more. -/
def State.dirPoison (s : State) (k : Nat) : State :=
  let s := match s.second (k / 2 ^ 51) (k % 2 ^ 51 * 64) false false with
    | .ok (.host a, _) => { s with lines := s.lines.erase (a / 64) }
    | .ok (t, coh) => s.fillHome k t coh
    | .error _ => s
  let s := s.dropOthers k none
  let h := s.home k
  let x := h.copy.getD (Sector.none true)
  let s := s.setHome k { h with reg := .empty, sharers := []
                                copy := some { x with valid := BitVec.allOnes 64, dirty := BitVec.allOnes 64, psn := BitVec.allOnes 16 } }
  (List.range 16).foldl (fun (s : State) _ => s.bumpDie (lineDie (k % 2 ^ 51 * 64)) 16) s

/-- The contexts of a function. -/
def State.ctxsOf (s : State) (func : Nat) : List Nat :=
  (uniqN (List.range 21 ++ s.ctxs.keys)).filter fun x => s.funcOf x == func && (s.ctx x).st != .free

/-- An error in the held copy of a constant bank (R394): the die reads the bank again; until it has, no word of the lost copy is delivered. -/
def State.bankError (s : State) (l : Nat) : State :=
  match s.launch? l with
  | none => s
  | some la =>
    let s := { s with launches := s.launches.set l { la with bankBad := true } }
    match s.refillBank l with
    | .ok s _ => s
    | .bad _ _ => s
    | .wait n => s.request n

/-- UNCORRECTABLE_ERROR: an error that the check bits find in one of the arrays, with the corrected ones that are counted alone (R359). -/
def execUncorrectableError (site : ErrSite) (s : State) : Host.Outcome State Fault Refusal :=
  .next (match site with
    | .scratchpad core block word => s.spadError core block word
    | .barrier core cb =>
      match s.coreCtx core with
      | some x => if cb < 64 then s.trapContext x causeBarrierFault 0 else s
      | none => s
    | .pressCell core bank row col => s.cellError core bank row col
    | .l1Word core func gpa => s.l1Error core (secKey func (gpa.toNat / 64)) (gpa.toNat % 64 / 4)
    | .l2Word func gpa => s.l2Error (secKey func (gpa.toNat / 64)) (gpa.toNat % 64 / 4)
    | .directory func gpa =>
      let xs := s.ctxsOf func
      xs.foldl (fun (s : State) x => s.trapContext x causeCacheLost gpa) (s.dirPoison (secKey func (gpa.toNat / 64)))
    -- a fresh sector is never poisoned (R347)
    | .memory addr => if s.written.has (addr.toNat / 64) then { s with memPsn := insertN (addr.toNat / 64) s.memPsn } else s
    | .constBank launch _ => s.bankError launch
    | .correctedScratchpad core => if core < 128 then s.bumpCore core 0 else s
    | .correctedL1 core => if core < 128 then s.bumpCore core 32 else s
    | .correctedL2 die => if die < 4 then s.bumpDie die 0 else s
    | .correctedMem die => if die < 4 then s.bumpDie die 32 else s)

-- ---------------------------------------------------------------------------------------------
-- Field repair and the governor

/-- ROW_REMAP (R462): an entry of the channel's table, or a machine check where it is full. The row's contents and its poison travel with it, so no address reads differently. -/
def execRowRemap (chan row : Nat) (s : State) : Host.Outcome State Fault Refusal :=
  let k := chan * 2 ^ 32 + row % 2 ^ 32
  .next (if s.remap.contains k then s
    else if (s.remap.filter fun x => x / 2 ^ 32 == chan).length ≥ 256 then s.emit (.machineCheck 4)
    else { s with remap := insertN k s.remap })

/-- GOVERNOR_STEP (R460, R461): the power as measured; one step of 100 MHz down while it exceeds PLIM, up to 36 otherwise. -/
def execGovernorStep (die : Nat) (power : BitVec 16) (s : State) : Host.Outcome State Fault Refusal :=
  let g := s.gov
  let freq := if power.toNat > g.plim then (if g.freq > g.fmin then g.freq - 1 else g.freq) else min 36 (g.freq + 1)
  .next (if die < 4 then { s with gov := { g with pwr := power.toNat, freq := freq, throt := decide (freq < 36) } } else s)

-- ---------------------------------------------------------------------------------------------
-- Boot (R458, R459)

/-- The limits of the configuration record (R459, R460, R461): HDMSIZE of R410, PLIM of the build, FMIN, one retire mask for each die. -/
def recordWithin (build : Build) (r : CfgRecord) : Bool :=
  r.hdmSize % 2 ^ 28 == 0 && decide (r.hdmSize ≤ 1020 * 2 ^ 30) && decide (r.plim ≤ plimOf build)
    && decide (12 ≤ r.fmin ∧ r.fmin ≤ 36) && r.retire.length == 4

/-- The machine as power-on leaves it: what outlives a reset is flash, the rows already repaired, and the bookkeeping that is the model's own. PLIM is capped at the build's
maximum (R460, R461). -/
def State.powerOn (s : State) (build : Build) (flash : List (BitVec 8)) : State :=
  { State.reset with
    build := build, flash := flash, gov := { Gov.reset with plim := min Gov.reset.plim (plimOf build) }, remap := s.remap, ident := s.ident, turns := s.turns, free := s.free
    nextKeyGen := s.nextKeyGen, out := s.out }

/-- RESET (R458): the steps of boot, from the image that flash holds or from one that its module brings. A step that fails leaves the package in recovery, and no later step
runs. -/
def execReset (build : Build) (image : Option (List (BitVec 8))) (cfg : CfgRecord) (s : State) : Host.Outcome State Fault Refusal :=
  let s := s.powerOn build (image.getD s.flash)
  -- step 1
  .next (if !Config.imageOk (s.flash.map BitVec.toNat) then { s with recovery := true }
    else
      -- step 2
      let s := { s with idKey := some Config.pufKey }
      -- step 3
      if !Config.recordOk (cfg.bytes.map BitVec.toNat) || !recordWithin build cfg then { s with recovery := true }
      else
        -- steps 4 and 5: pages and partitions are as power-on leaves them
        let s := { s with booted := true, cfg := cfg.bytes, hdmSize := cfg.hdmSize, gov := { s.gov with fmin := cfg.fmin, plim := cfg.plim } }
        (List.range 4).foldl (fun (s : State) d => s.writeRetire d (cfg.retire.getD d 0)) s)

/-- RECOVERY_IMAGE_PUSH (R458): in recovery a host pushes an image through DOE, where CXL.io answers; it is verified, written to flash, and boots at the next reset. -/
def execRecoveryImagePush (push : ImagePush) (s : State) : Host.Outcome State Fault Refusal :=
  .next (if s.recovery && s.doeUp push.port && Config.imageOk (push.image.map BitVec.toNat) then { s with flash := push.image } else s)

end Sys2Proof.Machine
end

