-- ==== Sys2Proof/Machine/Dispatch.lean ====
section
/-!
DEFINITION. Sys2Proof/Machine/Dispatch.lean: one arm for each instruction and event, one call of its meaning.
-/
namespace Sys2Proof.Machine

open Sys2Proof

def exec (i : Instr) (s : State) : Host.Outcome State Fault Refusal :=
  match i with
  | .add a => Sys2Proof.Machine.execAdd a s
  | .addI a => Sys2Proof.Machine.execAddI a s
  | .sub a => Sys2Proof.Machine.execSub a s
  | .subI a => Sys2Proof.Machine.execSubI a s
  | .mul a => Sys2Proof.Machine.execMul a s
  | .mulI a => Sys2Proof.Machine.execMulI a s
  | .mulhi a => Sys2Proof.Machine.execMulhi a s
  | .mad a => Sys2Proof.Machine.execMad a s
  | .neg a => Sys2Proof.Machine.execNeg a s
  | .abs a => Sys2Proof.Machine.execAbs a s
  | .min a => Sys2Proof.Machine.execMin a s
  | .minI a => Sys2Proof.Machine.execMinI a s
  | .max a => Sys2Proof.Machine.execMax a s
  | .maxI a => Sys2Proof.Machine.execMaxI a s
  | .div a => Sys2Proof.Machine.execDiv a s
  | .rem a => Sys2Proof.Machine.execRem a s
  | .and a => Sys2Proof.Machine.execAnd a s
  | .andI a => Sys2Proof.Machine.execAndI a s
  | .or a => Sys2Proof.Machine.execOr a s
  | .orI a => Sys2Proof.Machine.execOrI a s
  | .xor a => Sys2Proof.Machine.execXor a s
  | .xorI a => Sys2Proof.Machine.execXorI a s
  | .not a => Sys2Proof.Machine.execNot a s
  | .andn a => Sys2Proof.Machine.execAndn a s
  | .andnI a => Sys2Proof.Machine.execAndnI a s
  | .shl a => Sys2Proof.Machine.execShl a s
  | .shlI a => Sys2Proof.Machine.execShlI a s
  | .shr a => Sys2Proof.Machine.execShr a s
  | .shrI a => Sys2Proof.Machine.execShrI a s
  | .sar a => Sys2Proof.Machine.execSar a s
  | .sarI a => Sys2Proof.Machine.execSarI a s
  | .rol a => Sys2Proof.Machine.execRol a s
  | .rolI a => Sys2Proof.Machine.execRolI a s
  | .bfx a => Sys2Proof.Machine.execBfx a s
  | .bfi a => Sys2Proof.Machine.execBfi a s
  | .popc a => Sys2Proof.Machine.execPopc a s
  | .clz a => Sys2Proof.Machine.execClz a s
  | .brev a => Sys2Proof.Machine.execBrev a s
  | .sel a => Sys2Proof.Machine.execSel a s
  | .cmp a => Sys2Proof.Machine.execCmp a s
  | .cmpI a => Sys2Proof.Machine.execCmpI a s
  | .plop a => Sys2Proof.Machine.execPlop a s
  | .mov a => Sys2Proof.Machine.execMov a s
  | .movi a => Sys2Proof.Machine.execMovi a s
  | .lea a => Sys2Proof.Machine.execLea a s
  | .leaI a => Sys2Proof.Machine.execLeaI a s
  | .icvt a => Sys2Proof.Machine.execIcvt a s
  | .fadd a => Sys2Proof.Machine.execFadd a s
  | .faddI a => Sys2Proof.Machine.execFaddI a s
  | .fsub a => Sys2Proof.Machine.execFsub a s
  | .fsubI a => Sys2Proof.Machine.execFsubI a s
  | .fmul a => Sys2Proof.Machine.execFmul a s
  | .fmulI a => Sys2Proof.Machine.execFmulI a s
  | .ffma a => Sys2Proof.Machine.execFfma a s
  | .fmin a => Sys2Proof.Machine.execFmin a s
  | .fminI a => Sys2Proof.Machine.execFminI a s
  | .fmax a => Sys2Proof.Machine.execFmax a s
  | .fmaxI a => Sys2Proof.Machine.execFmaxI a s
  | .fcmp a => Sys2Proof.Machine.execFcmp a s
  | .fcmpI a => Sys2Proof.Machine.execFcmpI a s
  | .fclass a => Sys2Proof.Machine.execFclass a s
  | .frcp a => Sys2Proof.Machine.execFrcp a s
  | .frsq a => Sys2Proof.Machine.execFrsq a s
  | .fsqrt a => Sys2Proof.Machine.execFsqrt a s
  | .fex2 a => Sys2Proof.Machine.execFex2 a s
  | .flg2 a => Sys2Proof.Machine.execFlg2 a s
  | .fsin a => Sys2Proof.Machine.execFsin a s
  | .fcos a => Sys2Proof.Machine.execFcos a s
  | .fcvt a => Sys2Proof.Machine.execFcvt a s
  | .f2i a => Sys2Proof.Machine.execF2i a s
  | .i2f a => Sys2Proof.Machine.execI2f a s
  | .frnd a => Sys2Proof.Machine.execFrnd a s
  | .fscl a => Sys2Proof.Machine.execFscl a s
  | .hvadd a => Sys2Proof.Machine.execHvadd a s
  | .hvmul a => Sys2Proof.Machine.execHvmul a s
  | .hvfma a => Sys2Proof.Machine.execHvfma a s
  | .hvmin a => Sys2Proof.Machine.execHvmin a s
  | .hvmax a => Sys2Proof.Machine.execHvmax a s
  | .dp8 a => Sys2Proof.Machine.execDp8 a s
  | .dp4 a => Sys2Proof.Machine.execDp4 a s
  | .fdp8 a => Sys2Proof.Machine.execFdp8 a s
  | .fdp4 a => Sys2Proof.Machine.execFdp4 a s
  | .pack a => Sys2Proof.Machine.execPack a s
  | .unpk a => Sys2Proof.Machine.execUnpk a s
  | .xscl a => Sys2Proof.Machine.execXscl a s
  | .xacc a => Sys2Proof.Machine.execXacc a s
  | .xadd a => Sys2Proof.Machine.execXadd a s
  | .xrnd a => Sys2Proof.Machine.execXrnd a s
  | .xclr a => Sys2Proof.Machine.execXclr a s
  | .bra a => Sys2Proof.Machine.execBra a s
  | .brx a => Sys2Proof.Machine.execBrx a s
  | .call a => Sys2Proof.Machine.execCall a s
  | .callx a => Sys2Proof.Machine.execCallx a s
  | .ret a => Sys2Proof.Machine.execRet a s
  | .exit a => Sys2Proof.Machine.execExit a s
  | .trap a => Sys2Proof.Machine.execTrap a s
  | .rtt a => Sys2Proof.Machine.execRtt a s
  | .yield a => Sys2Proof.Machine.execYield a s
  | .sleep a => Sys2Proof.Machine.execSleep a s
  | .bkpt a => Sys2Proof.Machine.execBkpt a s
  | .nop a => Sys2Proof.Machine.execNop a s
  | .eadd a => Sys2Proof.Machine.execEadd a s
  | .eaddI a => Sys2Proof.Machine.execEaddI a s
  | .esub a => Sys2Proof.Machine.execEsub a s
  | .esubI a => Sys2Proof.Machine.execEsubI a s
  | .emul a => Sys2Proof.Machine.execEmul a s
  | .eand a => Sys2Proof.Machine.execEand a s
  | .eandI a => Sys2Proof.Machine.execEandI a s
  | .eor a => Sys2Proof.Machine.execEor a s
  | .eorI a => Sys2Proof.Machine.execEorI a s
  | .exor a => Sys2Proof.Machine.execExor a s
  | .exorI a => Sys2Proof.Machine.execExorI a s
  | .eshl a => Sys2Proof.Machine.execEshl a s
  | .eshlI a => Sys2Proof.Machine.execEshlI a s
  | .eshr a => Sys2Proof.Machine.execEshr a s
  | .eshrI a => Sys2Proof.Machine.execEshrI a s
  | .ecmp a => Sys2Proof.Machine.execEcmp a s
  | .ecmpI a => Sys2Proof.Machine.execEcmpI a s
  | .emov a => Sys2Proof.Machine.execEmov a s
  | .emovi a => Sys2Proof.Machine.execEmovi a s
  | .ebr a => Sys2Proof.Machine.execEbr a s
  | .ebrI a => Sys2Proof.Machine.execEbrI a s
  | .ejmp a => Sys2Proof.Machine.execEjmp a s
  | .ejmpI a => Sys2Proof.Machine.execEjmpI a s
  | .eloop a => Sys2Proof.Machine.execEloop a s
  | .eloopI a => Sys2Proof.Machine.execEloopI a s
  | .eld a => Sys2Proof.Machine.execEld a s
  | .eldI a => Sys2Proof.Machine.execEldI a s
  | .est a => Sys2Proof.Machine.execEst a s
  | .wsetLd a => Sys2Proof.Machine.execWsetLd a s
  | .wset a => Sys2Proof.Machine.execWset a s
  | .wstep a => Sys2Proof.Machine.execWstep a s
  | .tcopy a => Sys2Proof.Machine.execTcopy a s
  | .texp a => Sys2Proof.Machine.execTexp a s
  | .tpack a => Sys2Proof.Machine.execTpack a s
  | .tgath a => Sys2Proof.Machine.execTgath a s
  | .tscat a => Sys2Proof.Machine.execTscat a s
  | .treg a => Sys2Proof.Machine.execTreg a s
  | .ecbadd a => Sys2Proof.Machine.execEcbadd a s
  | .ecbwait a => Sys2Proof.Machine.execEcbwait a s
  | .efence a => Sys2Proof.Machine.execEfence a s
  | .eend a => Sys2Proof.Machine.execEend a s
  | .ld a => Sys2Proof.Machine.execLd a s
  | .ldI a => Sys2Proof.Machine.execLdI a s
  | .st a => Sys2Proof.Machine.execSt a s
  | .lds a => Sys2Proof.Machine.execLds a s
  | .ldsI a => Sys2Proof.Machine.execLdsI a s
  | .sts a => Sys2Proof.Machine.execSts a s
  | .ldc a => Sys2Proof.Machine.execLdc a s
  | .ldcI a => Sys2Proof.Machine.execLdcI a s
  | .ldt a => Sys2Proof.Machine.execLdt a s
  | .atom a => Sys2Proof.Machine.execAtom a s
  | .atoms a => Sys2Proof.Machine.execAtoms a s
  | .red a => Sys2Proof.Machine.execRed a s
  | .fence a => Sys2Proof.Machine.execFence a s
  | .cwb a => Sys2Proof.Machine.execCwb a s
  | .cinv a => Sys2Proof.Machine.execCinv a s
  | .cdisc a => Sys2Proof.Machine.execCdisc a s
  | .pref a => Sys2Proof.Machine.execPref a s
  | .prefI a => Sys2Proof.Machine.execPrefI a s
  | .monw a => Sys2Proof.Machine.execMonw a s
  | .rst a => Sys2Proof.Machine.execRst a s
  | .wcfl a => Sys2Proof.Machine.execWcfl a s
  | .ptst a => Sys2Proof.Machine.execPtst a s
  | .replay a => Sys2Proof.Machine.execReplay a s
  | .vote a => Sys2Proof.Machine.execVote a s
  | .shfl a => Sys2Proof.Machine.execShfl a s
  | .matchV a => Sys2Proof.Machine.execMatchV a s
  | .fredux a => Sys2Proof.Machine.execFredux a s
  | .kmov a => Sys2Proof.Machine.execKmov a s
  | .kmovI a => Sys2Proof.Machine.execKmovI a s
  | .klop a => Sys2Proof.Machine.execKlop a s
  | .kpopc a => Sys2Proof.Machine.execKpopc a s
  | .kfind a => Sys2Proof.Machine.execKfind a s
  | .rcv a => Sys2Proof.Machine.execRcv a s
  | .alloc a => Sys2Proof.Machine.execAlloc a s
  | .free a => Sys2Proof.Machine.execFree a s
  | .bar a => Sys2Proof.Machine.execBar a s
  | .cbarm a => Sys2Proof.Machine.execCbarm a s
  | .cbarmI a => Sys2Proof.Machine.execCbarmI a s
  | .cbadd a => Sys2Proof.Machine.execCbadd a s
  | .cbaddI a => Sys2Proof.Machine.execCbaddI a s
  | .cbwait a => Sys2Proof.Machine.execCbwait a s
  | .cbacq a => Sys2Proof.Machine.execCbacq a s
  | .cbread a => Sys2Proof.Machine.execCbread a s
  | .cbar a => Sys2Proof.Machine.execCbar a s
  | .mxacq a => Sys2Proof.Machine.execMxacq a s
  | .mxrel a => Sys2Proof.Machine.execMxrel a s
  | .mma a => Sys2Proof.Machine.execMma a s
  | .mmas a => Sys2Proof.Machine.execMmas a s
  | .mxzero a => Sys2Proof.Machine.execMxzero a s
  | .mxldz a => Sys2Proof.Machine.execMxldz a s
  | .mxstz a => Sys2Proof.Machine.execMxstz a s
  | .mxstzReg a => Sys2Proof.Machine.execMxstzReg a s
  | .mxwait a => Sys2Proof.Machine.execMxwait a s
  | .rfork a => Sys2Proof.Machine.execRfork a s
  | .rjoin a => Sys2Proof.Machine.execRjoin a s
  | .rstat a => Sys2Proof.Machine.execRstat a s
  | .pmflipH a => Sys2Proof.Machine.execPmflipH a s
  | .pmflipD a => Sys2Proof.Machine.execPmflipD a s
  | .cgload a => Sys2Proof.Machine.execCgload a s
  | .cgloadFree a => Sys2Proof.Machine.execCgloadFree a s
  | .cgrun a => Sys2Proof.Machine.execCgrun a s
  | .tship a => Sys2Proof.Machine.execTship a s
  | .tsreg a => Sys2Proof.Machine.execTsreg a s
  | .csrr a => Sys2Proof.Machine.execCsrr a s
  | .csrw a => Sys2Proof.Machine.execCsrw a s
  | .tlbinv a => Sys2Proof.Machine.execTlbinv a s
  | .lqpop a => Sys2Proof.Machine.execLqpop a s
  | .lqdone a => Sys2Proof.Machine.execLqdone a s
  | .ctxsave a => Sys2Proof.Machine.execCtxsave a s
  | .ctxsaveDrop a => Sys2Proof.Machine.execCtxsaveDrop a s
  | .ctxload a => Sys2Proof.Machine.execCtxload a s
  | .ctxloadRes a => Sys2Proof.Machine.execCtxloadRes a s
  | .tgpost a => Sys2Proof.Machine.execTgpost a s
  | .tgdone a => Sys2Proof.Machine.execTgdone a s
  | .unallocatedOpcode word => Sys2Proof.Machine.execUnallocatedOpcode word s
  | .loadLanding core fid id => Sys2Proof.Machine.execLoadLanding core fid id s
  | .longOpComplete core fid id => Sys2Proof.Machine.execLongOpComplete core fid id s
  | .storeFailure index => Sys2Proof.Machine.execStoreFailure index s
  | .sleepExpiry core fid lane => Sys2Proof.Machine.execSleepExpiry core fid lane s
  | .monwWake core fid lane => Sys2Proof.Machine.execMonwWake core fid lane s
  | .monwTimeout core fid lane => Sys2Proof.Machine.execMonwTimeout core fid lane s
  | .flightOverdue core fid => Sys2Proof.Machine.execFlightOverdue core fid s
  | .threadAged core fid lane => Sys2Proof.Machine.execThreadAged core fid lane s
  | .blockAdmit launch => Sys2Proof.Machine.execBlockAdmit launch s
  | .allocGrant core => Sys2Proof.Machine.execAllocGrant core s
  | .scratchpadRelease core block => Sys2Proof.Machine.execScratchpadRelease core block s
  | .remoteArrival core cb ctx launch amount => Sys2Proof.Machine.execRemoteArrival core cb ctx launch amount s
  | .arrivalRetry index => Sys2Proof.Machine.execArrivalRetry index s
  | .pressGrant core => Sys2Proof.Machine.execPressGrant core s
  | .pairClaimGrant core => Sys2Proof.Machine.execPairClaimGrant core s
  | .pressInstrPerform core => Sys2Proof.Machine.execPressInstrPerform core s
  | .pressRegLanding core => Sys2Proof.Machine.execPressRegLanding core s
  | .pieceLand core eng slot k => Sys2Proof.Machine.execPieceLand core eng slot k s
  | .wcbDrainTimeout core index => Sys2Proof.Machine.execWcbDrainTimeout core index s
  | .launchComplete launch => Sys2Proof.Machine.execLaunchComplete launch s
  | .nodeDispatch part => Sys2Proof.Machine.execNodeDispatch part s
  | .rootProgramStart part => Sys2Proof.Machine.execRootProgramStart part s
  | .sliceExpiry part => Sys2Proof.Machine.execSliceExpiry part s
  | .eventSlotFreed ring => Sys2Proof.Machine.execEventSlotFreed ring s
  | .eventRingRetry ring => Sys2Proof.Machine.execEventRingRetry ring s
  | .partSet index arg => Sys2Proof.Machine.execPartSet index arg s
  | .vfSet index arg => Sys2Proof.Machine.execVfSet index arg s
  | .extAdd index arg => Sys2Proof.Machine.execExtAdd index arg s
  | .extDel index arg => Sys2Proof.Machine.execExtDel index arg s
  | .pfEvtSet arg => Sys2Proof.Machine.execPfEvtSet arg s
  | .ctxKill index => Sys2Proof.Machine.execCtxKill index s
  | .mailboxUnknownCode func code index => Sys2Proof.Machine.execMailboxUnknownCode func code index s
  | .ctxOpen vf => Sys2Proof.Machine.execCtxOpen vf s
  | .ctxClose vf index => Sys2Proof.Machine.execCtxClose vf index s
  | .vfEvtSet vf arg => Sys2Proof.Machine.execVfEvtSet vf arg s
  | .wayMaskWrite vf mask => Sys2Proof.Machine.execWayMaskWrite vf mask s
  | .vfLqpop vf => Sys2Proof.Machine.execVfLqpop vf s
  | .vfLqdone vf handle => Sys2Proof.Machine.execVfLqdone vf handle s
  | .vfLqrfs vf handle => Sys2Proof.Machine.execVfLqrfs vf handle s
  | .coreSramWrite core value => Sys2Proof.Machine.execCoreSramWrite core value s
  | .ctxTranslationWrite ctx reg value => Sys2Proof.Machine.execCtxTranslationWrite ctx reg value s
  | .dieRetireWrite die value => Sys2Proof.Machine.execDieRetireWrite die value s
  | .dieGovWrite die value => Sys2Proof.Machine.execDieGovWrite die value s
  | .registerWrite reg value => Sys2Proof.Machine.execRegisterWrite reg value s
  | .hostMemrd port addr mv => Sys2Proof.Machine.execHostMemrd port addr mv s
  | .hostMemwr port addr data mask mv poison => Sys2Proof.Machine.execHostMemwr port addr data mask mv poison s
  | .hostMeminv port addr mv => Sys2Proof.Machine.execHostMeminv port addr mv s
  | .bisnpResponse index data mask => Sys2Proof.Machine.execBisnpResponse index data mask s
  | .bisnpTimeout index => Sys2Proof.Machine.execBisnpTimeout index s
  | .snpinv req => Sys2Proof.Machine.execSnpinv req s
  | .snpdata req => Sys2Proof.Machine.execSnpdata req s
  | .snpcur req => Sys2Proof.Machine.execSnpcur req s
  | .cxlCacheResponse index port data poison => Sys2Proof.Machine.execCxlCacheResponse index port data poison s
  | .viralReceived port => Sys2Proof.Machine.execViralReceived port s
  | .linkDown port => Sys2Proof.Machine.execLinkDown port s
  | .linkTrain port peer lanes slow ide => Sys2Proof.Machine.execLinkTrain port peer lanes slow ide s
  | .laneFail port => Sys2Proof.Machine.execLaneFail port s
  | .laneRetrainDone port => Sys2Proof.Machine.execLaneRetrainDone port s
  | .peerRequestTimeout index => Sys2Proof.Machine.execPeerRequestTimeout index s
  | .holdNoticeTimer index => Sys2Proof.Machine.execHoldNoticeTimer index s
  | .holdNotice index => Sys2Proof.Machine.execHoldNotice index s
  | .poolMemRequest req => Sys2Proof.Machine.execPoolMemRequest req s
  | .addDynamicCapacity func index arg tag => Sys2Proof.Machine.execAddDynamicCapacity func index arg tag s
  | .releaseDynamicCapacity func index => Sys2Proof.Machine.execReleaseDynamicCapacity func index s
  | .vatContribution port pkg func key fmt ncon nfet count vals => Sys2Proof.Machine.execVatContribution port pkg func key fmt ncon nfet count vals s
  | .vatFetch pkg func key fmt => Sys2Proof.Machine.execVatFetch pkg func key fmt s
  | .vatAbort pkg func key => Sys2Proof.Machine.execVatAbort pkg func key s
  | .vatAbortExpiry index => Sys2Proof.Machine.execVatAbortExpiry index s
  | .contribRetry die slot op res => Sys2Proof.Machine.execContribRetry die slot op res s
  | .cgOpComplete die slot op res => Sys2Proof.Machine.execCgOpComplete die slot op res s
  | .cgTimeout die slot op => Sys2Proof.Machine.execCgTimeout die slot op s
  | .sendpSector ends addr data poison cbv cb core ctx launch => Sys2Proof.Machine.execSendpSector ends addr data poison cbv cb core ctx launch s
  | .taskPacketReceive link pkg ctx func handle desc args seq tag => Sys2Proof.Machine.execTaskPacketReceive link pkg ctx func handle desc args seq tag s
  | .taskPacketComplete index code => Sys2Proof.Machine.execTaskPacketComplete index code s
  | .coreLost core => Sys2Proof.Machine.execCoreLost core s
  | .uncorrectableError site => Sys2Proof.Machine.execUncorrectableError site s
  | .rowRemap chan row => Sys2Proof.Machine.execRowRemap chan row s
  | .governorStep die power => Sys2Proof.Machine.execGovernorStep die power s
  | .reset build image cfg => Sys2Proof.Machine.execReset build image cfg s
  | .recoveryImagePush push => Sys2Proof.Machine.execRecoveryImagePush push s
  | .engineLoadLanding core eng => Sys2Proof.Machine.execEngineLoadLanding core eng s
  | .hdmDecoderCommit hb => Sys2Proof.Machine.execHdmDecoderCommit hb s
  | .peerMemRequest req => Sys2Proof.Machine.execPeerMemRequest req s
  | .taskImageReceive link pkg func image => Sys2Proof.Machine.execTaskImageReceive link pkg func image s
  | .doeRequest req => Sys2Proof.Machine.execDoeRequest req s
  | .biconflict index => Sys2Proof.Machine.execBiconflict index s

end Sys2Proof.Machine
end

