-- ==== Sys2Proof/Machine/Turns.lean ====
section
/-!
DEFINITION. Sys2Proof/Machine/Turns.lean: the turns that execute no instruction: the passing of time, evictions from the caches (R315, R332), stores of other agents into
other packages' memory; and where a placed instruction is fetched.
-/
namespace Sys2Proof.Machine

open Sys2Proof

/-- n cycles pass (R34, sys.clock). A flight that has a ready thread and does not issue waits through them (R190); a change of split that was in progress is over (R220). -/
def State.tick (s : State) (n : Nat) : State :=
  { s with
    clock := s.clock + n
    cores := s.cores.mapV fun c k =>
      { k with
        busy := k.busy && n == 0
        flights := k.flights.mapV fun _ f =>
          if f.run.isNone && s.mayRun f.ctx && !(s.readyRuns c f).isEmpty then { f with waited := f.waited + n } else f } }

/-- The answer to an outstanding write arrives (R322). -/
def State.ackWrite (s : State) (i : Nat) : State :=
  match s.reqs[i]? with
  | some q => if q.what.isWrite then { s with reqs := s.reqs.eraseIdx i } else s
  | none => s

/-- A filter needs the entry of a sector (R414, R433): the host's copy of it is back-invalidated, or that of a package which a pool package's snoop filter knows. The sector of a
host that cannot answer is poisoned. -/
def State.evictFilter (s : State) (k : Nat) : State :=
  match s.second (k / 2 ^ 51) (k % 2 ^ 51 * 64) false false with
  | .ok (.dev a key, _) =>
    if (s.home k).host != .i then
      if s.hostUp then s.request (.snoop true (k / 2 ^ 51) (k % 2 ^ 51) a) else s.unanswered k (.dev a key)
    else match s.holder a true none with
      | some q => s.request (.peer true (k / 2 ^ 51) (k % 2 ^ 51) a q)
      | none => s
  | _ => s

/-- A store by another agent into another package's memory. Coherent copies here, in the L2 or an L1, are given up first (R309, R317, R433); bulk copies stay as they are. -/
def State.fabricStore (s : State) (pkg addr : Nat) (bytes : List Byte) : State :=
  let keys := s.cachedOf fun q a => q == pkg && decide (addr / 64 ≤ a / 64 ∧ a / 64 ≤ (addr + bytes.length - 1) / 64)
  let s := keys.foldl (fun (s : State) k => if s.cohHere k then (s.dropOthers k none).evictL2 k else s) s
  let b := pkg * 2 ^ 64 + addr
  { s with
    fab := setCells b bytes s.fab
    fabPsn := if addr % 64 = 0 ∧ bytes.length % 64 = 0 then s.fabPsn.filter fun k => !(b / 64 ≤ k && k < (b + bytes.length) / 64)
              else s.fabPsn }

/-- The pool hypervisor's bindings and trusted keys (R427, R451): how it sets them is not given. -/
def State.bindPair (s : State) (pkg : BitVec 16) (func poolFunc : Nat) : State :=
  { s with binds := (s.binds.filter fun x => x.1 != (pkg, func)) ++ [((pkg, func), poolFunc)] }
def State.trustKey (s : State) (poolFunc hash : Nat) : State := { s with trusted := s.trusted ++ [(poolFunc, hash)] }

/-- Another package releases a range of its memory, or grants it again (R432). -/
def State.fabricRange (s : State) (pkg addr len : Nat) (granted : Bool) : State :=
  let rest := s.gone.filter fun r => r != (pkg, addr, len)
  { s with gone := if granted then rest else rest ++ [(pkg, addr, len)] }

/-- A pool package's code slots that this package did not fill (R451). -/
def State.codeSlot (s : State) (pkg func : Nat) (handle : W64) (on : Bool) : State :=
  let rest := s.codes.filter fun c => !(c.pkg == pkg && c.func == func && c.handle == handle)
  { s with codes := if on then rest ++ [⟨pkg, func, none, handle⟩] else rest }

/-- The bounds of a dynamic capacity region (R431): how they are set is not given (assumption 90, DESIGN CHOICE). -/
def State.dcRegion (s : State) (func n base len : Nat) : State := if n < 8 then { s with regions := s.regions.set (func * 8 + n) (base, len) } else s

/-- Whether an instruction is an event of the hardware or its host interface, which a turn may bring. -/
def isEvent (i : Instr) : Bool :=
  match i with
  | .unallocatedOpcode _ => false
  | i => match i.form with
    | .event => true
    | _ => false

-- ---------------------------------------------------------------------------------------------
-- Where a placed instruction is fetched (assumption 40, DESIGN CHOICE)

/-- The code address of a placed instruction, its context and the page table that maps it: one leaf of 1 GiB, every access allowed. -/
def placedPc : Nat := 0x1000
def placedCtx : Nat := 21
def placedTables : List (Nat × Nat) := [(0x10000, 0x11003), (0x11000, 0x12003), (0x12000, 0x1D)]

/-- Whether an opcode is racking-only (R50). -/
def rackingOpc (opc : Nat) : Bool := (0x1A0 ≤ opc && opc ≤ 0x1BF) || (0x1E0 ≤ opc && opc ≤ 0x1FF)

/-- A resident flight of 32 threads at the placed code, with its full allotment. -/
def placedFlight : Flight :=
  { Flight.fresh with
    ctx := placedCtx, launch := 0, block := 0, allot := 64
    threads := .ofList ((List.range 32).map fun l =>
      (l, { Thread.fresh with pc := BitVec.ofNat 57 placedPc, sp := BitVec.ofNat 64 (0x80000 + 0x1000 * l) })) }

/-- Its block, which holds its scratchpad grant. -/
def placedBlock : Block :=
  { ctx := placedCtx, launch := 0, sysBlock := 0, cores := [0], flights := [(0, 0)], granted := true, seed := 0, zeroed := false, spad := .empty, spadOpen := true
    spadHeld := 0x10000, reserve := .empty, bars := .empty, group := 0, member := 0, ended := false }

/-- Its launch: one block of one flight. -/
def placedLaunch : Launch :=
  { ctx := placedCtx, id := 0, node := none, desc := simpleDesc 64 1 0x10000, grid := (1, 1, 1), stackSz := 0x1000, stackBase := 0x80000, cbank := .empty, bankBad := false, pgt := 0
    spread := 1, group := 1, solo := false, pair := false, spkReq := 1, next := 1, stop := 1, live := 1, cores := [0], prio := 0, homeDie := 0
    packet := none }

/-- The package as software finds it with a launch loaded: function 0 enabled with one extent, context 21 resident on core 0 with a flight, or an
engine thread of it, at the instruction. -/
def State.placeWord (s : State) (w : W96) : State :=
  let rack := rackingOpc (opcField w)
  let mem := placedTables.foldl (fun m e => setCells e.1 (bytesN e.2 8) m) (setCells placedPc (bytesOfWord w) s.mem)
  let eng : Eng := { Eng.reset with run := .running, pc := BitVec.ofNat 57 placedPc, ctx := placedCtx }
  { s with
    recovery := false, booted := true, mem := mem
    written := [placedPc / 64, 0x10000 / 64, 0x11000 / 64, 0x12000 / 64].foldl (fun w k => w.set k 0) s.written
    exts := s.exts.set 0 ⟨true, true, false, 0, 0, 0x4000, 0, 0, 0, 0⟩
    vfs := s.vfs.set 0 ⟨some 0, true, 0, 0, false⟩
    ctxs := s.ctxs.set placedCtx { Ctx.reset placedCtx with st := .resident, func := 0, ptroot := 0x10000, tvec := 0x2000, lbase := 0x20000 }
    groups := s.groups.set 0 ⟨0, 0, [(0, 0)], [0], .empty⟩
    launches := s.launches.set 0 placedLaunch
    cores := s.cores.set 0 { Core.reset with
      spk := 1, launch := some 0, lastCtx := some placedCtx, flights := .single 0 placedFlight, blocks := .single 0 placedBlock, nextKey := 1
      engs := if rack then .single 0 eng else .empty }
    nextGroup := 1, nextLaunch := 1, nextOrder := 1
    turns := [if rack then .engine 0 0 else .issue 0 0] }

end Sys2Proof.Machine
end

