-- ==== Sys2Proof/Machine/Step.lean ====
section
/-!
DEFINITION. Sys2Proof/Machine/Step.lean: one step of the package: the next turn, and the instruction that it executes (assumption 2, DESIGN CHOICE).
-/
namespace Sys2Proof.Machine

open Sys2Proof

/-- Execute a fetched word: the instruction that it decodes to, or the trap of an illegal encoding. -/
def runWord (s : State) (w : W96) : Host.Outcome State Fault Refusal :=
  match decodeWord w with
  | .ok i => exec i s
  | .illegal _ => .next (if s.cur.engine then s.illegalEngine else s.illegalMember)

/-- What a turn does. -/
def takeTurn (t : Turn) (s : State) : Host.Outcome State Fault Refusal :=
  match t with
  | .issue c slot =>
    match s.prepareSlot c slot with
    | .done s => .next s
    | .word s w => runWord s w
  | .engine c e =>
    match s.prepareEngine c e with
    | .done s => .next s
    | .word s w => runWord s w
  | .event i => if isEvent i then exec i { s with cur := ⟨128, 0, false⟩ } else .next s
  | .tick n => .next (if n = 0 then s else s.serveVats.tick n)
  | .evictL1 c k => .next (s.evictL1 c k)
  | .evictL2 k => .next (s.evictL2 k)
  | .evictFilter k => .next (s.evictFilter k)
  | .ack i => .next (s.ackWrite i)
  | .fabricStore pkg a bs => .next (s.fabricStore pkg a bs)
  | .bind pkg func p => .next (s.bindPair pkg func p)
  | .trust p hash => .next (s.trustKey p hash)
  | .fabricRange pkg a len on => .next (s.fabricRange pkg a len on)
  | .codeSlot pkg func handle on => .next (s.codeSlot pkg func handle on)
  | .dcRegion func n base len => .next (s.dcRegion func n base len)

/-- One step: the first turn of the list, or a free one where the list is empty. Routes are read afresh in each turn (R401). -/
def step (s : State) : Host.Outcome State Fault Refusal :=
  match s.turns with
  | [] => takeTurn (Config.freeTurn s.free) { s with free := s.free + 1, via := .empty }
  | t :: rest => takeTurn t { s with turns := rest, via := .empty }

/-- The state with an instruction placed where the next step fetches and executes it (assumption 40, DESIGN CHOICE). -/
def State.withFetchWord (s : State) (_nbits w : Nat) : State := s.placeWord (BitVec.ofNat 96 w)

end Sys2Proof.Machine
end

