-- ==== Sys2Proof/Safety.lean ====
section
/-!
DEFINITION. Sys2Proof/Safety.lean: what counts as a safe step and a safe state, and the terms in which statements speak of registers, of members that complete, and of
what an instruction leaves as it was.
-/
namespace Sys2Proof.Machine

open Sys2Proof

/-- A step is safe when it ends in a next state: no fault and no refusal. -/
def Safe (s : State) : Prop := ∃ t, step s = .next t

/-- The canonical form of the memories of the package and of the other packages. -/
def State.MemOk (s : State) : Prop := Memory.wf s.mem = true ∧ Memory.wf s.fab = true

-- ---------------------------------------------------------------------------------------------
-- Registers

/-- A register of a flight: a v register, a predicate or the stack pointer of a lane; an s register or a k mask of the flight (R30, R95, R187). -/
inductive Loc where
  | v (l i : Nat)
  | p (l i : Nat)
  | sp (l : Nat)
  | s (i : Nat)
  | k (i : Nat)
deriving DecidableEq, Repr

/-- What a register holds: its bits and whether they are poisoned. -/
def Flight.holds (f : Flight) : Loc → W64 × Bool
  | .v l i => (((f.thread l).vreg i).val.setWidth 64, ((f.thread l).vreg i).psn)
  | .p l i => (if (f.thread l).preds.getLsbD i then 1 else 0, false)
  | .sp l => ((f.thread l).sp, false)
  | .s i => (f.s.getD i 0, false)
  | .k i => ((f.k.getD i 0).setWidth 64, false)

/-- The register that a write of a lane names; p7 is not a register that can be written (R30). -/
def SWrite.loc (l : Nat) : SWrite → Option Loc
  | .v i _ _ => some (.v l i)
  | .s i _ => some (.s i)
  | .p i _ => if i < 7 then some (.p l i) else none
  | .k i _ => some (.k i)
  | .sp _ => some (.sp l)

/-- The value of a write. -/
def SWrite.value : SWrite → W64 × Bool
  | .v _ x psn => (x.setWidth 64, psn)
  | .s _ x => (x, false)
  | .p _ b => (if b then 1 else 0, false)
  | .k _ m => (m.setWidth 64, false)
  | .sp x => (x, false)

/-- What a register holds after writes of lanes, in their order: the last one that names it, or what it held. -/
def afterWrites (ws : List (Nat × SWrite)) (x : Loc) (old : W64 × Bool) : W64 × Bool :=
  ws.foldl (fun acc w => if w.2.loc w.1 = some x then w.2.value else acc) old

-- ---------------------------------------------------------------------------------------------
-- Members

/-- The member at the cursor passes the checks of R47 and some lane's guard is true: what an instruction needs of its place to have its own effect. -/
structure Ready (s : State) (h : Here) (i : Instr) (v : View) (o : OpSpec) : Prop where
  /-- The cursor names a flight with a run in progress. -/
  place : s.here? = some h
  /-- The instruction has these fields, and they are legal (R47 item 1). -/
  form : i.view? = some (v, o)
  legal : o.legal v = true
  flight : o.engine = false
  /-- It reads no latch that the run has not filled (R41), and only the first member of a run has a RUN hint (R38, R40). -/
  latches : latchOk v o h.r.pos = true
  alone : h.r.pos = 0 ∨ v.hnt.run = 0
  /-- Some lane's guard is true (R97), and every lane's where the spec asks for uniform guards (R36, R198). -/
  enabled : guardMask v.grd h.r ≠ 0
  uniform : (o.wide || o.isScalar v) = true → guardMask v.grd h.r = h.r.exec
  /-- Every register it names lies in the flight's allotment (R98). -/
  allotted : overAllot o v h.f.allot = none

/-- What a member does in the lanes whose guard is true: its latch and its writes, the writes that it makes once for the flight, and how the lanes go on. -/
structure Effect where
  lat  : Nat → Val
  ws   : Nat → List SWrite
  once : List SWrite
  fin  : Nat → LaneEnd := fun _ => .next

/-- Where a thread goes on behind its run, and what holds it there: in sequence, at a target, or held behind a run that has committed. -/
def LaneEnd.stands (r : Run) : LaneEnd → W57 × Hold
  | .go pc => (pc, .none)
  | .held h => (r.after, h)
  | _ => (r.after, .none)

/-- The ways to go on of which `Completed` speaks. -/
def LaneEnd.goesOn : LaneEnd → Bool
  | .next => true
  | .go _ => true
  | .held _ => true
  | _ => false

/-- The lanes of exec in the order in which a member completes them. -/
def laneOrder (g exec : W32) : List Nat := lanesOf g ++ (lanesOf exec).filter fun l => !g.getLsbD l

/-- The writes of a lane of exec when its run commits: those staged by the members before, then those of a last member whose guard is true there. -/
def laneWrites (r : Run) (g : W32) (e : Effect) (l : Nat) : List SWrite := r.staged.getD l [] ++ (if g.getLsbD l then e.ws l else [])

/-- The writes that a run makes in the registers when it commits at a last member with an effect (R42): those of the flight, then those of its lanes. -/
def commitWrites (r : Run) (g : W32) (e : Effect) : List (Nat × SWrite) :=
  (r.fstaged ++ e.once).map (fun w => (0, w)) ++ (laneOrder g r.exec).flatMap fun l => (laneWrites r g e l).map fun w => (l, w)

/-- Whether a run that has something to write waits for LONG_OP_COMPLETE behind a last member of pending latency (R42, R115, R116). -/
def commitsLate (r : Run) (g : W32) (long : Bool) (e : Effect) : Bool := r.isLast && long && commitWrites r g e != []

/-- What a flight is after a member with an effect has completed: `f` is the flight before, `g` the lanes whose guard is true. A last member commits the run and every thread of exec
goes on behind it, or where its effect sends it; with pending latency the whole commit waits for LONG_OP_COMPLETE. An earlier member fills the latches and stages its writes. Nothing
else of the flight changes, but pending bits, and tokens whose last reference goes (R41, R42, R45, R97, R102, R115, R116). -/
structure Completed (r : Run) (g : W32) (long : Bool) (e : Effect) (f f' : Flight) : Prop where
  /-- Registers. -/
  holds : ∀ x, f'.holds x = if r.isLast && !commitsLate r g long e then afterWrites (commitWrites r g e) x (f.holds x) else f.holds x
  /-- A last member ends its run; the threads of exec go on as the effect says, those whose guard is false in sequence. -/
  ended : r.isLast = true → f'.run = none ∧ (commitsLate r g long e = false → ∀ l, r.exec.getLsbD l = true → l < 32 →
    ((f'.thread l).pc, (f'.thread l).hold) = (if g.getLsbD l then e.fin l else .next).stands r)
  /-- A commit that waits is kept whole; a thread of a run of one member goes on, one of a longer run is held until the commit. -/
  late : commitsLate r g long e = true → ∃ key p, f'.longs.get? key = some ⟨(laneOrder g r.exec).map fun l => (l, laneWrites r g e l), r.fstaged ++ e.once, p⟩ ∧
    ∀ l, r.exec.getLsbD l = true → l < 32 → (f'.thread l).pc = r.after ∧ (f'.thread l).hold = if r.pos = 0 then .none else .commit key
  /-- An earlier one goes on with the next member, with its latches and staged writes. -/
  goesOn : r.isLast = false → ∃ r', f'.run = some r' ∧ r'.pos = r.pos + 1 ∧ r'.exec = r.exec ∧ r'.fstaged = r.fstaged ++ e.once ∧
    ∀ l, r.exec.getLsbD l = true → l < 32 →
      r'.latch l 0 = (if g.getLsbD l then e.lat l else Val.zero) ∧ r'.latch l 1 = r.latch l 0 ∧ r'.staged.getD l [] = laneWrites r g e l
  /-- The frame. -/
  thread : ∀ l, (f'.thread l).live = (f.thread l).live ∧ (f'.thread l).trapcause = (f.thread l).trapcause ∧
    (f'.thread l).trapaddr = (f.thread l).trapaddr ∧ (f'.thread l).poisontok = (f.thread l).poisontok ∧ (f'.thread l).depth = (f.thread l).depth
  others : ∀ l, r.exec.getLsbD l = false ∨ r.isLast = false → (f'.thread l).pc = (f.thread l).pc ∧ (f'.thread l).hold = (f.thread l).hold
  same : f'.ctx = f.ctx ∧ f'.launch = f.launch ∧ f'.block = f.block ∧ f'.idx = f.idx ∧ f'.allot = f.allot ∧ f'.freed = f.freed ∧
    f'.arrive = f.arrive ∧ f'.loads = f.loads ∧ f'.heldRuns = f.heldRuns ∧ f'.slot = f.slot

/-- A flight instruction completes in its own effect, which changes registers of its flight alone: the next state is `s` with one flight exchanged (and with the
failed host requests of the agent forgotten). -/
def Completes (i : Instr) (s : State) (h : Here) (v : View) (long : Bool) (e : Effect) : Prop :=
  ∃ f', exec i s = .next (s.setFlight h.c h.fid f').clearFailed ∧ Completed h.r (guardMask v.grd h.r) long e h.f f'

/-- A flight instruction completes in an effect that goes beyond the registers of its flight: `s'` is the state that the effect leaves before the member ends, with
`f` the flight in it; the next state is `s'` with that flight exchanged. -/
def CompletesIn (i : Instr) (s : State) (h : Here) (v : View) (s' : State) (f : Flight) (e : Effect) : Prop :=
  ∃ f', exec i s = .next (s'.setFlight h.c h.fid f').clearFailed ∧ Completed h.r (guardMask v.grd h.r) false e f f'

/-- What a flight is when its last member waits in every thread of exec: the run has ended, nothing of it has committed, each thread stands at the run's start, held, with the writes to commit and
the address behind the run kept for when it passes; writes that the flight shares are kept under the same key (R36, R42, R189, R239). -/
structure Waiting (r : Run) (w : Nat → Wait) (f f' : Flight) : Prop where
  ended : f'.run = none
  holds : ∀ x, f'.holds x = f.holds x
  lanes : ∃ key, (r.fstaged ≠ [] → f'.heldRuns.get? key = some r.fstaged) ∧ ∀ l, l < 32 → r.exec.getLsbD l = true →
    (f'.thread l).pc = r.start ∧ (f'.thread l).hold = (w l).hold ⟨key, r.staged.getD l [], r.pendKept (· == l) true, r.after⟩
  thread : ∀ l, (f'.thread l).live = (f.thread l).live ∧ (f'.thread l).trapcause = (f.thread l).trapcause ∧
    (f'.thread l).trapaddr = (f.thread l).trapaddr ∧ (f'.thread l).poisontok = (f.thread l).poisontok ∧ (f'.thread l).depth = (f.thread l).depth
  others : ∀ l, r.exec.getLsbD l = false → (f'.thread l).pc = (f.thread l).pc ∧ (f'.thread l).hold = (f.thread l).hold
  same : f'.ctx = f.ctx ∧ f'.launch = f.launch ∧ f'.block = f.block ∧ f'.idx = f.idx ∧ f'.allot = f.allot ∧ f'.freed = f.freed ∧
    f'.arrive = f.arrive ∧ f'.loads = f.loads ∧ f'.longs = f.longs ∧ f'.slot = f.slot

/-- A last member waits in every thread of exec; `s'` is the state that its effect leaves before, with `f` the flight in it. -/
def WaitsIn (i : Instr) (s : State) (h : Here) (s' : State) (f : Flight) (w : Nat → Wait) : Prop :=
  ∃ f', exec i s = .next (s'.setFlight h.c h.fid f').clearFailed ∧ Waiting h.r w f f'

/-- The effect of a member that writes nothing and whose lanes go on as given. -/
def Effect.only (fin : Nat → LaneEnd) : Effect := { lat := fun _ => Val.zero, ws := fun _ => [], once := [], fin := fin }

/-- Some things happen one after another, each taking the state on by `R`: the accesses of the lanes of a bundle, the pages of a range, the sectors of a page. -/
def InOrder {α : Type} (R : State → α → State → Prop) : List α → State → State → Prop
  | [], s, t => t = s
  | x :: xs, s, t => ∃ m, R s x m ∧ InOrder R xs m t

/-- The writes of one result of a width, without poison, to a destination (R32, R53). -/
def resultWrites (d : Dst) (wide : Bool) (y : W64) : List SWrite :=
  if d.n then []
  else match d.cls with
    | .v => if wide then [.v d.idx.toNat (y.setWidth 32) false, .v (d.idx.toNat + 1) (y.extractLsb' 32 32) false] else [.v d.idx.toNat (y.setWidth 32) false]
    | .s => [.s d.idx.toNat (if wide then y else (y.setWidth 32).setWidth 64)]
    | .pred => [.p d.idx.toNat (if wide then y != 0 else y.setWidth 32 != 0#32)]
    | .k => [.k d.idx.toNat (y.setWidth 32)]
    | .sys => [.sp (if wide then y else (y.setWidth 32).setWidth 64)]
    | _ => []

/-- The latch of such a result: a predicate destination leaves 1 or 0 (R41, R114). -/
def resultLatch (d : Dst) (wide : Bool) (y : W64) : Val := latchOf d wide y

/-- The effect of a result for each lane, or of one result for the flight where the form is scalar (R36). -/
def resultEffect (scalar : Bool) (g : W32) (d : Dst) (wide : Bool) (y : Nat → W64) : Effect :=
  if scalar then
    { lat := fun _ => resultLatch d wide (y ((lanesOf g).headD 0)), ws := fun _ => [], once := resultWrites d wide (y ((lanesOf g).headD 0)) }
  else { lat := fun l => resultLatch d wide (y l), ws := fun l => resultWrites d wide (y l), once := [] }

-- ---------------------------------------------------------------------------------------------
-- Operands

/-- The value that a lane reads through the source fields SA, SB (or the immediate in its place) and SC, at the width of its encoding (R33, R35, R53). -/
def operandA (s : State) (h : Here) (v : View) (o : OpSpec) (l : Nat) : Val := s.readSrc h.c h.f h.r l v.sa (o.sa.width == .w64)
def operandB (s : State) (h : Here) (v : View) (o : OpSpec) (flt : Option Rnd) (l : Nat) : Val := s.readB h.c h.f h.r l v (o.sb.width == .w64) flt
def operandC (s : State) (h : Here) (v : View) (o : OpSpec) (l : Nat) : Val := s.readSrc h.c h.f h.r l v.sc (o.sc.width == .w64)

/-- No operand that the instruction uses is poisoned in a lane whose guard is true. -/
def Clean (s : State) (h : Here) (v : View) (o : OpSpec) : Prop :=
  ∀ l, l < 32 → (guardMask v.grd h.r).getLsbD l = true →
    (o.sa.classes ≠ [] → (operandA s h v o l).psn = false) ∧ (o.sb.classes ≠ [] → v.isI = false → (operandB s h v o none l).psn = false) ∧
    (o.sc.classes ≠ [] → (operandC s h v o l).psn = false)

/-- The effect of an instruction whose result in lane l is `y l`, at the width of its destination. -/
def resultOf (h : Here) (v : View) (o : OpSpec) (y : Nat → W64) : Effect :=
  resultEffect (o.isScalar v) (guardMask v.grd h.r) v.dst (o.dst.width == .w64) y

end Sys2Proof.Machine
end

