-- ==== Sys2Proof/Certificates/Slice0/Obligations.lean ====
section
/-!
DEFINITION. Sys2Proof/Certificates/Slice0/Obligations.lean: the statements for the provers, and the functions of the spec that they speak of, written from its rules.
-/

open Sys2Proof Sys2Proof.Machine

-- ---------------------------------------------------------------------------------------------
-- Encodings

/-- An instruction word from its three words [31:0], [63:32] and [95:64]. -/
def Sys2Proof.Spec.word (a b c : BitVec 32) : W96 := c ++ b ++ a

/-- A source field in a class of R32. -/
def Sys2Proof.Spec.v (n : Nat) : Src := ⟨.v, BitVec.ofNat 9 n⟩
def Sys2Proof.Spec.s (n : Nat) : Src := ⟨.s, BitVec.ofNat 9 n⟩
def Sys2Proof.Spec.c (n : Nat) : Src := ⟨.cbank, BitVec.ofNat 9 n⟩
def Sys2Proof.Spec.imm (n : Nat) : Src := ⟨.imm, BitVec.ofNat 9 n⟩

/-- A register form whose unnamed fields are zero and whose guard is p7. -/
def Sys2Proof.Spec.args (dst : Dst) (sa sb sc : Src) (ty : Ty) (z opt : Nat) : Args :=
  { grd := 7, dst := dst, sa := sa, sb := sb, sc := sc, ty := ty, z := BitVec.ofNat 3 z, opt := BitVec.ofNat 8 opt, hnt := ⟨0, 0, false, false⟩ }

/-- An I-form with a guard. -/
def Sys2Proof.Spec.argsI (grd : BitVec 4) (dst : Dst) (sa : Src) (imm : BitVec 32) (ty : Ty) (z : Nat) : ArgsI :=
  { grd := grd, dst := dst, sa := sa, imm := imm, ty := ty, z := BitVec.ofNat 3 z, hnt := ⟨0, 0, false, false⟩ }

/-- The encodings that the spec writes out, word by word, with the instructions they stand for: the worked cases of R38, R130, R305, R398 and of the chapters on the instruction word, on assembly, on
memory, on flights, on scratchpad barriers, on the press, on the racking processor, on faults, on isolation, on host and on pool memory. -/
def Sys2Proof.Spec.worked : List (W96 × Instr) :=
  let no := Dst.zero
  let z := Src.zero
  [(Spec.word 0x0A025C02 0x000000C0 0x00004600, .mul { Spec.args ⟨true, .v, 9⟩ (Spec.v 2) (Spec.v 3) z .i32 0 0 with hnt := ⟨1, 0, false, false⟩ }),
   (Spec.word 0x00015C00 0x00008110 0x00000600, .add (Spec.args ⟨false, .v, 5⟩ ⟨.latch, 0⟩ (Spec.s 4) z .i32 0 0)),
   (Spec.word 0x0401AC40 0x8D159E00 0x00000E04, .addI (Spec.argsI 11 ⟨false, .v, 6⟩ (Spec.v 1) 0x12345678 .n32 0)),
   (Spec.word 0x20020401 0x0003FF40 0x00220600, .sub { Spec.args ⟨false, .v, 8⟩ (Spec.v 8) (Spec.imm 0x1FD) z .i32 0 0 with grd := 1, hnt := ⟨0, 2, false, true⟩ }),
   (Spec.word 0x10028883 0x002B01C0 0x00001880, .ffma { Spec.args ⟨false, .v, 10⟩ (Spec.v 4) (Spec.c 7) (Spec.v 10) .f32 2 0 with grd := 2 }),
   (Spec.word 0x0CC05C5A 0x0000FA00 0x00000680, .cmpI (Spec.argsI 7 ⟨false, .pred, 1⟩ (Spec.v 3) 1000 .i32 2)),
   (Spec.word 0x18011E00 0x40000088 0x00001308, .ld (Spec.args ⟨false, .v, 4⟩ (Spec.s 6) (Spec.v 2) z .b32 4 0x21)),
   (Spec.word 0x18011E40 0x00040008 0x00001200, .ldI (Spec.argsI 7 ⟨false, .v, 4⟩ (Spec.s 6) 0x1000 .b32 0)),
   (Spec.word 0x20001E01 0x00138408 0x00001200, .st (Spec.args no (Spec.s 8) (Spec.imm 0x10) (Spec.v 4) .b32 0 0)),
   (Spec.word 0x10015E81 0xF8838040 0x00001200, .shfl (Spec.args ⟨false, .v, 5⟩ (Spec.v 4) (Spec.imm 1) (Spec.imm 32) .b32 0 3)),
   (Spec.word 0x08001E88 0x000380E0 0x00000000, .rcv (Spec.args no ⟨.k, 2⟩ (Spec.imm 3) z .none 0 0)),
   (Spec.word 0x1C001E92 0x00038078 0x00000000, .cbadd (Spec.args no (Spec.imm 7) (Spec.imm 1) z .none 0 0)),
   (Spec.word 0x14001ED1 0x000C0038 0x00000100, .cbarmI (Spec.argsI 7 no (Spec.imm 5) 0x3000 .none 4)),
   (Spec.word 0x08001E98 0x00000038 0x00000000, .cbar (Spec.args no (Spec.imm 2) z z .none 0 0)),
   (Spec.word 0x10001F02 0x38808148 0x00001840, .mma (Spec.args no (Spec.s 4) (Spec.s 5) (Spec.imm 32) .f32 1 0)),
   (Spec.word 0x00001F00 0x40000000 0x00000000, .mxacq (Spec.args no z z z .none 0 1)),
   (Spec.word 0x01001DB2 0x08048038 0x00000001, .texp (Spec.args ⟨false, .k, 0⟩ (Spec.imm 0) (Spec.s 0) (Spec.s 1) .none 0 4)),
   (Spec.word 0x18019DEC 0xFFFFFDC0 0x0000003F, .eloopI (Spec.argsI 7 ⟨false, .v, 6⟩ (Spec.v 6) 0xFFFFFFF7 .none 0)),
   (Spec.word 0x10001F84 0x00008148 0x00000000, .lqdone (Spec.args no (Spec.s 4) (Spec.s 5) z .none 0 0)),
   (Spec.word 0x10001F82 0x481B0288 0x00000000, .tlbinv (Spec.args no (Spec.s 4) (Spec.c 10) (Spec.s 6) .none 0 1)),
   (Spec.word 0x10429F88 0x30330108 0x00000000, .ctxsave (Spec.args ⟨false, .s, 10⟩ (Spec.s 4) (Spec.c 4) (Spec.c 12) .none 0 0)),
   (Spec.word 0x1042DF89 0x00030108 0x00000000, .ctxload (Spec.args ⟨false, .s, 11⟩ (Spec.s 4) (Spec.c 4) z .none 0 0)),
   (Spec.word 0x18429F8A 0x00000008 0x00000000, .tgpost (Spec.args ⟨false, .s, 10⟩ (Spec.s 6) z z .none 0 0)),
   (Spec.word 0x1C42DF8B 0x00000008 0x00000000, .tgdone (Spec.args ⟨false, .s, 11⟩ (Spec.s 7) z z .none 0 0)),
   (Spec.word 0x10429F20 0x00008148 0x00000000, .pmflipH (Spec.args ⟨false, .s, 10⟩ (Spec.s 4) (Spec.s 5) z .none 0 0)),
   (Spec.word 0x1042DF20 0x40008148 0x00000000, .pmflipD (Spec.args ⟨false, .s, 11⟩ (Spec.s 4) (Spec.s 5) z .none 0 1)),
   (Spec.word 0x50455F22 0x08788208 0x00000000, .cgrun (Spec.args ⟨false, .s, 21⟩ (Spec.s 20) (Spec.s 8) (Spec.s 30) .none 0 0)),
   (Spec.word 0x18429F23 0x000081C8 0x00000000, .tship (Spec.args ⟨false, .s, 10⟩ (Spec.s 6) (Spec.s 7) z .none 0 0))]

/-- The words that the spec writes out decode to the instructions it gives them for, and these encode to them (R28, R29, R32, R37, R38). -/
def Obligations.WorkedEncodings : Prop :=
  ∀ x, x ∈ Spec.worked → decodeWord x.1 = .ok x.2 ∧ encode x.2 = x.1 ∧ decodeTableWord 96 x.1.toNat = some x.2

/-- Decoding and encoding agree on every well-formed instruction that has a word: the word is read back with every operand, from bytes in their order in memory too (R27 to R29). -/
def Obligations.EncodeThenDecode : Prop :=
  ∀ i : Instr, i.wf = true → hasWord i = true →
    decodeWord (encode i) = .ok i ∧ decodeTableWord 96 (encode i).toNat = some i ∧
    ∀ rest, decodeBytes (bytesOfWord (encode i) ++ rest) = some (.ok i, rest)

/-- What a word decodes to is well formed and encodes to that word, so no two words decode to one instruction; a word is the row of the unallocated opcodes exactly when R51 does not allocate its
opcode, and it is no instruction where its bits 95 to 86 are not zero or its type is above 20 (R28, R37, R38, R49, R52). -/
def Obligations.DecodeThenEncode : Prop :=
  (∀ (w : W96) (i : Instr), decodeWord w = .ok i → i.wf = true ∧ hasWord i = true ∧ encode i = w) ∧
  ∀ w : W96,
    (decodeWord w = .ok (.unallocatedOpcode w) ↔ allocated (w.toNat % 1024) = false) ∧
    (allocated (w.toNat % 1024) = true → w.toNat / 2 ^ 86 ≠ 0 ∨ 20 < w.toNat / 2 ^ 73 % 32 → ∃ r, decodeWord w = .illegal r)

-- ---------------------------------------------------------------------------------------------
-- A step

/-- The state in which the first member of a run executes: the threads of `ex` of the flight have the run `ws` in progress; `others` are the flight's other ready threads, which age. The core notes
when the class of the instruction last issued (R40, R42, R190, R195). -/
def Sys2Proof.Spec.starts (s : State) (c slot fid : Nat) (f : Flight) (ex others : W32) (pc : W57) (ws : List W96) : State :=
  let k := s.core c
  let w := ws.headD 0
  (s.setCore c { k with lastClass := k.lastClass.set (classKey (classOf (opcField w) (tyField w)) slot) s.clock }).setFlight c fid
    (f.issueBundle ex others (f.newRun ex pc ws))

/-- The next turn is `t`; `u` is the state without it, in which no route has been read yet (R401). -/
def Sys2Proof.Spec.turn (s : State) (t : Turn) (u : State) : Prop := ∃ rest, s.turns = t :: rest ∧ u = { s with turns := rest, via := .empty }

/-- A step executes the instruction that the bytes at the program counter decode to. A slot without a run in progress starts the run that the picker and the vote choose, unless a flight-wide bundle
waits for its threads; a slot with one goes on with its next member; an engine thread executes the word at its pc, and the rotation goes on behind it; an event executes as itself. An illegal word
traps, and a step with no turn given takes a free one (R40, R42, R49, R190, R198, R263, R394, assumption 2). -/
def Obligations.StepRunsTheDecodedInstruction : Prop :=
  (∀ (s u m t n : State) (c slot fid p : Nat) (ex others : W32) (rf : RunFetch) (f : Flight) (ws : List W96), Spec.turn s (.issue c slot) u → s.recovery = false →
    (∀ g x, (s.core c).flights.get? g = some x → x.slot = slot → x.run = none) → u.pickFlight c slot = some (fid, p, ex, others, rf) →
    m = { u.choiceMade c slot with cur := ⟨c, fid, false⟩ } → m.flight? c fid = some f → f.mustWait (p, ex, others, rf) = false →
    (∀ l, l < 32 → ex.getLsbD l = true → f.badVector l = false) → m.fetchRun c f.ctx (BitVec.ofNat 57 p) = (t, .ok ws) → t.bankReady f.launch ws = (n, true) →
    runBreaks ws = false →
    (∀ i, decodeWord (ws.headD 0) = .ok i → step s = exec i (Spec.starts n c slot fid f ex others (BitVec.ofNat 57 p) ws)) ∧
    ∀ r, decodeWord (ws.headD 0) = .illegal r → n.cur.engine = false → step s = .next (Spec.starts n c slot fid f ex others (BitVec.ofNat 57 p) ws).illegalMember) ∧
  (∀ (s u : State) (c slot fid : Nat) (f : Flight) (r : Run) (w : W96), Spec.turn s (.issue c slot) u → s.recovery = false → u.mayRun f.ctx = true →
    (s.core c).flights.get? fid = some f → f.slot = slot → f.run = some r → r.waiting = false → w = r.words.getD r.pos 0 →
    (∀ g x, (s.core c).flights.get? g = some x → x.slot = slot → x.run.isSome = true → g = fid) →
    (∀ i, decodeWord w = .ok i → step s = exec i { u.issued c slot w with cur := ⟨c, fid, false⟩ }) ∧
    ∀ e, decodeWord w = .illegal e → step s = .next ({ u.issued c slot w with cur := ⟨c, fid, false⟩ } : State).illegalMember) ∧
  (∀ (s u t n : State) (c e : Nat) (w : W96), Spec.turn s (.engine c e) u → s.recovery = false → u.nextEngine c = some e →
    ({ u.setCore c { u.core c with engTurn := (e + 1) % 8 } with cur := ⟨c, e, true⟩ } : State).fetch c (s.eng c e).ctx (s.eng c e).pc = (t, .ok w) →
    t.bankReady (s.eng c e).launch [w] = (n, true) →
    (∀ i, decodeWord w = .ok i → step s = exec i n) ∧
    ∀ r, decodeWord w = .illegal r → n.cur.engine = true → step s = .next n.illegalEngine) ∧
  (∀ (s u : State) (i : Instr), Spec.turn s (.event i) u → isEvent i = true → step s = exec i { u with cur := ⟨128, 0, false⟩ }) ∧
  ∀ s : State, s.turns = [] → step s = step { s with turns := [Config.freeTurn s.free], free := s.free + 1 }

/-- The bytes at the program counter run: a word placed in the memory of the package after reset, with a flight or, for a racking-only word, an engine thread at it, is what the next step executes:
in a flight in all 32 threads as a run of one member (R27, R40, R263; how it is placed: assumption 40). -/
def Obligations.PlacedWordExecutes : Prop :=
  ∀ (w : W96) (i : Instr), decodeWord w = .ok i → (hntField w).run = 0 → ∃ u : State,
    step (State.reset.withFetchWord 96 w.toNat) = exec i u ∧
    (rackingOpc (w.toNat % 1024) = false → ∃ h, u.here? = some h ∧ h.f.ctx = 21 ∧ h.r.start = 0x1000 ∧ h.r.pos = 0 ∧ h.r.len = 1 ∧ h.r.exec = BitVec.allOnes 32) ∧
    (rackingOpc (w.toNat % 1024) = true → u.cur = ⟨0, 0, true⟩ ∧ (u.eng 0 0).run = .running ∧ (u.eng 0 0).ctx = 21 ∧ (u.eng 0 0).pc = 0x1000)

-- ---------------------------------------------------------------------------------------------
-- Group 000: integer and address instructions

/-- An operand taken as an integer type (R82): its low bits, two's complement for the I types, unsigned for the N types. -/
def Sys2Proof.Spec.int (ty : Ty) (x : W64) : Int :=
  if ty.signed then (x.setWidth ty.width).toInt else ((x.setWidth ty.width).toNat : Int)

/-- The bits of a result of an integer type in its register: sign-extended to 32 bits for I8 and I16, zero-extended for N8 and N16 (R82). -/
def Sys2Proof.Spec.place (ty : Ty) (x : Int) : W64 :=
  let y := BitVec.ofInt ty.width x
  if ty.signed && ty.width != 64 then (y.signExtend 32).setWidth 64 else y.setWidth 64

/-- An exact integer brought into a type: clamped to its range under .SAT, else modulo 2^w (R84). -/
def Sys2Proof.Spec.fit (ty : Ty) (sat : Bool) (x : Int) : Int :=
  let lo : Int := if ty.signed then -(2 ^ (ty.width - 1)) else 0
  let hi : Int := if ty.signed then 2 ^ (ty.width - 1) - 1 else 2 ^ ty.width - 1
  if sat then (if x < lo then lo else if hi < x then hi else x) else x

/-- The exact results of the arithmetic instructions of R120, w being the width of the type. -/
def Sys2Proof.Spec.arith (i : Instr) (w : Nat) (a b c : Int) : Option Int :=
  match i with
  | .add _ | .addI _ => some (a + b)
  | .sub _ | .subI _ => some (a - b)
  | .mul _ | .mulI _ => some (a * b)
  | .mulhi _ => some (Int.fdiv (a * b) (2 ^ w))
  | .mad _ => some (a * b + c)
  | .neg _ => some (-a)
  | .abs _ => some (a.natAbs : Int)
  | .min _ | .minI _ => some (Min.min a b)
  | .max _ | .maxI _ => some (Max.max a b)
  | _ => none

/-- ADD, SUB, MUL, MULHI, MAD, NEG, ABS, MIN, MAX and their I-forms complete, and write the exact result of their operands as values of TYP, wrapped or saturated (R120). -/
def Sys2Proof.Spec.IntegerArithmeticResults : Prop :=
  ∀ (s : State) (h : Here) (i : Instr) (v : View) (o : OpSpec), Ready s h i v o → Clean s h v o →
    ∀ x : Nat → Int,
      (∀ l, l < 32 → Spec.arith i v.ty.width (Spec.int v.ty (operandA s h v o l).bits) (Spec.int v.ty (operandB s h v o none l).bits)
        (Spec.int v.ty (operandC s h v o l).bits) = some (x l)) →
      Completes i s h v false (resultOf h v o fun l => Spec.place v.ty (Spec.fit v.ty v.flg (x l)))

/-- The bitwise results of R120; a B32 result is the low half. -/
def Sys2Proof.Spec.bitwise (i : Instr) (a b : W64) : Option W64 :=
  match i with
  | .and _ | .andI _ => some (a &&& b)
  | .or _ | .orI _ => some (a ||| b)
  | .xor _ | .xorI _ => some (a ^^^ b)
  | .andn _ | .andnI _ => some (a &&& ~~~b)
  | .not _ => some (~~~a)
  | _ => none

/-- AND, OR, XOR, ANDN, NOT and the I-forms complete with their bitwise results (R120). -/
def Sys2Proof.Spec.BitwiseResults : Prop :=
  ∀ (s : State) (h : Here) (i : Instr) (v : View) (o : OpSpec), Ready s h i v o → Clean s h v o →
    ∀ y : Nat → W64, (∀ l, l < 32 → Spec.bitwise i (operandA s h v o l).bits (operandB s h v o none l).bits = some (y l)) →
      Completes i s h v false (resultOf h v o y)

/-- Integer arithmetic and bitwise operations. -/
def Obligations.IntegerAndBitwiseResults : Prop := Spec.IntegerArithmeticResults ∧ Spec.BitwiseResults

/-- The shifts, bit fields, counts and reversal of R122 to R124 on operands of w bits: the bits of SA, SB and SC. -/
def Sys2Proof.Spec.shift (i : Instr) (ty : Ty) (a b c : W64) : Option W64 :=
  let w := ty.width
  let x : BitVec w := a.setWidth w
  let n := (b.setWidth 32).toNat
  match i with
  | .shl _ | .shlI _ => some ((x <<< n).setWidth 64)
  | .shr _ | .shrI _ => some ((x >>> n).setWidth 64)
  | .sar _ | .sarI _ => some ((x.sshiftRight n).setWidth 64)
  | .rol _ | .rolI _ => some ((x.rotateLeft n).setWidth 64)
  | .bfx _ =>
    let pos := b.toNat % 256
    let len := if w ≤ pos then 0 else Min.min (c.toNat % 256) (w - pos)
    some (if len = 0 then 0
      else if ty.signed then (((x.extractLsb' pos len).signExtend w).setWidth 64) else (x.extractLsb' pos len).setWidth 64)
  | .bfi _ =>
    let pos := c.toNat % 256
    let len := if w ≤ pos then 0 else Min.min (c.toNat / 256 % 256) (w - pos)
    let m : BitVec w := ((1 <<< len) - 1) <<< pos
    some (((x &&& ~~~m) ||| ((b.setWidth w <<< pos) &&& m)).setWidth 64)
  | .popc _ => some (BitVec.ofNat 64 ((List.range w).filter fun k => x.getLsbD k).length)
  | .clz _ => some (BitVec.ofNat 64 ((List.range w).reverse.takeWhile fun k => !x.getLsbD k).length)
  | .brev _ => some (x.reverse.setWidth 64)
  | _ => none

/-- SHL, SHR, SAR, ROL and their I-forms, BFX, BFI, POPC, CLZ and BREV complete with the results of R122 to R124, for every count. -/
def Sys2Proof.Spec.ShiftAndFieldResults : Prop :=
  ∀ (s : State) (h : Here) (i : Instr) (v : View) (o : OpSpec), Ready s h i v o → Clean s h v o →
    ∀ y : Nat → W64,
      (∀ l, l < 32 → Spec.shift i v.ty (operandA s h v o l).bits (operandB s h v o none l).bits (operandC s h v o l).bits = some (y l)) →
      Completes i s h v false (resultOf h v o y)

/-- The quotient and the remainder of R121 for a divisor that is not zero: truncated toward zero, the remainder with the sign of the dividend. -/
def Sys2Proof.Spec.divide (i : Instr) (a b : Int) : Option Int :=
  match i with
  | .div _ => some (Int.tdiv a b)
  | .rem _ => some (Int.tmod a b)
  | _ => none

/-- What DIV and REM give for a divisor of zero without .CHK (R121). -/
def Sys2Proof.Spec.divideByZero (i : Instr) (a : Int) : Option Int :=
  match i with
  | .div _ => some (-1)
  | .rem _ => some a
  | _ => none

/-- DIV and REM complete with pending latency: the truncated quotient or the remainder, and for a zero divisor without .CHK all bits one or the dividend (R121, R115). -/
def Sys2Proof.Spec.DivisionResults : Prop :=
  ∀ (s : State) (h : Here) (i : Instr) (v : View) (o : OpSpec), Ready s h i v o → Clean s h v o →
    ∀ x : Nat → Int,
      (∀ l, l < 32 → (guardMask v.grd h.r).getLsbD l = true →
        let a := Spec.int v.ty (operandA s h v o l).bits
        let b := Spec.int v.ty (operandB s h v o none l).bits
        if b = 0 then v.opt.getLsbD 0 = false ∧ Spec.divideByZero i a = some (x l)
        else ∃ q, Spec.divide i a b = some q ∧ x l = Spec.fit v.ty v.flg q) →
      Completes i s h v true (resultOf h v o fun l => Spec.place v.ty (x l))

/-- Shifts, fields and division. -/
def Obligations.ShiftFieldAndDivisionResults : Prop := Spec.ShiftAndFieldResults ∧ Spec.DivisionResults

/-- Comparison by a condition code (R125). -/
def Sys2Proof.Spec.compare (code : Nat) (a b : Int) : Bool :=
  match code with
  | 0 => a == b
  | 1 => a != b
  | 2 => decide (a < b)
  | 3 => decide (a ≤ b)
  | 4 => decide (a > b)
  | _ => decide (a ≥ b)

/-- CMP, CMP_I and PLOP complete and write a predicate: the comparison of two values of TYP, and the bit of the table that the three predicates select (R125, R126). -/
def Sys2Proof.Spec.PredicateResults : Prop :=
  ∀ (s : State) (h : Here) (v : View) (o : OpSpec),
    (∀ (i : Instr), (∃ a, i = .cmp a) ∨ (∃ a, i = .cmpI a) → Ready s h i v o → Clean s h v o →
      Completes i s h v false (resultOf h v o fun l =>
        if Spec.compare v.z.toNat (Spec.int v.ty (operandA s h v o l).bits) (Spec.int v.ty (operandB s h v o none l).bits) then 1 else 0)) ∧
    ∀ a, Ready s h (.plop a) v o →
      Completes (.plop a) s h v false (resultOf h v o fun l =>
        let bit (x : Val) : Nat := if x.bits = 0 then 0 else 1
        if v.opt.getLsbD (4 * bit (operandA s h v o l) + 2 * bit (operandB s h v o none l) + bit (operandC s h v o l)) then 1 else 0)

/-- SEL, MOV, MOVI, LEA, LEA_I and ICVT complete: SEL hands on the source that the predicate chooses, MOV and MOVI copy, LEA forms an address modulo 2^64 and ICVT converts
(R127 to R130). SEL looks at the poison of the source that it hands on only. -/
def Sys2Proof.Spec.MoveAndAddressResults : Prop :=
  ∀ (s : State) (h : Here) (v : View) (o : OpSpec),
    (∀ a, Ready s h (.sel a) v o →
      let y (l : Nat) : Val := if (operandC s h v o l).bits = 0 then operandB s h v o none l else operandA s h v o l
      (∀ l, l < 32 → (guardMask v.grd h.r).getLsbD l = true → (y l).psn = false) →
      Completes (.sel a) s h v false (resultOf h v o fun l => (y l).bits)) ∧
    (Clean s h v o →
      (∀ a, Ready s h (.mov a) v o → Completes (.mov a) s h v false (resultOf h v o fun l => (operandA s h v o l).bits)) ∧
      (∀ a, Ready s h (.movi a) v o → Completes (.movi a) s h v false (resultOf h v o fun _ => a.imm.setWidth 64)) ∧
      (∀ a, Ready s h (.lea a) v o → Completes (.lea a) s h v false (resultOf h v o fun l =>
        let idx := (operandB s h v o none l).bits.setWidth 32
        let idx : W64 := if v.opt.getLsbD 3 then idx.signExtend 64 else idx.setWidth 64
        (operandA s h v o l).bits + idx * BitVec.ofNat 64 (2 ^ (v.opt.toNat % 8)) + ((operandC s h v o l).bits.setWidth 32).signExtend 64)) ∧
      (∀ a, Ready s h (.leaI a) v o → Completes (.leaI a) s h v false (resultOf h v o fun l =>
        (operandA s h v o l).bits + a.imm.signExtend 64)) ∧
      ∀ a, Ready s h (.icvt a) v o → Completes (.icvt a) s h v false (resultOf h v o fun l =>
        Spec.place v.ty (Spec.fit v.ty v.flg (Spec.int v.srcTy (operandA s h v o l).bits))))

/-- Comparisons and predicates, moves, addresses and conversions between integers. -/
def Obligations.PredicateMoveAndAddressResults : Prop := Spec.PredicateResults ∧ Spec.MoveAndAddressResults

-- ---------------------------------------------------------------------------------------------
-- Group 001: floating-point instructions

/-- The exact value of an operand of a floating-point type: only the bits of its width count (R79, R113). -/
def Sys2Proof.Spec.value (ty : Ty) (ftz : Bool) (x : W64) : FVal := valueOf ty.fmt (x.toNat % 2 ^ ty.width) ftz

/-- A number as signed units of 2^e0, for a value whose exponent is not below e0. -/
def Sys2Proof.Spec.units (e0 : Int) (x : FVal) : Int := x.units e0

/-- Finite patterns of a format. -/
def Sys2Proof.Spec.finite (f : Fmt) (b : Nat) : Prop := b < 2 * f.signBit ∧ ∃ n m e, valueOf f b false = .fin n m e

/-- The seven formats of R72. -/
def Sys2Proof.Spec.formats : List Fmt := [fmtF64, fmtF32, fmtF16, fmtBF16, fmtF8E4, fmtF8E5, fmtF4]

/-- Rounding gives, for every format and an exact value within its finite range, the representable value that the mode of R75 names: RZ the nearest one not greater in magnitude, RD
the greatest one not above, RU the least one not below, and RNE the nearest, of two equally near ones the even one. Values are compared in units of 2^e0. -/
def Sys2Proof.Spec.RoundingModes : Prop :=
  ∀ (f : Fmt) (mode : Rnd) (n : Bool) (m : Nat) (e e0 : Int), f ∈ Spec.formats → m ≠ 0 → e0 ≤ e → e0 ≤ f.emin →
    let u (x : FVal) : Int := Spec.units e0 x
    let x := FVal.fin n m e
    (u x).natAbs ≤ (u (valueOf f f.maxMag false)).natAbs →
    let p := roundMode f x mode false false
    Spec.finite f p ∧
    ∀ b, Spec.finite f b →
      let y := u (valueOf f b false)
      let z := u (valueOf f p false)
      match mode with
      | .rz => 0 ≤ z * u x ∧ z.natAbs ≤ (u x).natAbs ∧ (y.natAbs ≤ (u x).natAbs → y.natAbs ≤ z.natAbs)
      | .rd => z ≤ u x ∧ (y ≤ u x → y ≤ z)
      | .ru => u x ≤ z ∧ (u x ≤ y → z ≤ y)
      | .rne => (z - u x).natAbs ≤ (y - u x).natAbs ∧ ((z - u x).natAbs = (y - u x).natAbs → y ≠ z → p % 2 = 0)

/-- A result of at least twice the greatest finite value overflows as R77 says: to the infinity of its sign (the canonical NaN in F8E4), or to the greatest finite value where the mode points
inward, under .SAT, and in F4. -/
def Sys2Proof.Spec.RoundingOverflow : Prop :=
  ∀ (f : Fmt) (mode : Rnd) (ftz sat n : Bool) (m : Nat) (e e0 : Int), f ∈ Spec.formats → e0 ≤ e → e0 ≤ f.emin →
    ((valueOf f f.maxMag false).units e0).natAbs * 2 ≤ ((FVal.fin n m e).units e0).natAbs →
    let inward := mode = .rz ∨ (mode = .rd ∧ n = false) ∨ (mode = .ru ∧ n = true)
    roundMode f (.fin n m e) mode ftz sat =
      if inward ∨ sat = true ∨ f = fmtF4 then (if n then f.signBit else 0) + f.maxMag
      else if f = fmtF8E4 then 0x7F
      else (if n then f.signBit else 0) + f.infMag

/-- Rounding: the five modes, and results beyond the format. -/
def Obligations.Rounding : Prop := Spec.RoundingModes ∧ Spec.RoundingOverflow

/-- The exact results of R132 that add or multiply, with the zero rules of R78 for a mode. -/
def Sys2Proof.Spec.floatExact (i : Instr) (mode : Rnd) (a b c : FVal) : Option FVal :=
  match i with
  | .fadd _ | .faddI _ => some (a.add b mode)
  | .fsub _ | .fsubI _ => some (a.add b.neg mode)
  | .fmul _ | .fmulI _ => some (a.mul b)
  | .ffma _ => some ((a.mul b).add c mode)
  | _ => none

/-- FADD, FSUB, FMUL, their I-forms and FFMA complete, and write the exact result of the values of their operands, rounded once by RND, with the flushes of .FTZ (R132, R76). -/
def Sys2Proof.Spec.FloatSums : Prop :=
  ∀ (s : State) (h : Here) (i : Instr) (v : View) (o : OpSpec), Ready s h i v o → Clean s h v o →
    ∀ x : Nat → FVal,
      (∀ l, l < 32 → Spec.floatExact i v.rnd (Spec.value v.ty v.flg (operandA s h v o l).bits)
        (Spec.value v.ty v.flg (operandB s h v o (some v.rnd) l).bits) (Spec.value v.ty v.flg (operandC s h v o l).bits) = some (x l)) →
      Completes i s h v false (resultOf h v o fun l => BitVec.ofNat 64 (roundMode v.ty.fmt (x l) v.rnd v.flg false))

/-- FRND and FSCL complete: the nearest integer in the mode, a zero with the sign of the operand; and the value times 2^n, n being the I32 of SB, rounded once (R132). -/
def Sys2Proof.Spec.FloatIntegerAndScale : Prop :=
  ∀ (s : State) (h : Here) (v : View) (o : OpSpec), Clean s h v o →
    (∀ a, Ready s h (.frnd a) v o → Completes (.frnd a) s h v false (resultOf h v o fun l =>
      BitVec.ofNat 64 (roundMode v.ty.fmt
        (match Spec.value v.ty v.flg (operandA s h v o l).bits with
          | .fin n m e => .fin n (roundIntMag n m e v.rnd) 0
          | x => x) v.rnd v.flg false))) ∧
    ∀ a, Ready s h (.fscl a) v o → Completes (.fscl a) s h v false (resultOf h v o fun l =>
      BitVec.ofNat 64 (roundMode v.ty.fmt
        (match Spec.value v.ty v.flg (operandA s h v o l).bits with
          | .fin n m e => .fin n m (e + ((operandB s h v o (some v.rnd) l).bits.setWidth 32).toInt)
          | x => x) v.rnd v.flg false))

/-- Whether a value lies below another, with -0 below +0 (R133). -/
def Sys2Proof.Spec.below (x y : FVal) : Bool := decide (x.cmp y < 0) || (decide (x.cmp y = 0) && x.isNeg && !y.isNeg)

/-- The result of FMIN or FMAX: the other operand of a NaN, the canonical NaN of two, else the smaller or the larger (R133). -/
def Sys2Proof.Spec.minmax (big : Bool) (f : Fmt) (x y : FVal) : Nat :=
  if x.isNaN && y.isNaN then f.cnan
  else roundRne f (if x.isNaN then y else if y.isNaN then x else if (if big then Spec.below x y else Spec.below y x) then y else x)

/-- The condition of FCMP (R134): ordered comparisons, and .NE and .UNO of unordered values. -/
def Sys2Proof.Spec.floatCompare (code : Nat) (x y : FVal) : Bool :=
  if x.isNaN || y.isNaN then code == 1 || code == 7
  else match code with
    | 0 => x.cmp y == 0
    | 1 => x.cmp y != 0
    | 2 => decide (x.cmp y < 0)
    | 3 => decide (x.cmp y ≤ 0)
    | 4 => decide (0 < x.cmp y)
    | 5 => decide (0 ≤ x.cmp y)
    | 6 => true
    | _ => false

/-- The class mask of FCLASS (R135), from the fields of the pattern. -/
def Sys2Proof.Spec.classMask (f : Fmt) (b : Nat) : Nat :=
  let neg := decide (b / f.signBit % 2 = 1)
  let ex := b % f.signBit / 2 ^ f.fbits
  let fr := b % 2 ^ f.fbits
  let top := 2 ^ f.ebits - 1
  if f.ieee && ex == top then (if fr ≠ 0 then 256 else if neg then 1 else 128)
  else if f = fmtF8E4 ∧ ex = top ∧ fr = 7 then 256
  else if ex = 0 then (if fr = 0 then (if neg then 8 else 16) else if neg then 4 else 32)
  else if neg then 2 else 64

/-- FMIN, FMAX, FCMP, their I-forms and FCLASS complete with the results of R133 to R135. -/
def Sys2Proof.Spec.FloatSelectionResults : Prop :=
  ∀ (s : State) (h : Here) (v : View) (o : OpSpec), Clean s h v o →
    (∀ (i : Instr) (big : Bool), (big = false ∧ ((∃ a, i = .fmin a) ∨ ∃ a, i = .fminI a)) ∨ (big = true ∧ ((∃ a, i = .fmax a) ∨ ∃ a, i = .fmaxI a)) →
      Ready s h i v o → Completes i s h v false (resultOf h v o fun l => BitVec.ofNat 64
        (Spec.minmax big v.ty.fmt (Spec.value v.ty v.flg (operandA s h v o l).bits) (Spec.value v.ty v.flg (operandB s h v o (some v.rnd) l).bits)))) ∧
    (∀ i : Instr, (∃ a, i = .fcmp a) ∨ (∃ a, i = .fcmpI a) → Ready s h i v o →
      Completes i s h v false (resultOf h v o fun l =>
        if Spec.floatCompare v.z.toNat (Spec.value v.ty false (operandA s h v o l).bits) (Spec.value v.ty false (operandB s h v o (some .rne) l).bits)
        then 1 else 0)) ∧
    ∀ a, Ready s h (.fclass a) v o → Completes (.fclass a) s h v false (resultOf h v o fun l =>
      BitVec.ofNat 64 (Spec.classMask v.ty.fmt ((operandA s h v o l).bits.toNat % 2 ^ v.ty.width)))

/-- Rounding to integers, scaling, minimum and maximum, comparison and class. -/
def Obligations.FloatIntegerScaleAndSelection : Prop := Spec.FloatIntegerAndScale ∧ Spec.FloatSelectionResults

/-- FCVT, F2I and I2F complete: a value read in the source format and rounded to the other, with FLG as .SAT for a narrow result and as .FTZ otherwise; the integer of a value,
saturated, 0 for a NaN; and an integer rounded to a format (R137, R138). -/
def Obligations.FloatConversionResults : Prop :=
  ∀ (s : State) (h : Here) (v : View) (o : OpSpec), Clean s h v o →
    (∀ a, Ready s h (.fcvt a) v o →
      let narrow := v.ty = .f8e4 ∨ v.ty = .f8e5 ∨ v.ty = .f4
      Completes (.fcvt a) s h v false (resultOf h v o fun l => BitVec.ofNat 64
        (if narrow then roundMode v.ty.fmt (Spec.value v.srcTy false (operandA s h v o l).bits) v.rnd false v.flg
         else roundMode v.ty.fmt (Spec.value v.srcTy v.flg (operandA s h v o l).bits) v.rnd v.flg false))) ∧
    (∀ a, Ready s h (.f2i a) v o → Completes (.f2i a) s h v false (resultOf h v o fun l =>
      let hi : Int := if v.ty.signed then 2 ^ (v.ty.width - 1) - 1 else 2 ^ v.ty.width - 1
      let lo : Int := if v.ty.signed then -(2 ^ (v.ty.width - 1)) else 0
      Spec.place v.ty (match Spec.value v.srcTy false (operandA s h v o l).bits with
        | .nan => 0
        | .inf n => if n then lo else hi
        | .fin n m e => Spec.fit v.ty true (if n then -(roundIntMag n m e v.rnd : Int) else (roundIntMag n m e v.rnd : Int))))) ∧
    ∀ a, Ready s h (.i2f a) v o → Completes (.i2f a) s h v false (resultOf h v o fun l =>
      let x := Spec.int v.srcTy (operandA s h v o l).bits
      BitVec.ofNat 64 (roundMode v.ty.fmt (.fin (decide (x < 0)) x.natAbs 0) v.rnd false false))

/-- The half of a word of an H-form (R83, R139). -/
def Sys2Proof.Spec.half (k : Nat) (x : W64) : W64 := (x.extractLsb' (16 * k) 16).setWidth 64

/-- HVADD, HVMUL, HVFMA, HVMIN and HVMAX complete: each half of the result is that of the scalar operation on the same halves of the sources (R139). -/
def Sys2Proof.Spec.PackedHalfResults : Prop :=
  ∀ (s : State) (h : Here) (v : View) (o : OpSpec), Clean s h v o →
    let x (k l : Nat) : FVal := Spec.value v.ty v.flg (Spec.half k (operandA s h v o l).bits)
    let y (k l : Nat) : FVal := Spec.value v.ty v.flg (Spec.half k (operandB s h v o (some v.rnd) l).bits)
    let z (k l : Nat) : FVal := Spec.value v.ty v.flg (Spec.half k (operandC s h v o l).bits)
    let both (f : Nat → Nat → Nat) (l : Nat) : W64 := BitVec.ofNat 64 (f 0 l % 2 ^ 16 + 2 ^ 16 * (f 1 l % 2 ^ 16))
    let rounded (w : FVal) : Nat := roundMode v.ty.fmt w v.rnd v.flg false
    (∀ a, Ready s h (.hvadd a) v o → Completes (.hvadd a) s h v false (resultOf h v o (both fun k l => rounded ((x k l).add (y k l) v.rnd)))) ∧
    (∀ a, Ready s h (.hvmul a) v o → Completes (.hvmul a) s h v false (resultOf h v o (both fun k l => rounded ((x k l).mul (y k l))))) ∧
    (∀ a, Ready s h (.hvfma a) v o →
      Completes (.hvfma a) s h v false (resultOf h v o (both fun k l => rounded (((x k l).mul (y k l)).add (z k l) v.rnd)))) ∧
    (∀ a, Ready s h (.hvmin a) v o → Completes (.hvmin a) s h v false (resultOf h v o (both fun k l => Spec.minmax false v.ty.fmt (x k l) (y k l)))) ∧
    ∀ a, Ready s h (.hvmax a) v o → Completes (.hvmax a) s h v false (resultOf h v o (both fun k l => Spec.minmax true v.ty.fmt (x k l) (y k l)))

/-- Floating-point arithmetic, of one value and of packed halves. -/
def Obligations.FloatArithmeticResults : Prop := Spec.FloatSums ∧ Spec.PackedHalfResults

/-- The functions of the special-function instructions (R136); bits that the spec does not publish are the free values of assumption 9. -/
def Sys2Proof.Spec.special (i : Instr) (x : FVal) (p : Nat) (mode : Rnd) (ftz : Bool) : Option Nat :=
  match i with
  | .frcp _ => some (frcp x mode ftz)
  | .fsqrt _ => some (fsqrt x mode ftz)
  | .frsq _ => some (frsq x p ftz)
  | .fex2 _ => some (fex2 x p ftz)
  | .flg2 _ => some (flg2 x p ftz)
  | .fsin _ => some (fsin x p ftz)
  | .fcos _ => some (fcos x p ftz)
  | _ => none

/-- FRCP, FRSQ, FSQRT, FEX2, FLG2, FSIN and FCOS complete with pending latency and write their function of the flushed operand (R136, R115). -/
def Sys2Proof.Spec.SpecialFunctionsComplete : Prop :=
  ∀ (s : State) (h : Here) (i : Instr) (v : View) (o : OpSpec), Ready s h i v o → Clean s h v o →
    ∀ y : Nat → Nat,
      (∀ l, l < 32 → Spec.special i (Spec.value .f32 v.flg (operandA s h v o l).bits) ((operandA s h v o l).bits.toNat % 2 ^ 32) v.rnd v.flg = some (y l)) →
      Completes i s h v true (resultOf h v o fun l => BitVec.ofNat 64 (y l))

/-- The exact results that R136 lists, for every input pattern p, mode and flush, whatever the free bits are: NaN gives the canonical NaN; zeros, infinities and negative operands;
powers of four under FRSQ, integers under FEX2 and powers of two under FLG2; and FSQRT and FRCP have the value that correct rounding gives of a power. -/
def Sys2Proof.Spec.SpecialFunctionExactResults : Prop :=
  ∀ (p : Nat) (mode : Rnd) (n : Bool) (m : Nat) (e : Int),
    let cnan := 0x7FC00000
    let inf := 0x7F800000
    let neg := 0x80000000
    (frcp .nan mode false = cnan ∧ fsqrt .nan mode false = cnan ∧ frsq .nan p false = cnan ∧ fex2 .nan p false = cnan ∧ flg2 .nan p false = cnan ∧
      fsin .nan p false = cnan ∧ fcos .nan p false = cnan) ∧
    (frcp (.fin n 0 e) mode false = (if n then neg + inf else inf) ∧ frcp (.inf n) mode false = if n then neg else 0) ∧
    (fsqrt (.fin n 0 e) mode false = (if n then neg else 0) ∧ fsqrt (.inf false) mode false = inf ∧ fsqrt (.inf true) mode false = cnan ∧
      (m ≠ 0 → fsqrt (.fin true m e) mode false = cnan)) ∧
    (frsq (.fin n 0 e) p false = (if n then neg + inf else inf) ∧ frsq (.inf false) p false = 0 ∧ (m ≠ 0 → frsq (.fin true m e) p false = cnan) ∧
      (∀ k : Int, -74 ≤ k → k ≤ 63 → frsq (.fin false 1 (2 * k)) p false = roundRne fmtF32 (.fin false 1 (-k)))) ∧
    (fex2 (.fin n 0 e) p false = 0x3F800000 ∧ fex2 (.inf true) p false = 0 ∧ fex2 (.inf false) p false = inf ∧
      (∀ k : Nat, 0 < k → k < 2 ^ 24 → fex2 (.fin false k 0) p false = (if k ≤ 127 then roundRne fmtF32 (.fin false 1 k) else inf) ∧
        fex2 (.fin true k 0) p false = if k ≤ 149 then roundRne fmtF32 (.fin false 1 (-k)) else 0)) ∧
    (flg2 (.fin n 0 e) p false = neg + inf ∧ flg2 (.inf false) p false = inf ∧ (m ≠ 0 → flg2 (.fin true m e) p false = cnan) ∧
      flg2 (.fin false 1 e) p false = roundRne fmtF32 (.fin (decide (e < 0)) e.natAbs 0)) ∧
    (fsin (.fin n 0 e) p false = (if n then neg else 0) ∧ fsin (.inf n) p false = cnan ∧
      (m ≠ 0 → (FVal.fin false m e).cmp (.fin false 1 (-12)) ≤ 0 → fsin (.fin n m e) p false = roundRne fmtF32 (.fin n m e))) ∧
    fcos (.fin n 0 e) p false = 0x3F800000 ∧ fcos (.inf n) p false = cnan

/-- The special functions complete, and have the results that the rules fix. -/
def Obligations.SpecialFunctions : Prop := Spec.SpecialFunctionsComplete ∧ Spec.SpecialFunctionExactResults

-- ---------------------------------------------------------------------------------------------
-- Group 010: packed instructions and the exact accumulator

/-- The element i of m bits of the low word of an operand (R83). -/
def Sys2Proof.Spec.elem (m i : Nat) (x : W64) : Nat := x.toNat % 2 ^ 32 / 2 ^ (m * i) % 2 ^ m

/-- The value of an element of DP8 and DP4: two's complement, unsigned, or the code less the zero point that the operand's odd half holds (R141). -/
def Sys2Proof.Spec.dpValue (m kind : Nat) (x : W64) (i : Nat) : Int :=
  let e := Spec.elem m i x
  match kind with
  | 0 => if e < 2 ^ (m - 1) then (e : Int) else (e : Int) - 2 ^ m
  | 1 => (e : Int)
  | _ => (e : Int) - ((x.toNat / 2 ^ 32 % 2 ^ m : Nat) : Int)

/-- The sum of n integers. -/
def Sys2Proof.Spec.sum (f : Nat → Int) : Nat → Int
  | 0 => 0
  | n + 1 => Spec.sum f n + f n

/-- The exact sum of R142: NaN from a NaN or from infinities of both signs, else an infinity, else the sum of the terms, a zero sum with its sign. -/
def Sys2Proof.Spec.termSum (ts : List FVal) (mode : Rnd) : FVal :=
  let e0 := ts.foldl (fun (m : Int) t => match t with
    | .fin _ _ e => Min.min m e
    | _ => m) 0
  let zero (neg : Bool) (t : FVal) : Bool := match t with
    | .fin n m _ => n == neg && m == 0
    | _ => false
  if ts.any FVal.isNaN || (ts.contains (.inf false) && ts.contains (.inf true)) then .nan
  else if ts.contains (.inf false) then .inf false
  else if ts.contains (.inf true) then .inf true
  else
    let x : Int := (ts.map fun t => t.units e0).foldl (· + ·) 0
    if x = 0 then .fin (ts.all (zero true) || (mode == .rd && ts.any fun t => !zero false t)) 0 0 else .fin (decide (x < 0)) x.natAbs e0

/-- DP8, DP4, FDP8 and FDP4 complete: the exact sum of the products of their elements and of SC, wrapped or saturated to an I32, or rounded once to an F32
(R141, R142). -/
def Sys2Proof.Spec.DotProductResults : Prop :=
  ∀ (s : State) (h : Here) (v : View) (o : OpSpec), Clean s h v o →
    (∀ (i : Instr) (m : Nat), (m = 8 ∧ ∃ a, i = .dp8 a) ∨ (m = 4 ∧ ∃ a, i = .dp4 a) → Ready s h i v o →
      Completes i s h v false (resultOf h v o fun l => Spec.place .i32 (Spec.fit .i32 v.flg
        (Spec.int .i32 (operandC s h v o l).bits +
          Spec.sum (fun k => Spec.dpValue m (v.opt.toNat % 4) (operandA s h v o l).bits k *
            Spec.dpValue m (v.opt.toNat / 4 % 4) (operandB s h v o none l).bits k) (32 / m))))) ∧
    ∀ (i : Instr) (m : Nat) (fa fb : Fmt),
      (m = 8 ∧ (∃ a, i = .fdp8 a) ∧ fa = (if v.opt.getLsbD 0 then fmtF8E5 else fmtF8E4) ∧ fb = if v.opt.getLsbD 1 then fmtF8E5 else fmtF8E4) ∨
        (m = 4 ∧ (∃ a, i = .fdp4 a) ∧ fa = fmtF4 ∧ fb = fmtF4) → Ready s h i v o →
      Completes i s h v false (resultOf h v o fun l =>
        let terms := (List.range (32 / m)).map fun k =>
          (valueOf fa (Spec.elem m k (operandA s h v o l).bits) v.flg).mul (valueOf fb (Spec.elem m k (operandB s h v o none l).bits) v.flg)
        BitVec.ofNat 64 (roundMode fmtF32 (Spec.termSum (Spec.value .f32 v.flg (operandC s h v o l).bits :: terms) v.rnd) v.rnd v.flg false))

/-- One converted element of PACK: an integer wrapped or saturated, or an F32 value rounded to the type (R143). -/
def Sys2Proof.Spec.packed (v : View) (x : W64) : Nat :=
  if v.ty = .i8 ∨ v.ty = .n8 ∨ v.ty = .i16 ∨ v.ty = .n16 then (BitVec.ofInt v.ty.width (Spec.fit v.ty v.flg (Spec.int .i32 x))).toNat
  else if v.ty = .f16 ∨ v.ty = .bf16 then roundMode v.ty.fmt (Spec.value .f32 v.flg x) v.rnd v.flg false % 2 ^ v.ty.width
  else roundMode v.ty.fmt (Spec.value .f32 false x) v.rnd false v.flg % 2 ^ v.ty.width

/-- PACK, UNPK and XSCL complete: two converted elements placed in a copy of SC, one element widened, and a value times an E8M0 scale, rounded once (R143 to R145). -/
def Sys2Proof.Spec.PackAndScaleResults : Prop :=
  ∀ (s : State) (h : Here) (v : View) (o : OpSpec), Clean s h v o →
    (∀ a, Ready s h (.pack a) v o → Completes (.pack a) s h v false (resultOf h v o fun l =>
      let w := v.ty.width
      let at_ := 2 * (v.opt.toNat % 4) * w
      let pair := Spec.packed v (operandA s h v o l).bits + 2 ^ w * Spec.packed v (operandB s h v o none l).bits
      let m : W64 := BitVec.ofNat 64 (2 ^ (2 * w) - 1) <<< at_
      (((operandC s h v o l).bits &&& ~~~m) ||| (BitVec.ofNat 64 pair <<< at_)) &&& 0xFFFFFFFF)) ∧
    (∀ a, Ready s h (.unpk a) v o → Completes (.unpk a) s h v false (resultOf h v o fun l =>
      let e := Spec.elem v.ty.width (v.opt.toNat % 8) (operandA s h v o l).bits
      if v.ty = .i8 ∨ v.ty = .n8 ∨ v.ty = .i16 ∨ v.ty = .n16 then Spec.place v.ty (Spec.int v.ty (BitVec.ofNat 64 e))
      else BitVec.ofNat 64 (roundRne fmtF32 (valueOf v.ty.fmt e false)))) ∧
    ∀ a, Ready s h (.xscl a) v o → Completes (.xscl a) s h v false (resultOf h v o fun l =>
      let e := Spec.elem 8 (v.opt.toNat % 4) (operandB s h v o none l).bits
      BitVec.ofNat 64 (if e = 255 then 0x7FC00000
        else roundMode fmtF32 (match Spec.value .f32 v.flg (operandA s h v o l).bits with
          | .fin n m x => .fin n m (x + (e : Int) - 127)
          | x => x) v.rnd v.flg false))

/-- Dot products, packing and scales. -/
def Obligations.DotProductPackAndScaleResults : Prop := Spec.DotProductResults ∧ Spec.PackAndScaleResults

/-- The slot in an XA group of a lane: the bits of the twelve registers, lowest first (R86, R146). -/
def Sys2Proof.Spec.slot (h : Here) (l : Nat) (x : Src) : XA :=
  XA.ofNat ((List.range 12).foldr (fun j acc => ((h.r.thread l).vreg (x.idx.toNat + j)).val.toNat + 2 ^ 32 * acc) 0)

/-- Whether no register of an XA group of a lane is poisoned. -/
def Sys2Proof.Spec.slotClean (h : Here) (l : Nat) (x : Src) : Prop := ∀ j, j < 12 → ((h.r.thread l).vreg (x.idx.toNat + j)).psn = false

/-- The writes of a slot to an XA group: its 384 bits, twelve registers, none poisoned (R146). -/
def Sys2Proof.Spec.slotWrites (d : Dst) (a : XA) : List SWrite :=
  if d.n then [] else (List.range 12).map fun j => .v (d.idx.toNat + j) ((BitVec.ofNat 384 a.toNat).extractLsb' (32 * j) 32) false

/-- The effect of an XA result in each lane; the latch position holds its first register. -/
def Sys2Proof.Spec.slotEffect (d : Dst) (a : Nat → XA) : Effect :=
  { lat := fun l => Val.of32 ((BitVec.ofNat 384 (a l).toNat).setWidth 32) false, ws := fun l => Spec.slotWrites d (a l), once := [] }

/-- XACC, XADD, XRND and XCLR complete: the sum of a group and one value, of two groups, the rounded value of a group, and the reset slot (R147 to R150). -/
def Sys2Proof.Spec.AccumulatorResults : Prop :=
  ∀ (s : State) (h : Here) (v : View) (o : OpSpec),
    let on (p : Nat → Prop) : Prop := ∀ l, l < 32 → (guardMask v.grd h.r).getLsbD l = true → p l
    (∀ a, Ready s h (.xacc a) v o → on (fun l => Spec.slotClean h l a.sa ∧ (operandB s h v o none l).psn = false) →
      Completes (.xacc a) s h v false (Spec.slotEffect a.dst fun l =>
        (Spec.slot h l a.sa).add (Spec.value a.ty false (operandB s h v o none l).bits))) ∧
    (∀ a, Ready s h (.xadd a) v o → on (fun l => Spec.slotClean h l a.sa ∧ Spec.slotClean h l a.sb) →
      Completes (.xadd a) s h v false (Spec.slotEffect a.dst fun l => (Spec.slot h l a.sa).merge (Spec.slot h l a.sb))) ∧
    (∀ a, Ready s h (.xrnd a) v o → on (fun l => Spec.slotClean h l a.sa) →
      Completes (.xrnd a) s h v false (resultOf h v o fun l => BitVec.ofNat 64 ((Spec.slot h l a.sa).round a.ty.fmt))) ∧
    ∀ a, Ready s h (.xclr a) v o →
      Completes (.xclr a) s h v false (Spec.slotEffect a.dst fun _ => XA.ofNat 0)

/-- The order in which an accumulator receives values does not change it, while no sum leaves its range: the values, the flags and the class of contributions come out the same
(R90, R151). -/
def Sys2Proof.Spec.AccumulationIsOrderFree : Prop :=
  ∀ (xs ys : List FVal) (z : XA), xs.Perm ys →
    (∀ x ∈ xs, ∃ b, b < 2 ^ 32 ∧ x = valueOf fmtF32 b false) → z.val.natAbs + xs.length * 2 ^ 278 < 2 ^ 319 →
    xs.foldl XA.add z = ys.foldl XA.add z

/-- The exact accumulator. -/
def Obligations.Accumulators : Prop := Spec.AccumulatorResults ∧ Spec.AccumulationIsOrderFree

-- ---------------------------------------------------------------------------------------------
-- Group 011: control, traps and the return from them

/-- A target that passes check_target (R153): aligned to 4 bytes, below 2^57, and with an instruction that can be fetched there; `s'` is the state after the fetch. -/
def Sys2Proof.Spec.target (s : State) (h : Here) (x : W64) (land : Bool) (s' : State) : Prop :=
  x.toNat % 4 = 0 ∧ x.toNat < 2 ^ 57 ∧ ∃ w, s.fetch h.c h.f.ctx (x.setWidth 57) = (s', .ok w) ∧ (land = true → w.getLsbD 85 = true)

/-- The target of BRA and CALL, relative to the address of the instruction, modulo 2^57 (R153). -/
def Sys2Proof.Spec.relative (pc : W57) (imm : BitVec 32) : W64 := BitVec.ofNat 64 (((pc.toNat : Int) + 4 * imm.toInt) % 2 ^ 57).toNat

/-- BRA and BRX complete in every thread that executes them, lane by lane: with a target that passes check_target (BRX needs LAND there) each goes on at its target, and no register changes;
the other threads of the run go on in sequence (R153, R154). -/
def Sys2Proof.Spec.BranchesComplete : Prop :=
  ∀ (s : State) (h : Here) (v : View) (o : OpSpec) (s' : State),
    let g := lanesOf (guardMask v.grd h.r)
    (∀ a, Ready s h (.bra a) v o → InOrder (fun t _ t' => Spec.target t h (Spec.relative h.r.addr a.imm) false t') g s s' →
      CompletesIn (.bra a) s h v s' h.f (Effect.only fun _ => .go ((Spec.relative h.r.addr a.imm).setWidth 57))) ∧
    ∀ a, Ready s h (.brx a) v o → Clean s h v o → InOrder (fun t l t' => Spec.target t h (operandA s h v o l).bits true t') g s s' →
      CompletesIn (.brx a) s h v s' h.f (Effect.only fun l => .go ((operandA s h v o l).bits.setWidth 57))

/-- The effect of a call, or of a return: the stack pointer takes a value and the thread goes on at its target. -/
def Sys2Proof.Spec.moved (sp : Nat → W64) (pc : Nat → W64) : Effect :=
  { lat := fun _ => Val.zero, ws := fun l => [.sp (sp l)], once := [], fin := fun l => .go ((pc l).setWidth 57) }

/-- CALL, CALLX and RET complete in every thread that executes them, with an aligned stack pointer: a call stores the address behind it and a zero word in the 16 bytes below the stack pointer,
which moves there; RET takes its target from there and moves the stack pointer up again (R153 to R155). -/
def Sys2Proof.Spec.CallsAndReturnsComplete : Prop :=
  ∀ (s : State) (h : Here) (v : View) (o : OpSpec) (s' : State),
    let g := lanesOf (guardMask v.grd h.r)
    let sp (l : Nat) : W64 := (h.r.thread l).sp
    let push (x : Nat → W64) (land : Bool) (t : State) (l : Nat) (t' : State) : Prop :=
      ∃ m, Spec.target t h (x l) land m ∧ m.storeWords h.c h.f.ctx (sp l - 16) [h.r.after.toNat, 0] = .ok t' ()
    (∀ l, l ∈ g → (sp l).toNat % 16 = 0) →
    (∀ a, Ready s h (.call a) v o → InOrder (push (fun _ => Spec.relative h.r.addr a.imm) false) g s s' →
      CompletesIn (.call a) s h v s' h.f (Spec.moved (fun l => sp l - 16) fun _ => Spec.relative h.r.addr a.imm)) ∧
    (∀ a, Ready s h (.callx a) v o → Clean s h v o → InOrder (push (fun l => (operandA s h v o l).bits) true) g s s' →
      CompletesIn (.callx a) s h v s' h.f (Spec.moved (fun l => sp l - 16) fun l => (operandA s h v o l).bits)) ∧
    ∀ a (x : Nat → Nat), Ready s h (.ret a) v o →
      InOrder (fun t l t' => ∃ m, t.loadWords h.c h.f.ctx (sp l) 1 = .ok m [(x l, false)] ∧ Spec.target m h (BitVec.ofNat 64 (x l)) false t') g s s' →
      CompletesIn (.ret a) s h v s' h.f (Spec.moved (fun l => sp l + 16) fun l => BitVec.ofNat 64 (x l))

/-- Branches, calls and returns. -/
def Obligations.BranchesCallsAndReturns : Prop := Spec.BranchesComplete ∧ Spec.CallsAndReturnsComplete

/-- NOP, YIELD and a SLEEP of zero cycles complete and change no register; SLEEP of more cycles holds each thread from the clock at which it issued, and SLEEP_EXPIRY lets it go on
once that many cycles have passed, not before (R159). -/
def Sys2Proof.Spec.YieldAndSleep : Prop :=
  ∀ (s : State) (h : Here) (v : View) (o : OpSpec),
    let count (l : Nat) : Nat := if (operandA s h v o l).psn then 0 else (operandA s h v o l).bits.toNat % 2 ^ 32
    (∀ a, Ready s h (.nop a) v o → Completes (.nop a) s h v false (Effect.only fun _ => .next)) ∧
    (∀ a, Ready s h (.yield a) v o →
      CompletesIn (.yield a) s h v (s.setFlight h.c h.fid { h.f with yielded := true }) { h.f with yielded := true } (Effect.only fun _ => .next)) ∧
    (∀ a, Ready s h (.sleep a) v o → guardMask v.grd h.r = h.r.exec → h.r.isLast = true → (∀ l, l < 32 → h.r.exec.getLsbD l = true → count l ≠ 0) →
      WaitsIn (.sleep a) s h s h.f fun l => .sleep s.clock (count l)) ∧
    (∀ a, Ready s h (.sleep a) v o → (∀ l, l < 32 → (guardMask v.grd h.r).getLsbD l = true → count l = 0) →
      CompletesIn (.sleep a) s h v (s.setFlight h.c h.fid { h.f with yielded := true }) { h.f with yielded := true } (Effect.only fun _ => .next)) ∧
    ∀ (c fid l start n : Nat) (f : Flight) (p : Pass), s.flight? c fid = some f → (f.thread l).hold = .sleep start n p →
      (s.clock < start + n ∧ n ≠ 0 → exec (.sleepExpiry c fid l) s = .next s) ∧
      (start + n ≤ s.clock → ∃ f', exec (.sleepExpiry c fid l) s = .next (s.setFlight c fid f') ∧ (f'.thread l).hold = .none ∧ (f'.thread l).pc = p.next ∧
        ∀ x, f'.holds x = afterWrites ((f.heldRuns.getD p.run [] ++ p.writes).map fun w => (l, w)) x (f.holds x))

/-- The four words of a trap frame: the restart point, and sys.trapaddr, sys.trapcause with sys.poisontok above it, and sys.sp as they were (R106). -/
def Sys2Proof.Spec.frame (t : Thread) (restart : W57) : List Nat :=
  [restart.toNat, t.trapaddr.toNat, t.trapcause.toNat + 2 ^ 32 * t.poisontok.toNat, t.sp.toNat]

/-- Taking a trap (R105, R106): the frame is stored in the 32 bytes below the aligned stack pointer, which moves there; the depth rises by one; sys.trapcause, sys.trapaddr and
sys.poisontok say what happened; the thread goes on at ctx.tvec and no register of any thread changes. At a depth of 7, or where the frame cannot be stored, the thread is
left as it was and its context traps with TRAP_DEPTH or TRAP_FRAME (R109). -/
def Obligations.TakingATrap : Prop :=
  ∀ (s : State) (c fid l : Nat) (f : Flight) (restart : W57) (cause : W32) (addr : W64) (tok : W32), s.flight? c fid = some f →
    let t := f.thread l
    let sp := (t.sp &&& ~~~15#64) - 32
    (7 ≤ t.depth → s.takeTrap c fid l restart cause addr tok = .ok (s.trapContext f.ctx 1 t.trapaddr) ()) ∧
    (t.depth < 7 →
      (∀ s' k m st g, s.storeWords c f.ctx sp (Spec.frame t restart) = .fail s' k m st g →
        s.takeTrap c fid l restart cause addr tok = .ok (s'.trapContext f.ctx 2 t.trapaddr) ()) ∧
      (∀ s', s.storeWords c f.ctx sp (Spec.frame t restart) = .ok s' () →
        ∃ f', s.takeTrap c fid l restart cause addr tok = .ok (s'.setFlight c fid f') () ∧
          (f'.thread l).sp = sp ∧ (f'.thread l).depth = t.depth + 1 ∧ (f'.thread l).trapcause = cause ∧ (f'.thread l).trapaddr = addr ∧
          (f'.thread l).poisontok = tok ∧ (f'.thread l).pc = (s'.ctx f.ctx).tvec.setWidth 57 ∧ (f'.thread l).hold = .none ∧
          (∀ m i, f'.holds (.v m i) = f.holds (.v m i) ∧ f'.holds (.p m i) = f.holds (.p m i) ∧ f'.holds (.s i) = f.holds (.s i) ∧
            f'.holds (.k i) = f.holds (.k i)) ∧ ∀ m, m ≠ l → f'.thread m = f.thread m))

/-- TRAP and BKPT complete in every thread that executes them: the run commits, and each thread, in lane order, enters its handler with code 12 or 11, the restart point behind the instruction
and sys.trapaddr at it (R158). -/
def Sys2Proof.Spec.TrapAndBreakpoint : Prop :=
  ∀ (s : State) (h : Here) (i : Instr) (v : View) (o : OpSpec) (code : Nat), h.r.isLast = true → Ready s h i v o →
    ((∃ a, i = .trap a) ∧ code = 12 ∨ (∃ a, i = .bkpt a) ∧ code = 11) →
    ∃ f', Completed h.r (guardMask v.grd h.r) false (Effect.only fun _ => .next) h.f f' ∧
      ∀ s', InOrder (fun t l t' => t.takeTrap h.c h.fid l h.r.after (BitVec.ofNat 32 (code + h.r.pos * 2 ^ 11)) (h.r.addr.setWidth 64) 0 = .ok t' ())
          (lanesOf (guardMask v.grd h.r)) (s.setFlight h.c h.fid f') s' →
        exec i s = .next s'.clearFailed

/-- A thread after the return through a frame of four words: the restart point, and the trap registers and the stack pointer as they were before the trap (R106, R156). -/
def Sys2Proof.Spec.returned (t : Thread) (w : Nat → Nat) : Thread :=
  { t with
    pc := BitVec.ofNat 57 (w 0), trapaddr := BitVec.ofNat 64 (w 1), trapcause := BitVec.ofNat 32 (w 2), poisontok := BitVec.ofNat 32 (w 2 / 2 ^ 32)
    sp := BitVec.ofNat 64 (w 3), depth := t.depth - 1, entering := none }

/-- RTT completes in threads of depth at least 1 with an aligned stack pointer and a readable frame whose restart point passes check_target: the trap registers and the stack
pointer come back from the frame, the depth falls by one and the thread goes on at the restart point (R156). -/
def Sys2Proof.Spec.ReturnFromTrap : Prop :=
  ∀ (s : State) (h : Here) (a : Args) (v : View) (o : OpSpec) (s' : State) (f : Flight) (w : Nat → Nat → Nat), Ready s h (.rtt a) v o →
    let g := lanesOf (guardMask v.grd h.r)
    (∀ l, l ∈ g → (h.r.thread l).depth ≠ 0 ∧ (h.r.thread l).sp.toNat % 16 = 0) →
    InOrder (fun t l t' => ∃ m1 m2 x,
      t.loadWords h.c h.f.ctx (h.r.thread l).sp 4 = .ok m1 [(w l 0, false), (w l 1, false), (w l 2, false), (w l 3, false)] ∧
      Spec.target m1 h (BitVec.ofNat 64 (w l 0)) false m2 ∧ m2.flight? h.c h.fid = some x ∧
      t' = m2.setFlight h.c h.fid (x.setThread l (Spec.returned (x.thread l) (w l)))) g s s' →
    s'.flight? h.c h.fid = some f →
    CompletesIn (.rtt a) s h v s' f (Spec.moved (fun l => BitVec.ofNat 64 (w l 3)) fun l => BitVec.ofNat 64 (w l 0))

/-- TRAP and BKPT, and the return from a trap. -/
def Obligations.TrapsByInstructionAndReturn : Prop := Spec.TrapAndBreakpoint ∧ Spec.ReturnFromTrap

/-- EXIT completes in every thread that executes it: the run commits, then those threads are no longer live. In a flight that keeps a live thread the other threads keep their registers,
their place and whether they live; a flight whose last live threads exit leaves its core (R157). -/
def Sys2Proof.Spec.ExitEndsThreads : Prop :=
  ∀ (s : State) (h : Here) (a : Args) (v : View) (o : OpSpec), h.r.isLast = true → Ready s h (.exit a) v o →
    let g := guardMask v.grd h.r
    ((∃ m, m < 32 ∧ g.getLsbD m = false ∧ (h.f.thread m).live = true) →
      ∃ t f', exec (.exit a) s = .next t ∧ t.flight? h.c h.fid = some f' ∧ (∀ l, g.getLsbD l = true → (f'.thread l).live = false) ∧
        ∀ k, g.getLsbD k = false → (f'.thread k).live = (h.f.thread k).live ∧ (h.r.exec.getLsbD k = false → (f'.thread k).pc = (h.f.thread k).pc ∧
          ∀ i, f'.holds (.v k i) = h.f.holds (.v k i) ∧ f'.holds (.p k i) = h.f.holds (.p k i))) ∧
    ((∀ m, m < 32 → (h.f.thread m).live = true → g.getLsbD m = true) → ∃ t, exec (.exit a) s = .next t ∧ t.flight? h.c h.fid = none)

/-- YIELD, NOP, SLEEP and EXIT. -/
def Obligations.YieldSleepAndExit : Prop := Spec.YieldAndSleep ∧ Spec.ExitEndsThreads

-- ---------------------------------------------------------------------------------------------
-- The checks before an effect, and poisoned operands

/-- The threads of `m` trap at the member, one after another in some order, each with the run's start as its restart point and the member's address in sys.trapaddr; sys.trapcause holds the code, the
operand and the member's place (R44, R105, R107). `f'` is the flight as the member leaves it before they trap. -/
def Sys2Proof.Spec.traps (s : State) (h : Here) (i : Instr) (m : W32) (code opnd : Nat) (tok : Nat → TokRef) (f' : Flight) : Prop :=
  ∃ (n : Nat) (ls : List Nat), ls.Perm (lanesOf m) ∧ ∀ t,
    InOrder (fun x l y => ∃ q, x.flight? h.c h.fid = some q ∧
        x.takeTrap h.c h.fid l h.r.start (BitVec.ofNat 32 (code + opnd * 2 ^ 8 + h.r.pos * 2 ^ 11)) (h.r.addr.setWidth 64) (q.tokRef (tok l)) = .ok y ())
      ls { s.setFlight h.c h.fid f' with free := n } t →
    exec i s = .next t.clearFailed

/-- A flight in which the threads of `m` are about to trap at a member: the run is over for them and nothing of it has committed in them; the others of exec go on with it (R44). -/
structure Sys2Proof.Spec.Dropped (r : Run) (m : W32) (f f' : Flight) : Prop where
  run : if m = r.exec ∨ r.isLast = true then f'.run = none else ∃ r', f'.run = some r' ∧ r'.pos = r.pos + 1 ∧ r'.exec = r.exec &&& ~~~m
  lanes : ∀ l, l < 32 → m.getLsbD l = true → (∀ i, f'.holds (.v l i) = f.holds (.v l i) ∧ f'.holds (.p l i) = f.holds (.p l i)) ∧ f'.holds (.sp l) = f.holds (.sp l) ∧
    (f'.thread l).depth = (f.thread l).depth ∧ (f'.thread l).trapcause = (f.thread l).trapcause ∧ (f'.thread l).trapaddr = (f.thread l).trapaddr
  all : m = r.exec → ∀ x, f'.holds x = f.holds x
  goOn : r.isLast = true → ∀ l, l < 32 → r.exec.getLsbD l = true → m.getLsbD l = false → (f'.thread l).pc = r.after ∧ (f'.thread l).hold = .none

/-- The instructions of steward and firmware privilege (R354, R384, R402, R415). -/
def Sys2Proof.Spec.systemInstr (i : Instr) : Prop :=
  ∃ a, i = .csrr a ∨ i = .csrw a ∨ i = .tlbinv a ∨ i = .lqpop a ∨ i = .lqdone a ∨ i = .ctxsave a ∨ i = .ctxsaveDrop a ∨ i = .ctxload a ∨ i = .ctxloadRes a ∨
    i = .tgpost a ∨ i = .tgdone a ∨ i = .pmflipH a ∨ i = .pmflipD a

/-- The other instructions that execute once for a bundle (R179, R449). -/
def Sys2Proof.Spec.onceInstr (i : Instr) : Prop := ∃ a, i = .cdisc a ∨ i = .cgload a ∨ i = .cgloadFree a ∨ i = .cgrun a ∨ i = .tship a ∨ i = .tsreg a

/-- The checks of R47 before an instruction's own effect, in their order. An illegal encoding, a latch read or a RUN hint in a wrong place, a racking-only instruction or one without the privilege it needs traps
every thread of exec with ILLEGAL, whatever the guards. With every guard false nothing happens but the advance. A guard that must be uniform and is not traps every thread with NONUNIFORM, a register above
the allotment those whose guard is true with ALLOTMENT. An unallocated opcode is ILLEGAL; an engine thread takes the terminal trap ILLEGAL for it, for a flight's instruction and for an illegal encoding, and
a fault writes its record and pauses the thread or, with a terminal cause, ends it (R31, R36, R47 to R49, R52, R97, R98, R294, R295, R354). -/
def Obligations.ChecksBeforeTheEffect : Prop :=
  (∀ (s : State) (h : Here) (i : Instr) (v : View) (o : OpSpec), s.here? = some h → i.view? = some (v, o) →
    let r := h.r
    let g := guardMask v.grd r
    let illegal : Prop := o.legal v = false ∨ o.engine = true ∨ latchOk v o r.pos = false ∨ (r.pos ≠ 0 ∧ v.hnt.run ≠ 0) ∨ (Spec.systemInstr i ∧ 20 < h.f.ctx)
    let alike : Prop := o.wide = true ∨ o.isScalar v = true ∨ Spec.systemInstr i ∨ Spec.onceInstr i
    (illegal → ∃ f', Spec.Dropped r r.exec h.f f' ∧ Spec.traps s h i r.exec 1 0 (fun _ => .none) f') ∧
    (¬illegal → r.exec ≠ 0 → g = 0 → Completes i s h v false (Effect.only fun _ => .next)) ∧
    (¬illegal → g ≠ 0 → alike → g ≠ r.exec → ∃ f', Spec.Dropped r r.exec h.f f' ∧ Spec.traps s h i r.exec 4 0 (fun _ => .none) f') ∧
    ∀ opnd, ¬illegal → g ≠ 0 → (alike → g = r.exec) → overAllot o v h.f.allot = some opnd →
      ∃ f', Spec.Dropped r g h.f f' ∧ Spec.traps s h i g 2 opnd (fun _ => .none) f') ∧
  (∀ (s : State) (h : Here) (w : W96), s.here? = some h →
    ∃ f', Spec.Dropped h.r h.r.exec h.f f' ∧ Spec.traps s h (.unallocatedOpcode w) h.r.exec 1 0 (fun _ => .none) f') ∧
  (∀ (s : State) (c e : Nat) (g : Eng) (i : Instr) (v : View) (o : OpSpec), s.cur = ⟨c, e, true⟩ → (s.core c).engs.get? e = some g →
    (∀ w, exec (.unallocatedOpcode w) s = .next (s.engFault c e { cause := 1 })) ∧
    (i.view? = some (v, o) → (o.engine = false ∨ o.legal v = false) → exec i s = .next (s.engFault c e { cause := 1 }))) ∧
  ∀ (s s1 : State) (c e : Nat) (g : Eng) (x : EngFault) (seq : Option Nat), (s.core c).engs.get? e = some g →
    (g.slots.entries ≠ [] → s.engFault c e x = s) ∧
    (g.slots.entries = [] → s.lantern g.ctx { ty := 3, kind := x.kind, cause := x.cause, stage := x.stage, wrt := x.wrt, ex := x.ex, eng := e, malf := x.malf, core := c, flight := g.flight, va := x.va, gpa := x.gpa, xslot := x.xslot, piece := x.piece } = .ok s1 seq →
      let t := s.engFault c e x
      (x.cause = 3 ∨ x.cause = 4 → t = s1.setEng c e { s1.eng c e with run := .paused x.cause, lrec := seq, load := none }) ∧
      (x.cause ≠ 3 → x.cause ≠ 4 → (t.eng c e).run = .ended true x.cause ∧ (t.eng c e).slots = .empty ∧ t.mem = s1.mem))

/-- The instructions whose result depends on every operand they read; `long` marks those of pending latency. -/
def Sys2Proof.Spec.dataflow (v : View) (i : Instr) (long : Bool) : Prop :=
  (long = false ∧ ((∃ a, i = .add a ∨ i = .sub a ∨ i = .mul a ∨ i = .mulhi a ∨ i = .mad a ∨ i = .neg a ∨ i = .abs a ∨ i = .min a ∨ i = .max a ∨ i = .and a ∨ i = .or a ∨ i = .xor a ∨ i = .not a ∨
      i = .andn a ∨ i = .shl a ∨ i = .shr a ∨ i = .sar a ∨ i = .rol a ∨ i = .bfx a ∨ i = .bfi a ∨ i = .popc a ∨ i = .clz a ∨ i = .brev a ∨ i = .cmp a ∨ i = .lea a ∨ i = .icvt a ∨ i = .fadd a ∨
      i = .fsub a ∨ i = .fmul a ∨ i = .ffma a ∨ i = .fmin a ∨ i = .fmax a ∨ i = .fcmp a ∨ i = .fclass a ∨ i = .fcvt a ∨ i = .f2i a ∨ i = .i2f a ∨ i = .frnd a ∨ i = .fscl a ∨ i = .hvadd a ∨ i = .hvmul a ∨
      i = .hvfma a ∨ i = .hvmin a ∨ i = .hvmax a ∨ i = .dp8 a ∨ i = .dp4 a ∨ i = .fdp8 a ∨ i = .fdp4 a ∨ i = .pack a ∨ i = .unpk a ∨ i = .xscl a) ∨
    ∃ a, i = .addI a ∨ i = .subI a ∨ i = .mulI a ∨ i = .minI a ∨ i = .maxI a ∨ i = .andI a ∨ i = .orI a ∨ i = .xorI a ∨ i = .andnI a ∨ i = .shlI a ∨ i = .shrI a ∨ i = .sarI a ∨ i = .rolI a ∨ i = .cmpI a ∨
      i = .leaI a ∨ i = .faddI a ∨ i = .fsubI a ∨ i = .fmulI a ∨ i = .fminI a ∨ i = .fmaxI a ∨ i = .fcmpI a)) ∨
  (long = true ∧ ((∃ a, i = .frcp a ∨ i = .frsq a ∨ i = .fsqrt a ∨ i = .fex2 a ∨ i = .flg2 a ∨ i = .fsin a ∨ i = .fcos a) ∨
    ((∃ a, i = .div a ∨ i = .rem a) ∧ v.opt.getLsbD 0 = false)))

/-- The token of the first poisoned source of a lane, in the order SA, SB, SC (R55). -/
def Sys2Proof.Spec.firstToken (s : State) (h : Here) (v : View) (o : OpSpec) (l : Nat) : Option Nat :=
  let a := operandA s h v o l
  let b := operandB s h v o none l
  let c := operandC s h v o l
  if o.sa.classes ≠ [] ∧ a.psn = true then some a.tok
  else if o.sb.classes ≠ [] ∧ v.isI = false ∧ b.psn = true then some b.tok
  else if o.sc.classes ≠ [] ∧ c.psn = true then some c.tok
  else none

/-- poison(k) of R53: the bits of a poisoned register. -/
def Sys2Proof.Spec.poison (k : Nat) : W32 := BitVec.ofNat 32 (0x7FFFFFF0 + k % 16)

/-- A lane with a poisoned operand writes the poison of the first one to its v register, or pair; a lane without writes a value. MOV carries the poison of each half, and SEL that of the source it takes. A
poisoned result for a predicate traps those lanes with POISON, OPND 4 and the token (R53, R55, R99, R127, R128). -/
def Sys2Proof.Spec.PoisonPropagates : Prop :=
  ∀ (s : State) (h : Here) (i : Instr) (v : View) (o : OpSpec) (long : Bool), Ready s h i v o →
    let wide := o.dst.width == .w64
    let d := v.dst.idx.toNat
    let out (lo hi : W32) (plo phi : Bool) : List SWrite :=
      if v.dst.n then [] else if wide then [.v d lo plo, .v (d + 1) hi phi] else [.v d lo plo]
    let spread (e : Effect) (l : Nat) (tok : Option Nat) : Prop :=
      (∀ k, tok = some k → e.ws l = out (Spec.poison k) (Spec.poison k) true true ∧ (e.lat l).psn = true ∧ (e.lat l).tok = k % 16) ∧
      (tok = none → ∀ w, w ∈ e.ws l → ∃ i x, w = .v i x false)
    (v.dst.cls = .v → Spec.dataflow v i long → ∃ e, Completes i s h v long e ∧ e.once = [] ∧ (∀ l, e.fin l = .next) ∧
      ∀ l, l < 32 → (guardMask v.grd h.r).getLsbD l = true → spread e l (Spec.firstToken s h v o l)) ∧
    (v.dst.cls = .v → (∃ a, i = .sel a) → ∃ e, Completes i s h v false e ∧ e.once = [] ∧ (∀ l, e.fin l = .next) ∧
      ∀ l, l < 32 → (guardMask v.grd h.r).getLsbD l = true →
        let x := if (operandC s h v o l).bits ≠ 0 then operandA s h v o l else operandB s h v o none l
        spread e l (if x.psn then some x.tok else none)) ∧
    (v.dst.cls = .v → (∃ a, i = .mov a) → ∃ e, Completes i s h v false e ∧ e.once = [] ∧ (∀ l, e.fin l = .next) ∧
      ∀ l, l < 32 → (guardMask v.grd h.r).getLsbD l = true →
        let x := operandA s h v o l
        e.ws l = out (x.bits.setWidth 32) (x.bits.extractLsb' 32 32) x.plo x.phi) ∧
    (v.dst.cls = .pred → v.dst.n = false → Spec.dataflow v i long → ∀ m : W32,
      (∀ l, l < 32 → (m.getLsbD l = true ↔ (guardMask v.grd h.r).getLsbD l = true ∧ (Spec.firstToken s h v o l).isSome = true)) →
      m ≠ 0 → ∃ f', Spec.Dropped h.r m h.f f' ∧ Spec.traps s h i m 3 4 (fun l => .tok ((Spec.firstToken s h v o l).getD 0)) f')

/-- An operand or a place that an instruction refuses in every thread, with the trap's code and operand: flight-wide instructions without all threads (R200), a press that another flight owns (R252), a
context out of reach (R354), addresses that are not aligned or not canonical (R179, R266, R403, R415). -/
def Sys2Proof.Spec.refusesOperand (s : State) (h : Here) (v : View) (i : Instr) (code opnd : Nat) : Prop :=
  let g := guardMask v.grd h.r
  let whole : Prop := g = BitVec.allOnes 32 ∧ h.f.liveMask = BitVec.allOnes 32
  let uniform (wide : Bool) : W64 := (s.readSrc h.c h.f h.r ((lanesOf g).headD 0) v.sa wide).bits
  let a : W64 := uniform true
  let c := (uniform false).toNat
  let reaches : Prop := c ≤ 4095 ∧ (s.ctx c).st ≠ .free ∧ (h.f.ctx = 0 ∨ h.f.ctx ≤ 20 ∧ ∃ p, s.partOf c = some p ∧ s.partOf h.f.ctx = some p)
  (code = 5 ∧ opnd = 0 ∧ g ≠ h.f.liveMask ∧ ∃ x, i = .alloc x ∨ i = .free x) ∨
  (code = 2 ∧ opnd = 0 ∧ g = h.f.liveMask ∧ h.f.freed = true ∧ ∃ x, i = .alloc x) ∨
  (code = 5 ∧ opnd = 0 ∧ ¬whole ∧ ∃ x, i = .rfork x ∨ i = .mxacq x ∨ i = .mxrel x ∨ i = .mxwait x ∨ i = .mma x ∨ i = .mmas x ∨ i = .mxzero x ∨ i = .mxldz x ∨ i = .mxstz x ∨ i = .mxstzReg x) ∨
  (code = 7 ∧ opnd = 0 ∧ whole ∧ (s.core h.c).press.owner ≠ some h.fid ∧
    ∃ x, i = .mxrel x ∨ i = .mxwait x ∨ i = .mma x ∨ i = .mmas x ∨ i = .mxzero x ∨ i = .mxldz x ∨ i = .mxstz x ∨ i = .mxstzReg x) ∨
  (code = 6 ∧ opnd = 1 ∧ whole ∧ a.toNat % 4 ≠ 0 ∧ ∃ x, i = .rfork x) ∨
  (code = 7 ∧ opnd = 1 ∧ whole ∧ a.toNat % 4 = 0 ∧ canonical a = false ∧ ∃ x, i = .rfork x) ∨
  (code = 7 ∧ opnd = 1 ∧ ¬reaches ∧ ((∃ x, i = .tlbinv x ∨ i = .lqpop x ∨ i = .lqdone x) ∨ h.r.waiting = false ∧ ∃ x, i = .pmflipH x ∨ i = .pmflipD x)) ∨
  (code = 6 ∧ opnd = 1 ∧ a.toNat % 64 ≠ 0 ∧ ∃ x, i = .tgpost x ∨ i = .cdisc x)

/-- A refused operand or place traps every thread of exec whose guard is true, and nothing else happens. DIV and REM under .CHK trap with DIVIDE, OPND 2, where the divisor is zero and no operand poisoned
(R107, R121, R179, R200, R216, R252, R266, R354, R403). -/
def Sys2Proof.Spec.OperandTraps : Prop :=
  ∀ (s : State) (h : Here) (i : Instr) (v : View) (o : OpSpec), Ready s h i v o →
    (∀ code opnd, Spec.refusesOperand s h v i code opnd → (Spec.systemInstr i → guardMask v.grd h.r = h.r.exec ∧ h.f.ctx ≤ 20) → (Spec.onceInstr i → guardMask v.grd h.r = h.r.exec) →
      ∃ f', Spec.Dropped h.r (guardMask v.grd h.r) h.f f' ∧ Spec.traps s h i (guardMask v.grd h.r) code opnd (fun _ => .none) f') ∧
    ((∃ a, i = .div a ∨ i = .rem a) → v.opt.getLsbD 0 = true → ∀ m : W32,
      (∀ l, l < 32 → (m.getLsbD l = true ↔ (guardMask v.grd h.r).getLsbD l = true ∧ (operandA s h v o l).psn = false ∧ (operandB s h v o none l).psn = false ∧
        Spec.int v.ty (operandB s h v o none l).bits = 0)) →
      m ≠ 0 → o.isScalar v = false → ∃ f', Spec.Dropped h.r m h.f f' ∧ Spec.traps s h i m 10 2 (fun _ => .none) f')

/-- Poisoned operands, and operands that an instruction refuses. -/
def Obligations.PoisonAndOperandTraps : Prop := Spec.PoisonPropagates ∧ Spec.OperandTraps

-- ---------------------------------------------------------------------------------------------
-- Group 101: votes, shuffles, matches, reductions and masks

/-- The effect of a flight-wide result: one write for the bundle where the destination is an s register or a k mask, else one in each thread of exec (R201). -/
def Sys2Proof.Spec.wideEffect (h : Here) (v : View) (wide : Bool) (y : Nat → W64) : Effect :=
  resultEffect (v.dst.cls == .s || v.dst.cls == .k) (guardMask v.grd h.r) v.dst wide y

/-- The mask of the lanes that satisfy a condition. -/
def Sys2Proof.Spec.lanes (p : Nat → Bool) : W64 := (List.range 32).foldl (fun m l => if p l then m ||| (1#64 <<< l) else m) 0

/-- A bit of the answer of a condition. -/
def Sys2Proof.Spec.bit (b : Bool) : W64 := if b then 1 else 0

/-- The lane that SHFL reads in segments of w lanes: l is the lane that asks, d its distance; a lane that is not valid, or not of exec, gives way to its own (R204). -/
def Sys2Proof.Spec.shuffleFrom (mode w l d : Nat) (exec : W32) : Nat :=
  let base := l - l % w
  let t : Option Nat :=
    if mode = 0 then some (base + d % w)
    else if mode = 1 then (if d ≤ l - base then some (l - d) else none)
    else if mode = 2 then (if l + d < base + w then some (l + d) else none)
    else some (base + (Nat.xor (l - base) d) % w)
  match t with
  | some k => if exec.getLsbD k then k else l
  | none => l

/-- VOTE, SHFL and MATCH complete with the results of R203 to R205 over the lanes of exec. -/
def Sys2Proof.Spec.VoteShuffleMatchResults : Prop :=
  ∀ (s : State) (h : Here) (v : View) (o : OpSpec),
    let g := guardMask v.grd h.r
    (∀ a, Ready s h (.vote a) v o →
      let b (l : Nat) : Bool := (operandA s h v o l).bits != 0
      let all := (List.range 32).all fun l => !g.getLsbD l || b l
      let some := (List.range 32).any fun l => g.getLsbD l && b l
      Completes (.vote a) s h v false (Spec.wideEffect h v false fun _ =>
        if v.opt.toNat = 0 then Spec.bit some else if v.opt.toNat = 1 then Spec.bit all else if v.opt.toNat = 2 then Spec.bit (all || !some)
        else Spec.lanes fun l => g.getLsbD l && b l)) ∧
    (∀ a, Ready s h (.shfl a) v o → Clean s h v o →
      Completes (.shfl a) s h v false (Spec.wideEffect h v (v.ty == .b64) fun l =>
        (operandA s h v o (Spec.shuffleFrom v.opt.toNat v.sc.idx.toNat l ((operandB s h v o none l).bits.toNat % 2 ^ 32) g)).bits)) ∧
    ∀ a, Ready s h (.matchV a) v o → Clean s h v o →
      let same (l u : Nat) : Bool := g.getLsbD u && (operandA s h v o u).bits == (operandA s h v o l).bits
      Completes (.matchV a) s h v false (Spec.wideEffect h v false fun l =>
        if v.opt.toNat = 0 then Spec.lanes (same l)
        else Spec.bit ((List.range 32).all fun i => (List.range 32).all fun j => !g.getLsbD i || !g.getLsbD j || same i j))

/-- A node of the fixed tree of FREDUX.FADD over home lanes: absent, the one child that is present, or the rounded sum of both (R206). -/
def Sys2Proof.Spec.node (mode : Rnd) (ftz : Bool) (leaf : Nat → Option FVal) : Nat → Nat → Option FVal
  | 0, i => leaf i
  | j + 1, i =>
    match Spec.node mode ftz leaf j (2 * i), Spec.node mode ftz leaf j (2 * i + 1) with
    | none, y => y
    | some x, none => some x
    | some x, some y => some (valueOf fmtF32 (roundMode fmtF32 (x.add y mode) mode ftz false) false)

/-- The combination of FREDUX over the values of the lanes of exec, lowest lane first: x is the first, xs the others (R206). -/
def Sys2Proof.Spec.reduce (op : Nat) (ty : Ty) (x : W64) (xs : List W64) : W64 :=
  let fold (f : Int → Int → Int) : W64 := Spec.place ty (xs.foldl (fun a b => f a (Spec.int ty b)) (Spec.int ty x))
  let flt (big : Bool) : W64 :=
    BitVec.ofNat 64 (xs.foldl (fun a b => Spec.minmax big fmtF32 (valueOf fmtF32 a false) (valueOf fmtF32 (b.toNat % 2 ^ 32) false))
      (Spec.minmax big fmtF32 (valueOf fmtF32 (x.toNat % 2 ^ 32) false) (valueOf fmtF32 (x.toNat % 2 ^ 32) false)))
  let bits (y : W64) : W64 := if ty.wide then y else (y.setWidth 32).setWidth 64
  if op = 0 then fold (· + ·)
  else if op = 1 then (if ty = .f32 then flt false else fold Min.min)
  else if op = 2 then (if ty = .f32 then flt true else fold Max.max)
  else if op = 3 then bits (xs.foldl (· &&& ·) x)
  else if op = 4 then bits (xs.foldl (· ||| ·) x)
  else bits (xs.foldl (· ^^^ ·) x)

/-- FREDUX completes, with pending latency for a v destination: the combination of the values of exec, and for .FADD the root of the fixed tree (R206). -/
def Obligations.ReductionResults : Prop :=
  ∀ (s : State) (h : Here) (a : Args) (v : View) (o : OpSpec), Ready s h (.fredux a) v o → Clean s h v o →
    let g := guardMask v.grd h.r
    let x (l : Nat) : W64 := (operandA s h v o l).bits
    (v.opt.toNat < 6 → ∀ l ls, lanesOf g = l :: ls →
      Completes (.fredux a) s h v (v.dst.cls == .v) (Spec.wideEffect h v v.ty.wide fun _ => Spec.reduce v.opt.toNat v.ty (x l) (ls.map x))) ∧
    (v.opt.toNat = 6 → ∀ y,
      Spec.node v.rnd v.flg (fun l => if g.getLsbD l then some (valueOf fmtF32 ((x l).toNat % 2 ^ 32) v.flg) else none) 5 0 = some y →
      Completes (.fredux a) s h v (v.dst.cls == .v) (Spec.wideEffect h v false fun _ => BitVec.ofNat 64 (roundRne fmtF32 y)))

/-- The number of one bits of a mask below bit n. -/
def Sys2Proof.Spec.ones (m : W32) (n : Nat) : Nat := ((List.range n).filter fun i => m.getLsbD i).length

/-- KMOV, KMOV_I, KLOP, KPOPC and KFIND complete with the results of R207 to R209. -/
def Sys2Proof.Spec.MaskResults : Prop :=
  ∀ (s : State) (h : Here) (v : View) (o : OpSpec),
    let m (l : Nat) : W32 := (operandA s h v o l).bits.setWidth 32
    (∀ a, Ready s h (.kmov a) v o → Completes (.kmov a) s h v false (Spec.wideEffect h v false fun l =>
      if v.dst.cls = .pred then Spec.bit ((m l).getLsbD l) else (m l).setWidth 64)) ∧
    (∀ a, Ready s h (.kmovI a) v o → Completes (.kmovI a) s h v false (Spec.wideEffect h v false fun _ => a.imm.setWidth 64)) ∧
    (∀ a, Ready s h (.klop a) v o → Completes (.klop a) s h v false (Spec.wideEffect h v false fun l =>
      Spec.lanes fun i => v.opt.getLsbD (4 * ((m l).getLsbD i).toNat + 2 * ((operandB s h v o none l).bits.getLsbD i).toNat +
        ((operandC s h v o l).bits.getLsbD i).toNat))) ∧
    (∀ a, Ready s h (.kpopc a) v o → Completes (.kpopc a) s h v false (Spec.wideEffect h v false fun l =>
      BitVec.ofNat 64 (Spec.ones (m l) (if v.opt.toNat = 0 then 32 else if v.opt.toNat = 1 then l else l + 1)))) ∧
    ∀ a, Ready s h (.kfind a) v o → Clean s h v o → Completes (.kfind a) s h v false (Spec.wideEffect h v false fun l =>
      let found (p : Nat → Bool) : W64 := BitVec.ofNat 64 (((List.range 32).find? fun i => (m l).getLsbD i && p i).getD 32)
      if v.opt.toNat = 0 then found fun i => Spec.ones (m l) i == 0
      else if v.opt.toNat = 1 then found fun i => Spec.ones (m l) (i + 1) == Spec.ones (m l) 32
      else found fun i => Spec.ones (m l) i == (operandB s h v o none l).bits.toNat % 2 ^ 32)

/-- Votes, shuffles, matches and masks. -/
def Obligations.VoteShuffleMatchAndMasks : Prop := Spec.VoteShuffleMatchResults ∧ Spec.MaskResults

/-- RCV completes: the threads of exec arrive at the id and are held behind it, each with its mask and its own lane cleared; then the decision of release: a held thread goes on when every live
thread that its mask names has arrived, and an id at which the release leaves no thread is cleared (R210). -/
def Obligations.ReconvergenceBarrier : Prop :=
  (∀ (s : State) (h : Here) (a : Args) (v : View) (o : OpSpec), Ready s h (.rcv a) v o →
    let id := v.sbSrc.idx.toNat
    let f0 : Flight := { h.f with arrive := h.f.arrive.set id (h.f.arrive.getD id 0 ||| guardMask v.grd h.r) }
    ∃ f1, exec (.rcv a) s = .next ((s.setFlight h.c h.fid f1).clearFailed.setFlight h.c h.fid f1.rcvCheck) ∧
      Completed h.r (guardMask v.grd h.r) false
        (Effect.only fun l => .held (.rcv id ((operandA s h v o l).bits.setWidth 32 &&& ~~~laneBit l))) f0 f1) ∧
  ∀ (f : Flight) (id l : Nat) (m : W32), (f.thread l).hold = .rcv id m →
    ((f.rcvCheck.thread l).hold = .none ↔
      ∀ u, u < 32 → m.getLsbD u = true → (f.thread u).live = true → (f.arrive.getD id 0).getLsbD u = true) ∧
    ((f.rcvCheck.thread l).hold = .none ∨ (f.rcvCheck.thread l).hold = .rcv id m) ∧
    ((∀ u n, (f.rcvCheck.thread u).hold ≠ .rcv id n) → f.rcvCheck.arrive.getD id 0 = 0) ∧
    ((∃ u n, (f.rcvCheck.thread u).hold = .rcv id n) → f.rcvCheck.arrive.getD id 0 = f.arrive.getD id 0)

/-- ALLOC completes in a flight all of whose live threads are in exec and that has not executed FREE. In a block that holds its grant it raises the allotment to the full count, from the block's
reservation, and the registers from the old allotment up are zero; at the full count it has no effect. The first ALLOC of a block takes the grant when the block heads the queue and
its increment fits, for every flight of the block that waits in its own, and waits where it does not (R216, R217). -/
def Sys2Proof.Spec.AllocCompletes : Prop :=
  ∀ (s : State) (h : Here) (a : Args) (v : View) (o : OpSpec) (home : Nat) (b : Block),
    Ready s h (.alloc a) v o → guardMask v.grd h.r = h.f.liveMask → h.f.freed = false → s.blockOf h.f = some (home, b) →
    let full := kRegs (s.kdesc h.f.launch)
    let nothing := Effect.only fun _ => .next
    let heads := (s.core home).grantQ.head? = some (home, h.f.block) ∧ s.grantFits home b = true
    (b.granted = true → h.f.allot = full → CompletesIn (.alloc a) s h v s h.f nothing) ∧
    (b.granted = true → h.f.allot ≠ full → ∃ f1,
      CompletesIn (.alloc a) s h v (s.setBlock home h.f.block { b with reserve := b.reserve.set h.c (b.reserve.getD h.c 0 - (full - h.f.allot)) }) f1 nothing ∧
      f1.allot = full ∧ f1.freed = false ∧ ∀ l i, (f1.thread l).vreg i = if i < h.f.allot then (h.f.thread l).vreg i else ⟨0, false, false⟩) ∧
    (b.granted = false → heads → ∀ s1, s1 = (s.grantBlock home h.f.block).raiseAllot h.c h.fid → ∀ f1, s1.flight? h.c h.fid = some f1 →
      CompletesIn (.alloc a) s h v s1 f1 nothing) ∧
    (b.granted = false → ¬heads → h.r.isLast = true → guardMask v.grd h.r = h.r.exec → WaitsIn (.alloc a) s h s h.f fun _ => .alloc)

/-- Taking a block's grant: the block holds its scratchpad bytes and, on each of its cores, the units of its flights beyond 16 registers each; it leaves the grant queue. Raising a flight's allotment
then moves the units from the reservation to the flight. A grant that the head of the queue takes, at ALLOC_GRANT or at an ALLOC of another flight of the block, does both for every flight of
the block that waits in ALLOC, and the waiting threads go on (R214, R216, R217). -/
def Sys2Proof.Spec.GrantTaken : Prop :=
  (∀ (s : State) (home key : Nat) (b : Block), s.block? home key = some b → ∃ b',
    (s.takeGrant home key).block? home key = some b' ∧ b'.granted = true ∧ b'.spadOpen = b.spadOpen ∧ b'.spadHeld = kSpad (s.kdesc b.launch) ∧
    (∀ c, c ∈ b.cores → b'.reserve.getD c 0 = (b.flights.filter fun f => f.1 == c).length * (kRegs (s.kdesc b.launch) - 16)) ∧
    (home, key) ∉ ((s.takeGrant home key).core home).grantQ) ∧
  (∀ (s : State) (c fid home : Nat) (f : Flight) (b : Block), s.flight? c fid = some f → s.blockOf f = some (home, b) →
    ∃ f', (s.raiseAllot c fid).flight? c fid = some f' ∧ f'.allot = kRegs (s.kdesc f.launch) ∧
      ∀ l i, (f'.thread l).vreg i = if i < f.allot then (f.thread l).vreg i else ⟨0, false, false⟩) ∧
  ∀ (s : State) (c home key d fid l : Nat) (b : Block) (f : Flight) (p : Pass), s.block? home key = some b → (d, fid) ∈ b.flights →
    s.flight? d fid = some f → (f.thread l).hold = .alloc p →
    (∃ f', (s.grantBlock home key).flight? d fid = some f' ∧ (f'.thread l).hold = .none ∧ (f'.thread l).pc = p.next) ∧
    ((s.core c).grantQ.head? = some (home, key) → s.grantFits home b = true → exec (.allocGrant c) s = .next (s.grantBlock home key))

/-- FREE completes as the last member of its run in a flight all of whose live threads are in exec and none of whose registers from v16 up is pending but for the run itself. The run commits,
then the allotment is 16, FREED is set and the registers above, those the run wrote too, are lost. Where every live flight of the block has FREED the scratchpad is given up, and goes back at
once if nothing uses it (R98, R218). -/
def Sys2Proof.Spec.FreeCompletes : Prop :=
  ∀ (s : State) (h : Here) (a : Args) (v : View) (o : OpSpec) (home : Nat) (b : Block),
    Ready s h (.free a) v o → guardMask v.grd h.r = h.f.liveMask → h.r.isLast = true → s.blockOf h.f = some (home, b) →
    (∀ l i, 16 ≤ i → (h.f.thread l).live = true → ((h.f.thread l).vreg i).pend = true → ∃ x psn, (l, SWrite.v i x psn) ∈ h.r.pend) →
    let f1 : Flight := { h.f with freed := true }
    let s1 := s.setFlight h.c h.fid f1
    ∃ f2 s2, exec (.free a) s = .next (s2.setFlight h.c h.fid f2.lower).clearFailed ∧
      Completed h.r (guardMask v.grd h.r) false (Effect.only fun _ => .next) f1 f2 ∧
      ((∃ e, e ∈ s1.flightsOf b ∧ e.2.2.freed = false) → s2 = s1) ∧
      ((∀ e, e ∈ s1.flightsOf b → e.2.2.freed = true) → s2 = (s1.setBlock home h.f.block { b with spadOpen := false }).releaseSpad home h.f.block) ∧
      f2.lower.allot = 16 ∧ f2.lower.freed = true ∧ f2.lower.s = f2.s ∧ f2.lower.k = f2.k ∧
      ∀ l, (f2.lower.thread l).pc = (f2.thread l).pc ∧ (f2.lower.thread l).preds = (f2.thread l).preds ∧
        ∀ i, (f2.lower.thread l).vreg i = if i < 16 then (f2.thread l).vreg i else ⟨0, false, false⟩

/-- ALLOC, the grant it waits for, and FREE. -/
def Obligations.AllotmentAndScratchpad : Prop := Spec.AllocCompletes ∧ Spec.GrantTaken ∧ Spec.FreeCompletes

-- ---------------------------------------------------------------------------------------------
-- Barriers

/-- The barrier check of a block: while a live thread of the block has not arrived nothing changes; when all have, every thread held at the id is ready and the arrival set is empty; no register and
no pc of a flight of the block changes (R227). -/
def Sys2Proof.Spec.barrierCheck (s : State) (home key id : Nat) (b : Block) (t : State) : Prop :=
  let all := ∀ c fid f l, (c, fid) ∈ b.flights → s.flight? c fid = some f → l < 32 → (f.thread l).live = true → f.idx * 32 + l ∈ b.bars.getD id []
  (¬all → t = s) ∧
  (all → b.bars.getD id [] ≠ [] → t.block? home key = some { b with bars := b.bars.erase id } ∧
    ∀ c fid f, (c, fid) ∈ b.flights → s.flight? c fid = some f → ∃ f', t.flight? c fid = some f' ∧ (∀ x, f'.holds x = f.holds x) ∧
      ∀ l, (f'.thread l).pc = (f.thread l).pc ∧ (f'.thread l).hold = if (f.thread l).hold = .bar id then .none else (f.thread l).hold)

/-- The same of a cluster group, over the blocks that are its members (R306). -/
def Sys2Proof.Spec.clusterCheck (s : State) (key id : Nat) (g : Group) (t : State) : Prop :=
  let member (m : Nat × Nat) (b : Block) : Prop := m ∈ g.members ∧ s.block? m.1 m.2 = some b ∧ b.group = key
  let all := ∀ m b c fid f l, member m b → (c, fid) ∈ b.flights → s.flight? c fid = some f → l < 32 → (f.thread l).live = true →
    b.member * 2 ^ 16 + f.idx * 32 + l ∈ g.cbars.getD id []
  (¬all → t = s) ∧
  (all → g.cbars.getD id [] ≠ [] → t.groups.get? key = some { g with cbars := g.cbars.erase id } ∧
    ∀ m b c fid f, member m b → (c, fid) ∈ b.flights → s.flight? c fid = some f → ∃ f', t.flight? c fid = some f' ∧ (∀ x, f'.holds x = f.holds x) ∧
      ∀ l, (f'.thread l).pc = (f.thread l).pc ∧ (f'.thread l).hold = if (f.thread l).hold = .cbar id then .none else (f.thread l).hold)

/-- BAR and CBAR complete: the threads of exec join the arrival set of the id and are held behind the instruction, and the check follows (R227, R306). -/
def Obligations.BarrierArrivals : Prop :=
  (∀ (s : State) (h : Here) (a : Args) (v : View) (o : OpSpec) (home : Nat) (b : Block), Ready s h (.bar a) v o → s.blockOf h.f = some (home, b) →
    let id := v.sa.idx.toNat
    ∃ xs f1, (∀ t, t ∈ xs ↔ t ∈ b.bars.getD id [] ∨ ∃ l, l < 32 ∧ (guardMask v.grd h.r).getLsbD l = true ∧ t = h.f.idx * 32 + l) ∧
      Completed h.r (guardMask v.grd h.r) false (Effect.only fun _ => .held (.bar id)) h.f f1 ∧
      exec (.bar a) s = .next (((s.setBlock home h.f.block { b with bars := b.bars.set id xs }).setFlight h.c h.fid f1).clearFailed.barCheck home h.f.block id)) ∧
  (∀ (s : State) (h : Here) (a : Args) (v : View) (o : OpSpec) (home : Nat) (b : Block) (g : Group), Ready s h (.cbar a) v o →
    s.blockOf h.f = some (home, b) → s.groups.get? b.group = some g →
    let id := v.sa.idx.toNat
    ∃ xs f1, (∀ t, t ∈ xs ↔ t ∈ g.cbars.getD id [] ∨ ∃ l, l < 32 ∧ (guardMask v.grd h.r).getLsbD l = true ∧ t = b.member * 2 ^ 16 + h.f.idx * 32 + l) ∧
      Completed h.r (guardMask v.grd h.r) false (Effect.only fun _ => .held (.cbar id)) h.f f1 ∧
      exec (.cbar a) s = .next (({ s with groups := s.groups.set b.group { g with cbars := g.cbars.set id xs } }.setFlight h.c h.fid f1).clearFailed.cbarCheck
        b.group id)) ∧
  (∀ (s : State) (home key id : Nat) (b : Block), s.block? home key = some b → Spec.barrierCheck s home key id b (s.barCheck home key id)) ∧
  ∀ (s : State) (key id : Nat) (g : Group), s.groups.get? key = some g → Spec.clusterCheck s key id g (s.cbarCheck key id)

/-- A change of a counted barrier's count by d (cb_update, R231): the count moves by d; out of the range of 40 bits it saturates, SAT is set and the context halts with BARRIER_OVERFLOW, with
the address of the thread that made the step. A saturated count stays until CBARM.RST. Where an armed barrier reaches zero, by the service of a CBACQ too, every thread held by CBWAIT on it
goes on; while the count covers the head of the CBACQ queue, that thread goes on (assumption 22 reads the two points that prose and pseudocode tell apart). -/
def Sys2Proof.Spec.CountedBarrierUpdate : Prop :=
  ∀ (s : State) (c cb ctx : Nat) (d : Int) (info : W64),
    let b := s.cb c cb
    let n := b.count + d
    let inRange := -(2 ^ 39) ≤ n ∧ n < 2 ^ 39
    let now := if b.sat = true then b.count else n
    (b.sat = false → inRange → b.queue = [] → (b.armed = false ∨ n ≠ 0) → s.cbUpdate c cb d ctx info = s.setCb c cb { b with count := n }) ∧
    (b.sat = false → ¬inRange → b.queue = [] →
      s.cbUpdate c cb d ctx info = (s.setCb c cb { b with count := if 0 < n then 2 ^ 39 - 1 else -(2 ^ 39), sat := true }).trapContext ctx 3 info) ∧
    (b.sat = true → b.queue = [] → (b.armed = false ∨ b.count ≠ 0) → s.cbUpdate c cb d ctx info = s.setCb c cb b) ∧
    (b.armed = true → now = 0 → ∀ fid f l p, s.flight? c fid = some f → (f.thread l).hold = .cbWait cb p →
      ∃ f', (s.cbUpdate c cb d ctx info).flight? c fid = some f' ∧ (f'.thread l).hold = .none ∧ (f'.thread l).pc = p.next) ∧
    (inRange ∨ b.sat = true → ∀ fid l k rest f m x p, b.queue = (fid, l, k) :: rest → (k : Int) ≤ now → s.flight? c fid = some f → (f.thread l).hold = .cbAcq m x p →
      ∃ f', (s.cbUpdate c cb d ctx info).flight? c fid = some f' ∧ (f'.thread l).hold = .none ∧ (f'.thread l).pc = p.next) ∧
    ((b.armed = false ∨ b.count ≠ 0) → s.cbZero c cb = s) ∧
    (b.armed = true → b.count = 0 → ∀ fid f l p, s.flight? c fid = some f → (f.thread l).hold = .cbWait cb p →
      ∃ f', (s.cbZero c cb).flight? c fid = some f' ∧ (f'.thread l).hold = .none ∧ (f'.thread l).pc = p.next)

/-- The 64-bit state of a counted barrier (R230). -/
def Sys2Proof.Spec.barrierWord (b : CBar) : W64 :=
  (BitVec.ofInt 40 b.count).setWidth 64 ||| ((if b.armed then 1#64 else 0) <<< 40) ||| ((BitVec.ofNat 3 b.scope).setWidth 64 <<< 41) |||
    ((if b.sat then 1#64 else 0) <<< 44)

/-- The counted-barrier instructions complete in every thread that executes them, in rising lane order, when no operand is poisoned and the barrier number is below 64: CBARM arms or resets,
CBADD releases and subtracts, CBWAIT passes at an armed zero, CBACQ takes its units, CBREAD reads the state. CBWAIT and CBACQ that cannot pass wait (R235 to R241). -/
def Sys2Proof.Spec.CountedBarrierInstructions : Prop :=
  ∀ (s : State) (h : Here) (v : View) (o : OpSpec) (s' : State) (f : Flight), s'.flight? h.c h.fid = some f →
    let g := lanesOf (guardMask v.grd h.r)
    let nothing := Effect.only fun _ => .next
    let n (t : State) (l : Nat) : Nat := (operandA t h v o l).bits.toNat % 2 ^ 32
    let x (t : State) (l : Nat) : W32 := (operandB t h v o none l).bits.setWidth 32
    let ok (t : State) (l : Nat) : Prop := (operandA t h v o l).psn = false ∧ n t l < 64 ∧ (o.sb.classes ≠ [] → (operandB t h v o none l).psn = false)
    let cb (t : State) (l : Nat) : CBar := t.cb h.c (n t l)
    (∀ i, (∃ a, i = .cbarm a) ∨ (∃ a, i = .cbarmI a) → Ready s h i v o →
      InOrder (fun t l t' => ok t l ∧ t' =
        if v.opt.getLsbD 0 then t.setCb h.c (n t l) { cb t l with count := 0, armed := false, sat := false, scope := v.scp }
        else (t.setCb h.c (n t l) { cb t l with scope := v.scp, armed := true }).cbUpdate h.c (n t l) ((x t l).toNat : Int) h.f.ctx (h.f.thread l).trapaddr) g s s' →
      CompletesIn i s h v s' f nothing) ∧
    (∀ i, (∃ a, i = .cbadd a) ∨ (∃ a, i = .cbaddI a) → Ready s h i v o →
      InOrder (fun t l t' => ok t l ∧ ∃ m, t.release h.c h.f.ctx (cb t l).scope = .ok m () ∧
        t' = m.cbUpdate h.c (n t l) (-(x t l).toInt) h.f.ctx (h.f.thread l).trapaddr) g s s' →
      CompletesIn i s h v s' f nothing) ∧
    (∀ a, Ready s h (.cbwait a) v o →
      (InOrder (fun t l t' => ok t l ∧ (cb t l).armed = true ∧ (cb t l).count = 0 ∧ t' = t.acquireBy h.c h.f (cb t l).scope) g s s' →
        CompletesIn (.cbwait a) s h v s' f nothing) ∧
      (h.r.isLast = true → guardMask v.grd h.r = h.r.exec → (∀ l, l ∈ g → ok s l ∧ ((cb s l).armed = false ∨ (cb s l).count ≠ 0)) →
        WaitsIn (.cbwait a) s h s h.f fun l => .cbWait (n s l))) ∧
    (∀ a, Ready s h (.cbacq a) v o →
      (InOrder (fun t l t' => ok t l ∧ (x t l = 0 ∧ t' = t.acquireBy h.c h.f (cb t l).scope ∨
          x t l ≠ 0 ∧ (cb t l).queue = [] ∧ ((x t l).toNat : Int) ≤ (cb t l).count ∧
            t' = ((t.setCb h.c (n t l) { cb t l with count := if (cb t l).sat = true then (cb t l).count else (cb t l).count - (x t l).toNat }).cbZero
              h.c (n t l)).acquireBy h.c h.f (cb t l).scope)) g s s' →
        CompletesIn (.cbacq a) s h v s' f nothing) ∧
      (h.r.isLast = true → guardMask v.grd h.r = h.r.exec →
        InOrder (fun t l t' => ok t l ∧ x t l ≠ 0 ∧ ((cb t l).queue ≠ [] ∨ (cb t l).count < ((x t l).toNat : Int)) ∧
          t' = t.setCb h.c (n t l) { cb t l with queue := (cb t l).queue ++ [(h.fid, l, (x t l).toNat)] }) g s s' →
        WaitsIn (.cbacq a) s h s' h.f fun l => .cbAcq (n s l) (x s l).toNat)) ∧
    ∀ a, Ready s h (.cbread a) v o → (∀ l, l ∈ g → ok s l) → Completes (.cbread a) s h v true (resultOf h v o fun l => Spec.barrierWord (cb s l))

/-- Counted barriers. -/
def Obligations.CountedBarriers : Prop := Spec.CountedBarrierUpdate ∧ Spec.CountedBarrierInstructions

/-- Events at a core's barriers and slots. An arrival from outside is applied when the core holds the launch, is held while its context is saved out, and is refused otherwise, and the sender hears
which; a held one is settled once (R234). FLIGHT_OVERDUE and THREAD_AGED set their marks at 2048 cycles with a ready thread and at a count of 64, not before (R190, R195); SCRATCHPAD_RELEASE takes back what a block has given
up once no engine thread and no press of it uses it (R218). -/
def Obligations.CoreEventsComplete : Prop :=
  ∀ s : State,
    (∀ (c cb ctx launch : Nat) (amount : BitVec 32),
      let here := ∃ k la, (s.core c).launch = some k ∧ s.launch? k = some la ∧ la.ctx = ctx ∧ la.id % 2 ^ 32 = launch % 2 ^ 32
      ((s.ctx ctx).st = .saved →
        exec (.remoteArrival c cb ctx launch amount) s = .next { s with arrivals := s.arrivals ++ [⟨c, cb, ctx, launch, amount.toInt⟩] }) ∧
      ((s.ctx ctx).st ≠ .saved → here → exec (.remoteArrival c cb ctx launch amount) s =
        .next ((s.cbUpdate c (cb % 64) (-amount.toInt) ctx).emit (.arrivalAck c cb ctx launch true))) ∧
      ((s.ctx ctx).st ≠ .saved → ¬here → exec (.remoteArrival c cb ctx launch amount) s = .next (s.emit (.arrivalAck c cb ctx launch false))) ∧
      ∀ i x, s.arrivals[i]? = some ⟨c, cb, ctx, launch, x⟩ →
        ((s.ctx ctx).st = .saved → exec (.arrivalRetry i) s = .next s) ∧
        ((s.ctx ctx).st ≠ .saved → here → exec (.arrivalRetry i) s =
          .next ({ s.cbUpdate c (cb % 64) (-x) ctx with arrivals := s.arrivals.eraseIdx i }.emit (.arrivalAck c cb ctx launch true))) ∧
        ((s.ctx ctx).st ≠ .saved → ¬here → exec (.arrivalRetry i) s = .next ({ s with arrivals := s.arrivals.eraseIdx i }.emit (.arrivalAck c cb ctx launch false)))) ∧
    (∀ (c fid l : Nat) (f : Flight), s.flight? c fid = some f →
      (2048 ≤ f.waited → exec (.flightOverdue c fid) s = .next (s.setFlight c fid { f with overdue := true })) ∧
      (f.waited < 2048 → exec (.flightOverdue c fid) s = .next s) ∧
      ((f.thread l).live = true → 64 ≤ (f.thread l).agedCount →
        exec (.threadAged c fid l) s = .next (s.setFlight c fid (f.setThread l { f.thread l with aged := true }))) ∧
      ((f.thread l).agedCount < 64 → exec (.threadAged c fid l) s = .next s)) ∧
    ∀ (home key : Nat) (b : Block), s.block? home key = some b →
      let free := (b.ended = true ∨ b.spadOpen = false) ∧ s.blockEngines home key = false ∧ s.blockPress b = false
      (free → ∃ t, exec (.scratchpadRelease home key) s = .next t ∧ ∀ b', t.block? home key = some b' → b'.granted = false ∧ b'.spadOpen = false) ∧
      (¬free → exec (.scratchpadRelease home key) s = .next s)

-- ---------------------------------------------------------------------------------------------
-- Group 110: the press

/-- A flight whose 32 threads are all live and execute the member: what the press asks of a flight (R200). -/
def Sys2Proof.Spec.whole (h : Here) (v : View) : Prop := guardMask v.grd h.r = BitVec.allOnes 32 ∧ h.f.liveMask = BitVec.allOnes 32

/-- A press right after it has been granted to a flight: both banks F32 +0 without poison (R245). -/
def Sys2Proof.Spec.granted (p : Press) (fid : Nat) : Press :=
  { p with owner := some fid, z0 := ⟨.f32, .empty⟩, z1 := ⟨.f32, .empty⟩, pair := false, closing := false, acquiring := false
           asked := p.asked.filter fun w => w.1 != fid }

/-- MXACQ completes at once for the owner, and for a flight that finds the press without owner, claim and waiters: the banks are cleared and, for .PAIR on an even core, the odd press is slaved if it
is free and unclaimed, else claimed while the flight waits. A flight that finds the press taken waits at the tail of the queue while it holds fewer than 16; where it holds 16, or an older
flight asks for a place, the flight issues MXACQ again later, and is noted as asking. MXWAIT and MXREL complete with an empty queue and no landing outstanding; MXREL gives up the press, and both of a pair (R245 to R247, R259). -/
def Sys2Proof.Spec.PressOwnership : Prop :=
  ∀ (s : State) (h : Here) (v : View) (o : OpSpec), Spec.whole h v →
    let p := (s.core h.c).press
    let q := (s.core (h.c + 1)).press
    let nothing := Effect.only fun _ => .next
    let young := s.olderAsks h = true
    let open_ := ¬young ∧ p.owner = none ∧ p.slaved = false ∧ p.claim = false ∧ p.waiting = []
    (∀ a, Ready s h (.mxacq a) v o →
      (v.opt.toNat = 0 →
        (p.owner = some h.fid → CompletesIn (.mxacq a) s h v s h.f nothing) ∧
        (open_ → CompletesIn (.mxacq a) s h v (s.setPress h.c (Spec.granted p h.fid)) h.f nothing)) ∧
      (v.opt.toNat = 1 → h.c % 2 = 0 → s.corePresent (h.c + 1) = true → open_ →
        (q.owner = none → q.slaved = false → q.claim = false →
          CompletesIn (.mxacq a) s h v
            ((s.setPress h.c { Spec.granted p h.fid with pair := true }).setPress (h.c + 1) { q with slaved := true }) h.f nothing) ∧
        (q.owner.isSome = true ∨ q.slaved = true ∨ q.claim = true → h.r.isLast = true → guardMask v.grd h.r = h.r.exec →
          WaitsIn (.mxacq a) s h
            ((s.setPress h.c { Spec.granted p h.fid with acquiring := true }).setPress (h.c + 1) { q with claim := true }) h.f fun _ => .mxacq true)) ∧
      (v.opt.toNat = 0 → p.owner ≠ some h.fid → ¬young → ¬open_ → p.waiting.length < 16 → h.r.isLast = true → guardMask v.grd h.r = h.r.exec →
        WaitsIn (.mxacq a) s h (s.setPress h.c { p with waiting := p.waiting ++ [(h.fid, false)], asked := p.asked.filter fun w => w.1 != h.fid }) h.f
          fun _ => .mxacq false) ∧
      (v.opt.toNat = 0 → p.owner ≠ some h.fid → young ∨ ¬open_ ∧ 16 ≤ p.waiting.length → ∃ t f', exec (.mxacq a) s = .next t ∧
        t.flight? h.c h.fid = some f' ∧ f'.run = none ∧ (∀ x, f'.holds x = h.f.holds x) ∧ (∀ l, (f'.thread l).pc = (h.f.thread l).pc) ∧
        (t.core h.c).press = { p with asked := (p.asked.filter fun w => w.1 != h.fid) ++ [(h.fid, h.r.start)] })) ∧
    (p.owner = some h.fid → p.queue = [] → p.lands = [] →
      (∀ a, Ready s h (.mxwait a) v o → CompletesIn (.mxwait a) s h v s h.f nothing) ∧
      ∀ a, Ready s h (.mxrel a) v o → ∃ s', CompletesIn (.mxrel a) s h v s' h.f nothing ∧ (s'.core h.c).press.owner = none ∧
        (p.pair = true → (s'.core (h.c + 1)).press.slaved = false))

/-- A bank's type after the instructions that wait in the queue: the type of the last MXZERO of that bank, or what it is now (R252). -/
def Sys2Proof.Spec.bankType (p : Press) (z : Nat) : BankTy :=
  (p.queue.filterMap fun q => match q with
    | .zero b ty => if b = z then some ty else none
    | _ => none).getLast?.getD (if z = 0 then p.z0.ty else p.z1.ty)

/-- The rows of bands [first, first + count) of C elements of n bytes are legal, and lie in the grant (R252, R257). -/
def Sys2Proof.Spec.rowsOk (p : Press) (b : Block) (base pitch first count n : Nat) : Prop :=
  1 ≤ count ∧ first + count ≤ 12 ∧ base % 4 = 0 ∧ pitch % 4 = 0 ∧ (if p.pair then 384 else 192) * n ≤ pitch ∧ b.granted = true ∧
    base + (16 * count - 1) * pitch + (if p.pair then 384 else 192) * n ≤ b.spadHeld

/-- The press instructions that join the queue complete at once when the checks of R252 pass and the queue holds fewer than 8: MMA, MMAS, MXZERO, MXLDZ and both forms of MXSTZ. The operation waits at
the tail of the queue with the operands read now; the register form of MXSTZ sets the pending bits of its eight registers in every thread (R252 to R258). -/
def Sys2Proof.Spec.PressInstructionsIssue : Prop :=
  ∀ (s : State) (h : Here) (v : View) (o : OpSpec) (home : Nat) (b : Block), Spec.whole h v →
    (s.core h.c).press.owner = some h.fid → (s.core h.c).press.queue.length < 8 → s.blockOf h.f = some (home, b) →
    let p := (s.core h.c).press
    let x (y : Src) : Nat := (s.readSrc h.c h.f h.r 0 y false).bits.toNat % 2 ^ 32
    let A := x v.sa
    let B := x v.sbSrc
    let C := x v.sc
    let z := v.z.toNat
    let fa := v.opt.toNat % 16
    let fb := v.opt.toNat / 16
    let ty : BankTy := if v.ty = .i32 then .i32 else .f32
    let cols := if p.pair then 384 else 192
    let joins (i : Instr) (q : PressOp) : Prop :=
      CompletesIn i s h v (s.setPress h.c { p with queue := p.queue ++ [q] }) h.f (Effect.only fun _ => .next)
    (∀ i sp, ((∃ a, i = .mma a) ∧ sp = false ∨ (∃ a, i = .mmas a) ∧ sp = true) → Ready s h i v o →
      1 ≤ C → C ≤ 256 → A % 32 = 0 → B % 32 = 0 → b.granted = true →
      A + 12 * C * (64 * pressWidth fa + 96) ≤ b.spadHeld → B + cols / 16 * C * (64 * pressWidth fb + 96) ≤ b.spadHeld → Spec.bankType p z = ty →
      joins i (.mma sp z A B fa fb C)) ∧
    (∀ a, Ready s h (.mxzero a) v o → joins (.mxzero a) (.zero z ty)) ∧
    (∀ a, Ready s h (.mxldz a) v o → C < 256 → Spec.rowsOk p b A B (C % 16) (C / 16) 4 → Spec.bankType p z = ty →
      joins (.mxldz a) (.ldz z A B (C % 16) (C / 16))) ∧
    (∀ a, Ready s h (.mxstz a) v o → C < 256 →
      Spec.rowsOk p b A B (C % 16) (C / 16) (if v.opt.toNat % 8 = 0 then 4 else if v.opt.toNat % 8 = 1 then 2 else 1) → Spec.bankType p z = ty →
      joins (.mxstz a) (.stz z A B (C % 16) (C / 16) (v.opt.toNat % 8) (v.opt.getLsbD 3))) ∧
    ∀ a, Ready s h (.mxstzReg a) v o → A % 8 = 0 → A < cols → B % 32 = 0 → B ≤ 160 → Spec.bankType p z = ty → ∃ f1,
      CompletesIn (.mxstzReg a) s h v ((s.setPress h.c { p with queue := p.queue ++ [.stzReg z v.dst.idx.toNat A B v.dst.n] }).setFlight h.c h.fid f1) f1
        (Effect.only fun _ => .next) ∧
      ∀ l i, l < 32 → (f1.thread l).vreg i =
        { (h.f.thread l).vreg i with pend := (decide (v.dst.idx.toNat ≤ i) && decide (i < v.dst.idx.toNat + 8)) || ((h.f.thread l).vreg i).pend }

/-- The exact products of a cell for one chunk: x y 2^(scales), +0 where an element is zero or, in MMAS, has an NZ bit of 0 (R254). -/
def Sys2Proof.Spec.products (sparse : Bool) (a b : BRow) : List FVal :=
  (a.es.zip b.es).map fun e =>
    if (sparse && (!e.1.nz || !e.2.nz)) || e.1.x.isZero || e.2.x.isZero then .fin false 0 0
    else (e.1.x.mul e.2.x).scale ((a.scale : Int) + b.scale - 254)

/-- The exact integer sum of a cell for one chunk (R254). -/
def Sys2Proof.Spec.intSum (sparse : Bool) (a b : BRow) : Int :=
  ((a.es.zip b.es).map fun e => if sparse && (!e.1.nz || !e.2.nz) then 0 else e.1.n * e.2.n).sum

/-- A cell after n chunks of MMA or MMAS over rows of bricks in scratchpad: value and poison (R249, R254, R255). -/
def Sys2Proof.Spec.mmaCell (z : Bank) (k : Block) (sparse : Bool) (cols a b fa fb i j : Nat) : Nat → SpWord
  | 0 => (z.cells.get? (384 * i + j)).getD ⟨0, false⟩
  | c + 1 =>
    let old := Spec.mmaCell z k sparse cols a b fa fb i j c
    let A := k.brickRow fa (a + (12 * c + i / 16) * (64 * pressWidth fa + 96)) (i % 16)
    let B := k.brickRow fb (b + (cols / 16 * c + j / 16) * (64 * pressWidth fb + 96)) (j % 16)
    { val := match z.ty with
        | .f32 => BitVec.ofNat 32 (roundRne fmtF32 ((valueOf fmtF32 old.val.toNat false).add (chunkSum (Spec.products sparse A B)) .rne))
        | .i32 => BitVec.ofInt 32 (old.val.toInt + Spec.intSum sparse A B)
      psn := old.psn || A.psn || B.psn }

/-- The pattern that MXSTZ stores of a cell: its bits, or its value rounded to BF16, F8E4 or F8E5 to nearest even, saturated under .SAT (R257). -/
def Sys2Proof.Spec.outWord (fmt : Nat) (sat : Bool) (x : W32) : Nat :=
  let r (f : Fmt) : Nat := roundMode f (valueOf fmtF32 x.toNat false) .rne false sat
  if fmt = 0 then x.toNat else if fmt = 1 then r fmtBF16 else if fmt = 2 then r fmtF8E4 else r fmtF8E5

/-- PRESS_INSTR_PERFORM performs the head of the queue: MXZERO clears a bank and sets its type; MXLDZ loads the cells of its bands; MMA and MMAS add the chunk sums of n chunks, in order; MXSTZ stores
words of its bands, a word with a poisoned cell poisoned; its register form reads 32 rows of 8 cells, to land later. The bits of a poisoned cell are not stated (R253 to R258). -/
def Sys2Proof.Spec.PressInstructionsPerform : Prop :=
  ∀ (s : State) (c fid home key : Nat) (b : Block) (q : PressOp) (rest : List PressOp),
    let p := (s.core c).press
    p.owner = some fid → p.queue = q :: rest → s.pressBlock c = some (home, key, b) → p.closing = false →
    let cols := if p.pair then 384 else 192
    let bank (p : Press) (z : Nat) : Bank := if z = 0 then p.z0 else p.z1
    let cell (p : Press) (z i j : Nat) : SpWord := ((bank p z).cells.get? (384 * i + j)).getD ⟨0, false⟩
    let same (x y : SpWord) : Prop := x.psn = y.psn ∧ (y.psn = false → x.val = y.val)
    ∃ t, exec (.pressInstrPerform c) s = .next t ∧
      let p' := (t.core c).press
      p'.queue = rest ∧ p'.owner = some fid ∧
      match q with
      | .zero z ty => (bank p' z).ty = ty ∧ (∀ i j, cell p' z i j = ⟨0, false⟩) ∧ p'.lands = p.lands
      | .ldz z base pitch first count => (bank p' z).ty = (bank p z).ty ∧ ∀ i j, i < 192 → j < cols →
          if 16 * first ≤ i ∧ i < 16 * (first + count) then same (cell p' z i j) (b.word ((base + (i - 16 * first) * pitch + 4 * j) / 4))
          else cell p' z i j = cell p z i j
      | .mma sparse z A B fa fb n => (bank p' z).ty = (bank p z).ty ∧ ∀ i j, i < 192 → j < cols →
          same (cell p' z i j) (Spec.mmaCell (bank p z) b sparse cols A B fa fb i j n)
      | .stz z base pitch first count fmt sat =>
          let n := if fmt = 0 then 4 else if fmt = 1 then 2 else 1
          p'.z0 = p.z0 ∧ p'.z1 = p.z1 ∧
          (base % 4 = 0 → pitch % 4 = 0 → cols * n ≤ pitch → ∃ b', t.block? home key = some b' ∧ ∀ r w, r < 16 * count → w < cols * n / 4 →
            let cs := (List.range (4 / n)).map fun k => cell p z (16 * first + r) (w * (4 / n) + k)
            b'.word ((base + r * pitch) / 4 + w) =
              if cs.any (·.psn) then ⟨0x7FFFFFF0, true⟩
              else ⟨BitVec.ofNat 32 (cs.foldr (fun x acc => Spec.outWord fmt sat x.val + 2 ^ (8 * n) * acc) 0), false⟩)
      | .stzReg z dst col0 row0 sup => p'.z0 = p.z0 ∧ p'.z1 = p.z1 ∧ ∃ vals, p'.lands = p.lands ++ [⟨fid, dst, sup, vals⟩] ∧
          vals = (List.range 32).map fun l => (l, (List.range 8).map fun j =>
            if (cell p z (row0 + l) (col0 + j)).psn then (0x7FFFFFF0#32, true) else ((cell p z (row0 + l) (col0 + j)).val, false))

/-- Press instructions issue and are performed. -/
def Obligations.PressInstructions : Prop := Spec.PressInstructionsIssue ∧ Spec.PressInstructionsPerform

/-- The events that give out the press and write its registers. PRESS_GRANT gives a press without owner and claim to the head of its queue, with cleared banks; PAIR_CLAIM_GRANT slaves a free odd
press to the flight that claims it; the held threads go on (R245, R246). PRESS_REG_LANDING writes the eight registers of each live thread, unless ~ suppresses the write, and clears
their pending bits in every thread (R61, R157, R258). -/
def Sys2Proof.Spec.PressEventsComplete : Prop :=
  ∀ (s : State) (c : Nat),
    let p := (s.core c).press
    let goOn (t : State) (c fid : Nat) : Prop := ∀ f l b x, s.flight? c fid = some f → (f.thread l).hold = .mxacq b x →
      ∃ f', t.flight? c fid = some f' ∧ (f'.thread l).hold = .none ∧ (f'.thread l).pc = x.next
    (∀ fid rest, p.owner = none → p.slaved = false → p.claim = false → p.waiting = (fid, false) :: rest →
      ∃ t, exec (.pressGrant c) s = .next t ∧ (t.core c).press.owner = some fid ∧ (t.core c).press.z0 = ⟨.f32, .empty⟩ ∧
        (t.core c).press.z1 = ⟨.f32, .empty⟩ ∧ goOn t c fid) ∧
    (∀ fid, c % 2 = 1 → p.owner = none → p.slaved = false → p.claim = true → (s.core (c - 1)).press.owner = some fid →
      ∃ t, exec (.pairClaimGrant c) s = .next t ∧ (t.core c).press.slaved = true ∧ (t.core c).press.claim = false ∧ (t.core (c - 1)).press.pair = true ∧
        goOn t (c - 1) fid) ∧
    ∀ x rest f (ws : Nat → List (W32 × Bool)), p.lands = x :: rest → x.vals = ((List.range 32).map fun l => (l, ws l)) → (∀ l, (ws l).length = 8) →
      s.flight? c x.flight = some f →
      ∃ t f', exec (.pressRegLanding c) s = .next t ∧ t.flight? c x.flight = some f' ∧ (t.core c).press.lands = rest ∧
        ∀ l i, l < 32 → (f'.thread l).vreg i =
          if x.dst ≤ i ∧ i < x.dst + 8 then
            if (f.thread l).live = true ∧ x.sup = false then
              ⟨((ws l).getD (i - x.dst) (0, false)).1, ((ws l).getD (i - x.dst) (0, false)).2, false⟩
            else { (f.thread l).vreg i with pend := false }
          else (f.thread l).vreg i

/-- Who owns a press, and its events. -/
def Obligations.PressOwnershipAndEvents : Prop := Spec.PressOwnership ∧ Spec.PressEventsComplete

-- ---------------------------------------------------------------------------------------------
-- Group 100: memory

/-- The offset of an address: the displacement, or the index times its scale, signed under SX (R162). -/
def Sys2Proof.Spec.offset (s : State) (h : Here) (v : View) (o : OpSpec) (l : Nat) : Int :=
  match v.sb with
  | .imm x => x.toInt
  | .src b =>
    let x : W32 := (operandB s h v o none l).bits.setWidth 32
    if b.cls = .imm then b.idx.toInt else (if v.opt.getLsbD 7 then x.toInt else (x.toNat : Int)) * 2 ^ (v.opt.toNat / 16 % 8)

/-- The effective address of a global access, modulo 2^64, and of a scratchpad access, modulo 2^32 (R162). -/
def Sys2Proof.Spec.address (s : State) (h : Here) (v : View) (o : OpSpec) (l : Nat) : W64 :=
  (operandA s h v o l).bits + BitVec.ofInt 64 (Spec.offset s h v o l)
def Sys2Proof.Spec.spadAddress (s : State) (h : Here) (v : View) (o : OpSpec) (l : Nat) : Nat :=
  ((operandA s h v o l).bits.setWidth 32 + BitVec.ofInt 32 (Spec.offset s h v o l)).toNat

/-- No operand of a lane is poisoned (R163 step 1). -/
def Sys2Proof.Spec.clean (s : State) (h : Here) (v : View) (o : OpSpec) (l : Nat) : Prop :=
  (operandA s h v o l).psn = false ∧ (o.sb.classes ≠ [] → v.isI = false → (operandB s h v o none l).psn = false) ∧
    (o.sc.classes ≠ [] → if v.ty = .xa320 then Spec.slotClean h l v.sc else (operandC s h v o l).psn = false)

/-- The registers that a loaded value fills: extended to 32 bits, or 32 bits each; poison(0) in each where a byte was poisoned (R82, R101, R167). -/
def Sys2Proof.Spec.loaded (ty : Ty) (y : Nat) (psn : Bool) : LRes :=
  let words : List W32 :=
    if ty = .i8 then [(BitVec.ofNat 8 y).signExtend 32] else if ty = .i16 then [(BitVec.ofNat 16 y).signExtend 32]
    else (List.range ty.regs).map fun k => BitVec.ofNat 32 (y / 2 ^ (32 * k))
  .words (words.map fun w => if psn then (0x7FFFFFF0#32, true) else (w, false))

/-- A load has read and waits to land: `s1` is the state in which it has read. Its flight holds the results under the next number, with the pending bits of the destination set in each lane;
nothing else of the package changes but requests to other packages (R45, R167). -/
def Sys2Proof.Spec.waitsToLand (s1 : State) (h : Here) (v : View) (n : Nat) (acq : Option Nat) (res : List (Nat × LRes)) (s' : State) (f' : Flight) : Prop :=
  ∃ f reqs free remote, s1.flight? h.c h.fid = some f ∧ s' = { s1 with reqs := reqs, free := free }.setFlight h.c h.fid f' ∧
    f'.loads.get? f.nextId = some { lpc := h.r.addr, dst := v.dst.idx.toNat, n := n, sup := v.dst.n, acq := acq, res := res, issue := f.nextId, remote := remote } ∧
    ∀ l i, (f'.thread l).vreg i = { (f.thread l).vreg i with
      pend := (res.any (fun x => x.1 == l) && decide (v.dst.idx.toNat ≤ i) && decide (i < v.dst.idx.toNat + n)) || ((f.thread l).vreg i).pend }

/-- The effect of a member that writes nothing itself. -/
def Sys2Proof.Spec.nothing : Effect := Effect.only fun _ => .next

/-- The site of a load, a store or a remote store (R164, R315, R320): .th with the policy .cg is performed at the home. -/
def Sys2Proof.Spec.site (s : State) (h : Here) (v : View) : Site := if v.scp = 0 ∧ v.isI = false ∧ v.opt.toNat / 4 % 4 = 1 then .home else s.siteOf h.c h.f v.scp

/-- LD and LD_I complete: each thread reads the bytes of its type at its effective address, once the address translates for reading, and the value waits to land in the destination; an acquire
takes effect at landing (R162 to R167). -/
def Obligations.LoadsComplete : Prop :=
  ∀ (s : State) (h : Here) (i : Instr) (v : View) (o : OpSpec) (s1 : State) (y : Nat → Nat) (psn : Nat → Bool),
    (∃ a, i = .ld a) ∨ (∃ a, i = .ldI a) → Ready s h i v o →
    let g := lanesOf (guardMask v.grd h.r)
    InOrder (fun t l t' => ∃ m ps, Spec.clean t h v o l ∧ (Spec.address t h v o l).toNat % v.ty.align = 0 ∧
      t.transPieces h.c h.f.ctx .read (piecesOf (Spec.address t h v o l) v.ty.bytes) = .ok m (.ok ps) ∧
      m.readPieces h.c h.f.ctx (Spec.site m h v) (m.funcOf h.f.ctx) ps = .ok t' (.ok (y l, psn l))) g s s1 →
    ∃ s' f', CompletesIn i s h v s' f' Spec.nothing ∧
      Spec.waitsToLand s1 h v v.ty.regs (if v.opt.getLsbD 0 then some v.scp else none) (g.map fun l => (l, Spec.loaded v.ty (y l) (psn l))) s' f'

/-- The data of a store in a lane: SC at the width of the type, or the twelve registers of an XA320 slot (R168). -/
def Sys2Proof.Spec.data (s : State) (h : Here) (v : View) (o : OpSpec) (l : Nat) : Nat :=
  if v.ty = .xa320 then ((List.range 12).map fun j => ((h.r.thread l).vreg (v.sc.idx.toNat + j)).val.toNat * 2 ^ (32 * j)).sum
  else (operandC s h v o l).bits.toNat % 2 ^ (8 * v.ty.bytes)

/-- One store of ST or RST: an RST to memory of another package merges its bytes into the write-combining buffer; every other store writes the pieces of its address (R168, R182). -/
def Sys2Proof.Spec.storeLane (h : Here) (v : View) (remote : Bool) (x : StoreOp) (t t' : State) : Prop :=
  (∃ p, remote = true ∧ x.pieces = [p] ∧ t.isRemote (t.funcOf h.f.ctx) p.gpa = true ∧ t.mergeWcb h x p = .ok t' ()) ∨
  ((remote = false ∨ ∀ p, p ∈ x.pieces → t.isRemote (t.funcOf h.f.ctx) p.gpa = false) ∧ t.writePieces h (Spec.site t h v) x.data x.pieces = .ok t' ())

/-- ST and RST complete: the addresses of all threads translate for writing, a release comes before the stores, and then each thread stores the bytes of its type at the pieces of its effective address,
in lane order, or in some order where the bytes of two threads meet (R162 to R169, R182). -/
def Obligations.StoresComplete : Prop :=
  ∀ (s : State) (h : Here) (i : Instr) (v : View) (o : OpSpec) (s1 s2 : State) (ps : Nat → List Piece) (remote : Bool),
    (∃ a, i = .st a) ∧ remote = false ∨ (∃ a, i = .rst a) ∧ remote = true → Ready s h i v o →
    let g := lanesOf (guardMask v.grd h.r)
    InOrder (fun t l t' => Spec.clean t h v o l ∧ (Spec.address t h v o l).toNat % v.ty.align = 0 ∧ Spec.data t h v o l = Spec.data s h v o l ∧
      t.transPieces h.c h.f.ctx .write (piecesOf (Spec.address t h v o l) v.ty.bytes) = .ok t' (.ok (ps l))) g s s1 →
    (v.opt.getLsbD 1 = true ∧ s1.release h.c h.f.ctx v.scp = .ok s2 () ∨ v.opt.getLsbD 1 = false ∧ s2 = s1) →
    ∃ (ls : List Nat) (n : Nat), ls.Perm g ∧ ∀ s3 f, s3.flight? h.c h.fid = some f →
      InOrder (fun t l t' => Spec.storeLane h v remote ⟨l, Spec.address s h v o l, ps l, Spec.data s h v o l⟩ t t') ls { s2 with free := n } s3 →
      CompletesIn i s h v s3 f Spec.nothing

/-- One byte as every reader at its home finds it: what the core to which its word is registered holds dirty, else what the L2 holds, else what memory holds; none where only the host's memory has it
(R314 to R316, R320). -/
def Sys2Proof.Spec.byteAt (s : State) (func gpa : Nat) : Option Byte :=
  let h := s.home (secKey func (gpa / 64))
  let p := gpa % 64
  let byte (d : BitVec 512) : Byte := d.extractLsb' (8 * p) 8
  let mem : Option Byte := match s.second func (gpa / 64 * 64) false false with
    | .ok (.host _, _) => none
    | .ok (t, _) => some (byte (s.fetchMem t).2.1)
    | .error _ => none
  let home : Option Byte := match h.copy with
    | some x => if x.valid.getLsbD p then some (byte x.data) else mem
    | none => mem
  match h.reg.get? (p / 4) with
  | some c => match s.l1? c (secKey func (gpa / 64)) with
    | some x => if x.dirty.getLsbD p then some (byte x.data) else home
    | none => home
  | none => home

/-- The sector of memory behind an address: its kind, then its number; none where no extent covers it (R341). -/
def Sys2Proof.Spec.sector (s : State) (func gpa : Nat) : Option (Nat × Nat) :=
  match s.second func (gpa / 64 * 64) false false with
  | .ok (.dev a _, _) => some (0, a / 64)
  | .ok (.rem p a, _) => some (1, p * 2 ^ 58 + a / 64)
  | .ok (.host a, _) => some (2, a / 64)
  | .ok (.cached, _) => none
  | .error _ => none

/-- What an L1 holds dirty of a sector it holds validly, in words registered to its core (R315): these it keeps from the home. -/
def Sys2Proof.Spec.registered (s : State) (func gpa : Nat) : Prop :=
  ∀ c x, s.l1? c (secKey func (gpa / 64)) = some x →
    x.dirty &&& ~~~(wordMask ((s.home (secKey func (gpa / 64))).wordsOf c) &&& x.valid) = 0

/-- What the L2 holds clean of a sector is what memory holds, and what it holds dirty it holds (R332); bulk copies of other packages' memory may be older (R318). -/
def Sys2Proof.Spec.settled (s : State) (func gpa : Nat) : Prop :=
  ∀ x t d k, (s.home (secKey func (gpa / 64))).copy = some x → s.second func (gpa / 64 * 64) false false = .ok (t, d) → (∀ a, t ≠ .host a) → k < 64 →
    (x.dirty.getLsbD k = true → x.valid.getLsbD k = true) ∧
    (x.valid.getLsbD k = true → x.dirty.getLsbD k = false → x.data.extractLsb' (8 * k) 8 = (s.fetchMem t).2.1.extractLsb' (8 * k) 8)

/-- The L2 has room for a line without an eviction: it holds the line, or a way that the function may allocate into is free in the set (R310, R312). -/
def Sys2Proof.Spec.room (s : State) (func gpa : Nat) : Prop :=
  let line := secKey func (gpa / 64) / 4
  s.lineHeld line = true ∨ ∃ w, w < 32 ∧ (s.waysOf func).getLsbD w = true ∧
    ∀ e, e ∈ s.l2Ways.entries → e.1 ≠ line → sameSet e.1 line = true → s.lineHeld e.1 = true → e.2 ≠ w

/-- The L1 of a core has room for a line: it holds the line, or fewer lines than 2560 KiB less the scratchpad part has (R220). -/
def Sys2Proof.Spec.room1 (s : State) (c func gpa : Nat) : Prop :=
  let lines := uniqN ((s.core c).l1.keys.map (· / 4))
  secKey func (gpa / 64) / 4 ∈ lines ∨ lines.length < 10240 - 1024 * (s.core c).spk

/-- THE FRAME OF A STORE (R165, R168): a write of n bytes within a sector leaves the data in those bytes, as they are read at their home, and changes no other byte, neither of its sector nor of any
sector of another address that has other memory behind it. A write at the memory controller or beyond gives up the L2's copy, which must then hold what memory holds; the caches must have room for
the line. An eviction, which makes room, changes no byte either; and a read at the home delivers these bytes (R310, R315, R332). -/
def Obligations.StoreFrame : Prop :=
  (∀ (s t : State) (c : Nat) (site : Site) (func gpa : Nat) (cls : Bool) (n x : Nat), s.MemOk → Spec.registered s func gpa →
    (site = .ctl ∨ site = .agent → Spec.settled s func gpa) → Spec.room s func gpa →
    (site = .own → Spec.room1 s c func gpa) → (∀ g, site = .l1 g → Spec.room1 s g func gpa) → gpa < 2 ^ 57 → 1 ≤ n → gpa % 64 + n ≤ 64 →
    s.writeN c site func gpa cls n x = .ok t () →
    (∀ k, k < n → Spec.byteAt t func (gpa + k) = some (BitVec.ofNat 8 (x / 2 ^ (8 * k)))) ∧
    (∀ a b, a / 64 = gpa / 64 → (a < gpa ∨ gpa + n ≤ a) → Spec.byteAt s func a = some b → Spec.byteAt t func a = some b) ∧
    ∀ func' a b, (func', a / 64) ≠ (func, gpa / 64) → a < 2 ^ 57 → Spec.sector s func' a ≠ Spec.sector s func gpa → Spec.byteAt s func' a = some b →
      Spec.byteAt t func' a = some b) ∧
  (∀ (s : State) (func sec func' a : Nat) (b : Byte) (m : Nat × Nat), s.MemOk → sec < 2 ^ 51 → a < 2 ^ 57 →
    Spec.sector s func (sec * 64) = some m → m.1 < 2 → Spec.settled s func (sec * 64) →
    ((func', a / 64) = (func, sec) ∨ Spec.sector s func' a ≠ some m) → Spec.byteAt s func' a = some b →
    Spec.byteAt (s.evictL2 (secKey func sec)) func' a = some b) ∧
  ∀ (s u : State) (func gpa : Nat) (d : BitVec 512) (p : BitVec 16) (b : Byte), gpa < 2 ^ 57 → Spec.room s func gpa →
    s.lookSec func (gpa / 64) = .ok u (d, p) → Spec.byteAt s func gpa = some b → d.extractLsb' (8 * (gpa % 64)) 8 = b

/-- LDS, LDS_I, STS, LDT, LDC and LDC_I complete for addresses inside the grant or the window, or below 2048 of the constant bank: the bytes of scratchpad, its rows in column order, and words of the
constant bank wait to land; STS writes its bytes, a word written whole without poison and one written in part keeping its own (R170 to R172, R222, R225). -/
def Obligations.ScratchpadAndConstantAccess : Prop :=
  ∀ (s : State) (h : Here) (v : View) (o : OpSpec),
    let g := lanesOf (guardMask v.grd h.r)
    let w := v.ty.width
    let n := v.ty.bytes
    (∀ i (place : Nat → Nat × Nat × Nat) (b : Nat → Block), (∃ a, i = .lds a) ∨ (∃ a, i = .ldsI a) → Ready s h i v o →
      (∀ l, l ∈ g → Spec.clean s h v o l ∧ Spec.spadAddress s h v o l % v.ty.align = 0 ∧
        s.spadPlace h (v.opt.getLsbD 2) (Spec.spadAddress s h v o l) n = some (place l) ∧ s.block? (place l).1 (place l).2.1 = some (b l)) →
      ∃ s' f', CompletesIn i s h v s' f' Spec.nothing ∧
        Spec.waitsToLand s h v v.ty.regs none
          (g.map fun l => (l, Spec.loaded v.ty ((b l).spadNum (place l).2.2 n) ((b l).spadPsn (place l).2.2 n))) s' f') ∧
    (∀ a (place : Nat → Nat × Nat × Nat), Ready s h (.sts a) v o →
      (∀ l, l ∈ g → Spec.clean s h v o l ∧ Spec.spadAddress s h v o l % v.ty.align = 0 ∧
        s.spadPlace h (v.opt.getLsbD 2) (Spec.spadAddress s h v o l) n = some (place l)) →
      ∃ (ls : List Nat) (fr : Nat), ls.Perm g ∧
        CompletesIn (.sts a) s h v (ls.foldl (fun (t : State) l => match t.block? (place l).1 (place l).2.1 with
          | some b => t.setBlock (place l).1 (place l).2.1 (b.spadPut (place l).2.2 n (Spec.data s h v o l) false)
          | none => t) { s with free := fr }) h.f Spec.nothing) ∧
    (∀ a (row : Nat → Nat → Nat × Nat × Nat) (b : Nat → Nat → Block), Ready s h (.ldt a) v o →
      let base (l : Nat) : Nat := (operandA s h v o l).bits.toNat % 2 ^ 32
      let pitch (l : Nat) : Nat := (operandB s h v o none l).bits.toNat % 2 ^ 32
      (∀ l, l ∈ g → Spec.clean s h v o l ∧ base l % 8 = 0 ∧ pitch l % 8 = 0 ∧ ∀ r, r < 4 →
        s.spadPlace h (v.opt.getLsbD 2) (base l + r * pitch l) (2 * w) = some (row l r) ∧ s.block? (row l r).1 (row l r).2.1 = some (b l r)) →
      let at_ (l r c : Nat) : Nat := (row l r).2.2 + c * w / 8
      let elem (l r c : Nat) : Nat :=
        if w = 4 then (b l r).spadNum (at_ l r c) 1 / 16 ^ (c % 2) % 16 else (b l r).spadNum (at_ l r c) (w / 8)
      let bad (l r c : Nat) : Bool := (b l r).spadPsn (at_ l r c) (if w = 4 then 1 else w / 8)
      let reg (l j : Nat) : W32 × Bool :=
        -- element m of the stream is row m mod 4 and column m div 4 of the sub-matrix; 32 / w of them fill a register
        let m (k : Nat) : Nat := j * (32 / w) + k
        if (List.range (32 / w)).any fun k => bad l (m k % 4) (m k / 4) then (0x7FFFFFF0#32, true)
        else (BitVec.ofNat 32 ((List.range (32 / w)).map fun k => elem l (m k % 4) (m k / 4) * 2 ^ (w * k)).sum, false)
      ∃ s' f', CompletesIn (.ldt a) s h v s' f' Spec.nothing ∧
        Spec.waitsToLand s h v (2 * w) none (g.map fun l => (l, .words ((List.range (2 * w)).map (reg l)))) s' f') ∧
    ∀ i (at_ : Nat → Nat), (∃ a, i = .ldc a) ∨ (∃ a, i = .ldcI a) → Ready s h i v o →
      (∀ l, l ∈ g → (operandA s h v o l).psn = false ∧ at_ l = ((operandA s h v o l).bits.setWidth 32 + BitVec.ofInt 32 (match v.sb with
        | .imm x => x.toInt
        | .src b => b.idx.toInt)).toNat ∧ at_ l % n = 0 ∧ at_ l < 2048) →
      ∃ s' f', CompletesIn i s h v s' f' Spec.nothing ∧
        Spec.waitsToLand s h v v.ty.regs none (g.map fun l => (l, .words ((List.range v.ty.regs).map fun k => (s.cbankWord h.f (at_ l / 4 + k), false)))) s' f'

/-- The value that an atomic leaves in memory where m was: the table of R173, on patterns of the type. -/
def Sys2Proof.Spec.atomic (op : Nat) (ty : Ty) (m b c : Nat) : Nat :=
  let i (x : Nat) : Int := Spec.int ty (BitVec.ofNat 64 x)
  let f (x : Nat) : FVal := valueOf ty.fmt (x % 2 ^ ty.width) false
  match op with
  | 0 => (m + b) % 2 ^ ty.width
  | 1 => if i b < i m then b else m
  | 2 => if i m < i b then b else m
  | 3 => Nat.land m b
  | 4 => Nat.lor m b
  | 5 => Nat.xor m b
  | 6 => b
  | 7 => if m = b then c else m
  | 8 => roundRne ty.fmt ((f m).add (f b) .rne)
  | 9 => Spec.minmax false ty.fmt (f m) (f b)
  | 10 => Spec.minmax true ty.fmt (f m) (f b)
  | 11 => ((XA.ofNat m).add (f b)).toNat
  | _ => if b ≤ m then 0 else m + 1

/-- ATOM and RED complete: the addresses of all threads translate for reading and writing, a release comes first, then each thread's step at the site of its scope, in some order, leaves the value of
R173 and hands on the old one; ATOM's old values wait to land, RED's acquire takes effect at once. ATOMS does the same in the words of scratchpad, where a poisoned word stays as it is
(R173 to R176). -/
def Obligations.AtomicsComplete : Prop :=
  ∀ (s : State) (h : Here) (v : View) (o : OpSpec) (s1 s2 : State),
    let g := lanesOf (guardMask v.grd h.r)
    let op := v.opt.toNat / 4 % 16
    let size := if op = 11 then 48 else v.ty.bytes
    let B (l : Nat) : Nat := (operandB s h v o none l).bits.toNat % 2 ^ v.ty.width
    let C (l : Nat) : Nat := (operandC s h v o l).bits.toNat % 2 ^ v.ty.width
    let released := v.opt.getLsbD 1 = true ∧ s1.release h.c h.f.ctx v.scp = .ok s2 () ∨ v.opt.getLsbD 1 = false ∧ s2 = s1
    let acq := if v.opt.getLsbD 0 then some v.scp else none
    (∀ i (p : Nat → Piece), (∃ a, i = .atom a) ∨ (∃ a, i = .red a) → Ready s h i v o →
      InOrder (fun t l t' => Spec.clean t h v o l ∧ (operandA t h v o l).bits.toNat % (if op = 11 then 64 else size) = 0 ∧
        (operandB t h v o none l).bits = (operandB s h v o none l).bits ∧ (op = 7 → (operandC t h v o l).bits = (operandC s h v o l).bits) ∧
        t.transPieces h.c h.f.ctx .rmw [((operandA t h v o l).bits, size)] = .ok t' (.ok [p l])) g s s1 →
      released →
      ∃ (ls : List Nat) (n : Nat), ls.Perm g ∧ ∀ s3 f (m : Nat → Nat) (psn : Nat → Bool), s3.flight? h.c h.fid = some f →
        InOrder (fun t l t' => ∃ u, t.drainFor h.c h.f.ctx (p l).gpa = .ok u () ∧
          u.rmwN h.c (u.siteOf h.c h.f v.scp) (u.funcOf h.f.ctx) (p l).gpa (p l).cls size (fun m => Spec.atomic op v.ty m (B l) (C l)) =
            .ok t' (m l, psn l)) ls { s2 with free := n } s3 →
        ((∃ a, i = .red a) → CompletesIn i s h v (if v.opt.getLsbD 0 then s3.acquireBy h.c h.f v.scp else s3) f Spec.nothing) ∧
        ((∃ a, i = .atom a) → ∃ s' f', CompletesIn i s h v s' f' Spec.nothing ∧
          Spec.waitsToLand s3 h v v.ty.regs acq (ls.map fun l => (l, Spec.loaded v.ty (m l) (psn l))) s' f')) ∧
    ∀ a (place : Nat → Nat × Nat × Nat), Ready s h (.atoms a) v o → s1 = s → released →
      (∀ l, l ∈ g → Spec.clean s h v o l ∧ (operandA s h v o l).bits.toNat % 2 ^ 32 % size = 0 ∧
        s.spadPlace h (v.opt.getLsbD 6) ((operandA s h v o l).bits.toNat % 2 ^ 32) size = some (place l)) →
      ∃ (ls : List Nat) (n : Nat), ls.Perm g ∧ ∀ s3 (m : Nat → Nat) (psn : Nat → Bool),
        InOrder (fun t l t' => ∃ b, t.block? (place l).1 (place l).2.1 = some b ∧ m l = b.spadNum (place l).2.2 size ∧ psn l = b.spadPsn (place l).2.2 size ∧
          t' = if psn l then t
            else t.setBlock (place l).1 (place l).2.1 (b.spadPut (place l).2.2 size (Spec.atomic op v.ty (m l) (B l) (C l)) false)) ls { s2 with free := n } s3 →
        ∃ s' f', CompletesIn (.atoms a) s h v s' f' Spec.nothing ∧
          Spec.waitsToLand s3 h v v.ty.regs acq (ls.map fun l => (l, Spec.loaded v.ty (m l) (psn l))) s' f'

/-- One page of a range of CWB or CINV: skipped without a mapping, else each sector of it is maintained in rising order (R178). -/
def Sys2Proof.Spec.maintains (h : Here) (v : View) (inv : Bool) (t : State) (x : W64 × Nat) (t' : State) : Prop :=
  (∃ malf st gpa, t.translate h.c h.f.ctx x.1 .read = (t', .fault 0 malf st gpa)) ∨
  ∃ m gpa cls, t.translate h.c h.f.ctx x.1 .read = (m, .ok gpa cls) ∧
    InOrder (fun u sec u' => u.maintSector h v inv (m.funcOf h.f.ctx) sec = .ok u' ()) (sectorsOf gpa x.2) m t'

/-- FENCE, CWB, CINV, CDISC and WCFL complete. CWB and CINV change no byte as it is read at its home; CDISC drops every copy of the sectors of its range and counts those that were dirty
(R177 to R179, R183). -/
def Obligations.MaintenanceCompletes : Prop :=
  ∀ (s : State) (h : Here) (v : View) (o : OpSpec) (s' : State) (f : Flight), s'.flight? h.c h.fid = some f →
    let g := lanesOf (guardMask v.grd h.r)
    (∀ a s1, Ready s h (.fence a) v o →
      (v.opt.getLsbD 1 = true ∧ s.release h.c h.f.ctx v.scp = .ok s1 () ∨ v.opt.getLsbD 1 = false ∧ s1 = s) →
      s' = (if v.opt.getLsbD 0 then s1.acquireBy h.c h.f v.scp else s1) → CompletesIn (.fence a) s h v s' f Spec.nothing) ∧
    (∀ i inv, (∃ a, i = .cwb a) ∧ inv = false ∨ (∃ a, i = .cinv a) ∧ inv = true → Ready s h i v o →
      InOrder (fun t l t' => Spec.clean t h v o l ∧
        InOrder (Spec.maintains h v inv) (pagesOf (operandA t h v o l).bits ((operandB t h v o none l).bits.toNat % 2 ^ 32)) t t') g s s' →
      CompletesIn i s h v s' f Spec.nothing) ∧
    (∀ inv func sec t a b b', s.MemOk → (s.core h.c).wcb = [] → Spec.registered s func (sec * 64) → Spec.settled s func (sec * 64) → Spec.room s func (sec * 64) → sec < 2 ^ 51 → a / 64 = sec →
      s.maintSector h v inv func sec = .ok t () → Spec.byteAt s func a = some b → Spec.byteAt t func a = some b' → b' = b) ∧
    (∀ a s1 s2 secs, Ready s h (.cdisc a) v o → guardMask v.grd h.r = h.r.exec →
      let at_ := (operandA s h v o (g.headD 0)).bits
      let len := (operandB s h v o none (g.headD 0)).bits.toNat % 2 ^ 32
      let keys := uniqN (secs.map (secKey (s1.funcOf h.f.ctx)))
      at_.toNat % 64 = 0 → len % 64 = 0 → canonical at_ = true → s.cdiscPages h (g.headD 0) [] (pagesOf at_ len) = .ok s1 (.ok secs) →
      InOrder (fun t sec t' => t.drainFor h.c h.f.ctx (sec * 64) = .ok t' ()) secs s1 s2 → (∀ k, k ∈ keys → (s2.home k).owner = none) →
      s2.flight? h.c h.fid = some f →
      ∃ s3, CompletesIn (.cdisc a) s h v s3 f
          { lat := fun _ => Val.zero, ws := fun _ => []
            once := if v.dst.n then [] else [.s v.dst.idx.toNat (BitVec.ofNat 64 (keys.filter s2.dirtySector).length)] } ∧
        s3.mem = s2.mem ∧ s3.fab = s2.fab ∧ ∀ k, k ∈ keys → (s3.home k).copy = none ∧ (s3.home k).reg = .empty ∧ ∀ c, s3.l1? c k = none) ∧
    ∀ a, Ready s h (.wcfl a) v o → s.drainWcb h.c h.f.ctx = .ok s' () → CompletesIn (.wcfl a) s h v s' f Spec.nothing

/-- One sector of a prefetch: read into the L1, or filled in the L2; a failure changes nothing (R180). -/
def Sys2Proof.Spec.prefetches (h : Here) (v : View) (func gpa : Nat) (cls : Bool) (u : State) (j : Nat) (u' : State) : Prop :=
  let sec := gpa / 256 * 4 + j
  if v.scp = 2 then
    (∃ d, u.readCls h.c .own func sec cls (BitVec.allOnes 64) = .ok u' d) ∨ ((∃ k st, u.readCls h.c .own func sec cls (BitVec.allOnes 64) = .bad k st) ∧ u' = u)
  else
    (∃ m t coh, u.readyHome func sec true false false false = .ok m (t, coh) ∧ u' = m.fillHome (secKey func sec) t coh) ∨
    ((∃ k st, u.readyHome func sec true false false false = .bad k st) ∧ u' = u)

/-- PREF, PREF_I, PTST, MONW and REPLAY complete. PREF does nothing where the address does not translate; PTST tests poison without trapping; MONW hands on a value that differs from its comparand, or
is poisoned, and holds its thread otherwise; REPLAY has no effect on a register without poison and re-issues the load that a token records, with an acquire where LQDONE let it (R180, R181, R184, R185, R353). -/
def Obligations.PrefetchMonitorAndPoison : Prop :=
  ∀ (s : State) (h : Here) (v : View) (o : OpSpec) (s1 : State) (f : Flight), s1.flight? h.c h.fid = some f →
    let g := lanesOf (guardMask v.grd h.r)
    let n := v.ty.bytes
    (∀ i, (∃ a, i = .pref a) ∨ (∃ a, i = .prefI a) → Ready s h i v o →
      InOrder (fun t l t' => Spec.clean t h v o l ∧
        ((∃ kind malf st gpa, t.translate h.c h.f.ctx (Spec.address t h v o l) .read = (t', .fault kind malf st gpa)) ∨
         t.translate h.c h.f.ctx (Spec.address t h v o l) .read = (t', .noncanon) ∨
         ∃ m gpa cls, t.translate h.c h.f.ctx (Spec.address t h v o l) .read = (m, .ok gpa cls) ∧
          InOrder (Spec.prefetches h v (m.funcOf h.f.ctx) gpa cls) [0, 1, 2, 3] m t')) g s s1 →
      CompletesIn i s h v s1 f Spec.nothing) ∧
    (∀ a, Ready s h (.ptst a) v o → Completes (.ptst a) s h v false (resultOf h v o fun l =>
      let x := operandA s h v o l
      let k := if x.plo then x.bits.toNat % 16 else x.bits.toNat / 2 ^ 32 % 16
      let kind := if k = 0 then 2 else match h.f.toks.get? k with
        | some e => e.kind
        | none => 0
      if x.psn = false then 0 else if v.opt.getLsbD 0 then BitVec.ofNat 64 (0x100 + 16 * kind + k) else 1)) ∧
    (∀ a (m : Nat → Nat) (psn : Nat → Bool) (cmp lim : Nat → Nat) (at_ : Nat → W64), Ready s h (.monw a) v o →
      InOrder (fun t l t' => ∃ u p, Spec.clean t h v o l ∧ at_ l = (operandA t h v o l).bits ∧ (at_ l).toNat % n = 0 ∧
        cmp l = (operandB t h v o none l).bits.toNat % 2 ^ v.ty.width ∧ lim l = (operandC t h v o l).bits.toNat % 2 ^ 32 ∧
        t.transPieces h.c h.f.ctx .read [(at_ l, n)] = .ok u (.ok [p]) ∧ u.isCoherent (u.funcOf h.f.ctx) p.gpa p.cls = true ∧
        u.readPieces h.c h.f.ctx (u.siteOf h.c h.f v.scp) (u.funcOf h.f.ctx) [p] = .ok t' (.ok (m l, psn l))) g s s1 →
      ((∀ l, l ∈ g → psn l = true ∨ m l ≠ cmp l) →
        ∃ s' f', CompletesIn (.monw a) s h v s' f' Spec.nothing ∧
          Spec.waitsToLand s1 h v v.ty.regs (if v.opt.getLsbD 0 then some v.scp else none) (g.map fun l => (l, Spec.loaded v.ty (m l) (psn l))) s' f') ∧
      ((∀ l, l ∈ g → psn l = false ∧ m l = cmp l) → h.r.isLast = true → guardMask v.grd h.r = h.r.exec →
        WaitsIn (.monw a) s h s1 f fun l =>
          .monw (at_ l) v.scp (v.opt.getLsbD 0) (v.ty == .b64) (BitVec.ofNat 64 (cmp l)) (lim l) s.clock v.dst h.r.addr f.nextId)) ∧
    ∀ a, Ready s h (.replay a) v o →
      InOrder (fun t l t' => (operandA t h v o l).psn = false ∧ t' = t ∨ (operandA t h v o l).psn = true ∧ ∃ e m w i,
        h.f.toks.get? ((operandA t h v o l).bits.toNat % 16) = some e ∧ (e.kind = 0 ∨ e.kind = 3) ∧ e.lanes.getLsbD l = true ∧ e.res ≠ .refused ∧
        (e.res = .open → e.lrec = none) ∧ t.fetch h.c h.f.ctx e.lpc = (m, .ok w) ∧ replayable w e.dest = some i ∧
        (if e.res = .retry then m.acquire h.c 4 false else m).replayLoad h i e.lpc l = .ok t' ((), LaneOut.plain l .next)) g s s1 →
      CompletesIn (.replay a) s h v s1 f Spec.nothing

/-- A thread held by MONW reads its word again: a value that differs, or any value once the limit has passed, lets the thread go on with the value on its way; an equal one before that leaves it
held (R181). `s1` is the state after the read. -/
def Sys2Proof.Spec.monitorReads (s s1 : State) (c fid l : Nat) (p : Pass) (res : Nat × LRes) (goes : Bool) (t : State) : Prop :=
  if goes then ∃ f f', s1.flight? c fid = some f ∧ t.flight? c fid = some f' ∧ (f'.thread l).hold = .none ∧ (f'.thread l).pc = p.next ∧
    ∃ x, f'.loads.get? f.nextId = some x ∧ x.res = [res]
  else t = s1 ∧ s.clock = s1.clock

/-- The events of group 100. LOAD_LANDING writes what a load has read to each live thread, clears the pending bits and forgets the load; a failure found after issue takes the token that its issue has of the KIND,
else the lowest free one, with its record (R45, R101, R167). LONG_OP_COMPLETE commits a run of pending latency (R42, R115, R116). STORE_FAILURE writes a record of TYPE 4 and traps the context (R169). MONW_WAKE and MONW_TIMEOUT read
again, the latter not before its limit (R181). WCB_DRAIN_TIMEOUT drains an entry 4096 cycles old (R182). -/
def Obligations.MemoryEventsComplete : Prop :=
  ∀ (s : State) (c fid : Nat) (f : Flight), s.flight? c fid = some f →
    (∀ id p, f.loads.get? id = some p → (p.res.map (·.1)).Nodup →
      ((∀ x, x ∈ p.res → (∃ ws, x.2 = .words ws ∧ ws.length = p.n) ∨ ∃ k, x.2 = .tok k) → p.sup = false →
        ∃ t f', exec (.loadLanding c fid id) s = .next t ∧ t.flight? c fid = some f' ∧ f'.loads.get? id = none ∧
          ∀ l r j, (l, r) ∈ p.res → (f.thread l).live = true → j < p.n → (f'.thread l).vreg (p.dst + j) =
            match r with
            | .words ws => ⟨(ws.getD j (0, false)).1, (ws.getD j (0, false)).2, false⟩
            | .tok k => ⟨0x7FFFFFF0 ||| BitVec.ofNat 32 (k % 16), true, false⟩
            | _ => (f.thread l).vreg (p.dst + j)) ∧
      (p.sup = true → (∀ x, x ∈ p.res → ∀ k, x.2 ≠ .tok k) → ∃ t f', exec (.loadLanding c fid id) s = .next t ∧ t.flight? c fid = some f' ∧ f'.loads.get? id = none ∧
          ∀ x, f'.holds x = f.holds x) ∧
      (∀ l kind stage malf va gpa u e, p.res = [(l, .late kind stage malf va gpa)] → p.sup = false → (f.thread l).live = true → p.acq = none →
        f.toks.get? u = some e → e.issue = p.issue → e.kind = kind → (∀ j e', f.toks.get? j = some e' → e'.issue = p.issue → e'.kind = kind → j = u) →
        ∃ t f', exec (.loadLanding c fid id) s = .next t ∧ t.flight? c fid = some f' ∧ f'.loads.get? id = none ∧
          ∀ j, j < p.n → (f'.thread l).vreg (p.dst + j) = ⟨0x7FFFFFF0 ||| BitVec.ofNat 32 (u % 16), true, false⟩) ∧
      ∀ l kind stage malf va gpa k s1 seq, p.res = [(l, .late kind stage malf va gpa)] → p.sup = false → (f.thread l).live = true → p.acq = none →
        (∀ j e, f.toks.get? j = some e → e.issue = p.issue → e.kind ≠ kind) →
        1 ≤ k → k ≤ 15 → f.toks.get? k = none → (∀ j, 1 ≤ j → j < k → (f.toks.get? j).isSome = true) →
        (s.setFlight c fid f).lantern f.ctx { ty := 1, kind := kind, stage := stage, tok := k, malf := malf, core := c, flight := f.idx, va := va.toNat, gpa := gpa.toNat, info := some (f.thread l).trapaddr } = .ok s1 seq →
        1 ≤ p.n →
        ∃ t f' e, exec (.loadLanding c fid id) s = .next t ∧ t.flight? c fid = some f' ∧ f'.toks.get? k = some e ∧ e.kind = kind ∧ e.lpc = p.lpc ∧
          e.dest = p.dst ∧ e.lanes = laneBit l ∧
          ∀ j, j < p.n → (f'.thread l).vreg (p.dst + j) = ⟨0x7FFFFFF0 ||| BitVec.ofNat 32 k, true, false⟩) ∧
    (∀ id p, f.longs.get? id = some p → ∃ f', exec (.longOpComplete c fid id) s = .next (s.setFlight c fid f') ∧ f'.longs.get? id = none ∧
      (∀ x, f'.holds x = afterWrites ((p.fwrites.map fun w => (0, w)) ++
        (p.writes.filter fun x => (f.thread x.1).live).flatMap fun x => x.2.map fun w => (x.1, w)) x (f.holds x)) ∧
      ∀ l, (f'.thread l).pc = (f.thread l).pc ∧ (f'.thread l).hold = if (f.thread l).hold = .commit id then .none else (f.thread l).hold) ∧
    (∀ i x s1 r, s.failures[i]? = some x →
      ({ s with failures := s.failures.eraseIdx i } : State).lantern x.ctx { ty := 4, kind := x.kind, cause := if x.lost then 2 else 1, stage := x.stage
                                                                             wrt := x.wrt, core := x.core, flight := x.flight, va := x.va.toNat
                                                                             gpa := x.gpa.toNat } = .ok s1 r →
      exec (.storeFailure i) s = .next (s1.trapContext x.ctx (if x.lost then 6 else 5) x.gpa)) ∧
    (∀ l va scope acq wide cmp limit start dst lpc issue p u q s1 m psn, (f.thread l).hold = .monw va scope acq wide cmp limit start dst lpc issue p →
      let ty := if wide then Ty.b64 else Ty.b32
      s.transPieces c f.ctx .read [(va, ty.bytes)] = .ok u (.ok [q]) →
      u.readPieces c f.ctx (u.siteOf c f scope) (u.funcOf f.ctx) [q] = .ok s1 (.ok (m, psn)) →
      let late := limit ≠ 0 ∧ limit ≤ s.clock - start
      (∃ t, exec (.monwWake c fid l) s = .next t ∧
        Spec.monitorReads s s1 c fid l p (l, Spec.loaded ty m psn) (psn || decide (m ≠ cmp.toNat) || decide late) t) ∧
      (late → ∃ t, exec (.monwTimeout c fid l) s = .next t ∧ Spec.monitorReads s s1 c fid l p (l, Spec.loaded ty m psn) true t) ∧
      (¬late → exec (.monwTimeout c fid l) s = .next s)) ∧
    ∀ i w, (s.core c).wcb[i]? = some w →
      (s.clock - w.start < 4096 → exec (.wcbDrainTimeout c i) s = .next s) ∧
      ∀ s1, 4096 ≤ s.clock - w.start → s.drainEntry c w = .ok s1 () →
        exec (.wcbDrainTimeout c i) s = .next (s1.setCore c { s1.core c with wcb := (s1.core c).wcb.erase w })

-- ---------------------------------------------------------------------------------------------
-- System registers, the lantern queue, contexts

/-- Which contexts a context may act on by its system instructions (R354). -/
def Sys2Proof.Spec.reaches (s : State) (own c : Nat) : Prop :=
  c ≤ 4095 ∧ (s.ctx c).st ≠ .free ∧ (own = 0 ∨ own ≤ 20 ∧ ∃ p, s.partOf c = some p ∧ s.partOf own = some p)

/-- Which cores' registers are open to a context (R357): every one to firmware, those of its partition's clusters to a steward. -/
def Sys2Proof.Spec.reachesCore (s : State) (own c : Nat) : Prop :=
  c < 128 ∧ (own = 0 ∨ 1 ≤ own ∧ own ≤ 20 ∧ ((s.part (own - 1)).desc.getLsbD (c / 4) = true ∧ c / 4 < 32))

/-- A privileged member whose bundle executes whole (R354). -/
def Sys2Proof.Spec.privileged (s : State) (h : Here) (i : Instr) (v : View) (o : OpSpec) : Prop :=
  Ready s h i v o ∧ h.f.ctx ≤ 20 ∧ guardMask v.grd h.r = h.r.exec

/-- A uniform source of the member. -/
def Sys2Proof.Spec.uniform (s : State) (h : Here) (v : View) (x : Src) (wide : Bool) : W64 :=
  (s.readSrc h.c h.f h.r ((lanesOf (guardMask v.grd h.r)).headD 0) x wide).bits

/-- One 64-bit result for the flight. -/
def Sys2Proof.Spec.answer (h : Here) (v : View) (y : W64) : Effect := resultEffect true (guardMask v.grd h.r) v.dst true fun _ => y

/-- The value of a register of R357 that software reads: level 0 of a context, 1 of a core, 2 of a die; address x = register + level · 2^10 + unit · 2^12. -/
def Sys2Proof.Spec.csrHolds (s : State) (own x : Nat) (y : W64) : Prop :=
  let u := x / 2 ^ 12
  let c := s.ctx u
  let num (n : Nat) : W64 := BitVec.ofNat 64 n
  x < 2 ^ 24 ∧
  ((x / 2 ^ 10 % 4 = 0 ∧ Spec.reaches s own u ∧
      (x % 2 ^ 10, y) ∈ [(0x20, c.hbase), (0x21, c.hlimit), (0x22, c.hoffset), (0x23, c.tvec), (0x24, c.lbase), (0x25, c.ptroot), (0x26, num c.lsize),
        (0x27, num c.lhead), (0x28, num c.ltail), (0x29, num (s.funcOf u))]) ∨
   (x / 2 ^ 10 % 4 = 1 ∧ Spec.reachesCore s own u ∧
      (x % 2 ^ 10, y) ∈ [(0x100, num ((s.core u).spk % 16 + if (s.core u).busy then 2 ^ 8 else 0)), (0x101, (s.core u).errc)]) ∨
   (x / 2 ^ 10 % 4 = 2 ∧ u < 4 ∧
      ((x % 2 ^ 10, y) ∈ [(0x200, (s.die u).errc), (0x201, num (s.keyFree % 2 ^ 12)),
        (0x203, num (s.gov.freq % 2 ^ 8 + s.gov.fmin % 2 ^ 8 * 2 ^ 8 + s.gov.pwr % 2 ^ 16 * 2 ^ 16 + s.gov.plim % 2 ^ 16 * 2 ^ 32 +
          if s.gov.throt then 2 ^ 48 else 0)),
        (0x204, num ((s.die u).retire.toNat + (((s.die u).map0.map fun p => p % 32 + 2 ^ 5).getD 0) * 2 ^ 34 +
          (((s.die u).map1.map fun p => p % 32 + 2 ^ 5).getD 0) * 2 ^ 40))] ∨
       x % 2 ^ 10 = 0x202 ∧ s.build = .gzC ∧ u < 2 ∧ (∃ p, (s.die u).hostPort = some p ∧ y = num p.hostWord) ∨
       ∃ k, x % 2 ^ 10 = 0x210 + k ∧ k < (if s.build = .gzC then 4 else 8) ∧ y = num ((s.die u).fports.getD k Port.reset).fabWord)))

/-- Nothing is held in a context's lantern: its queue is empty and every slot reads as free or unresolved (R358). `m` is the state after the reads. -/
def Sys2Proof.Spec.lanternIdle (s : State) (c : Nat) (m : State) : Prop :=
  (s.ctx c).lhead = (s.ctx c).ltail ∧ InOrder (fun t q t' => ∃ d p, t.lookSec (s.funcOf c) ((s.ctx c).slotAddr q / 64) = .ok t' (d, p) ∧
    secNum d ((s.ctx c).slotAddr q % 64) 32 / 2 ^ 224 % 4 < 2) (List.range (2 ^ (s.ctx c).lsize)) s m

/-- A change of a register that translates a context's addresses: not while anything of the context is on a core; every translation cached for it goes (R340, R358). -/
def Sys2Proof.Spec.translates (s : State) (u reg : Nat) (y : W64) (t : State) : Prop :=
  let c := s.ctx u
  s.occupied u = false ∧ ∃ c', t = (s.setCtx u c').dropTlb u (fun _ => true) ∧
    ((reg = 0x20 ∧ c' = { c with hbase := y &&& ~~~0xFFFF#64 }) ∨ (reg = 0x21 ∧ c' = { c with hlimit := y &&& ~~~0xFFFF#64 }) ∨
     (reg = 0x22 ∧ c' = { c with hoffset := y &&& ~~~0xFFFF#64 }) ∨ (reg = 0x25 ∧ c' = { c with ptroot := y &&& ~~~0xFFF#64 }))

/-- The split of a core's SRAM changes to n: with no block resident there or spread over it, no engine thread and a legal n the core's L1 ends empty; otherwise, or for the split it has, nothing happens (R220). -/
def Sys2Proof.Spec.splits (s : State) (c n : Nat) (t : State) : Prop :=
  let k := s.core c
  let free := (∀ d key b, (s.core d).blocks.get? key = some b → c ∉ b.cores) ∧ (∀ e x, k.engs.get? e = some x → x.active = false) ∧ n ≤ 9 ∧ n ≠ k.spk
  (¬free → t = s) ∧ (free → (t.core c).spk = n ∧ (∀ x, t.l1? c x = none) ∧ (t.core c).flights = k.flights ∧ t.ctxs = s.ctxs)

/-- A write of die.retire: a bit changes only where its physical core holds no resident block; a spare that is retired serves nothing, and one serves only a position that is retired or still holds a
block (R19, R464). -/
def Sys2Proof.Spec.retires (s : State) (d : Nat) (y : W64) (t : State) : Prop :=
  let busy (p : Nat) : Prop := ∃ l, (s.die d).serves p = some l ∧ s.hasBlock (32 * d + l) = true
  (∀ p, p < 34 → (busy p → (t.die d).retire.getLsbD p = (s.die d).retire.getLsbD p) ∧ (¬busy p → (t.die d).retire.getLsbD p = y.getLsbD p)) ∧
  ((t.die d).retire.getLsbD 32 = true → (t.die d).map0 = none) ∧ ((t.die d).retire.getLsbD 33 = true → (t.die d).map1 = none) ∧
  (∀ l, (t.die d).map0 = some l ∨ (t.die d).map1 = some l → (t.die d).retire.getLsbD l = true ∨ s.hasBlock (32 * d + l) = true) ∧
  (t.die d).errc = (s.die d).errc ∧ t.ctxs = s.ctxs

/-- A write of die.gov (R461). -/
def Sys2Proof.Spec.governs (s : State) (y : W64) (t : State) : Prop :=
  let fmin := y.toNat / 2 ^ 8 % 2 ^ 8
  t = { s with gov := { s.gov with fmin := if 12 ≤ fmin ∧ fmin ≤ 36 then fmin else s.gov.fmin
                                   plim := min (y.toNat / 2 ^ 32 % 2 ^ 16) (if s.build = .gzC then 4600 else 1200) } }

/-- A write of a register of R357 by a context. -/
def Sys2Proof.Spec.csrWrites (s : State) (own x : Nat) (y : W64) (t : State) : Prop :=
  let u := x / 2 ^ 12
  let reg := x % 2 ^ 10
  let c := s.ctx u
  x < 2 ^ 24 ∧
  ((x / 2 ^ 10 % 4 = 0 ∧ Spec.reaches s own u ∧
      (reg = 0x23 ∧ t = s.setCtx u { c with tvec := y &&& ~~~3#64 } ∨
       (∃ m, reg = 0x24 ∧ Spec.lanternIdle s u m ∧ t = m.setCtx u { m.ctx u with lbase := y }) ∨
       (∃ m, reg = 0x26 ∧ Spec.lanternIdle s u m ∧ 4 ≤ y.toNat % 16 ∧ t = m.setCtx u { m.ctx u with lsize := y.toNat % 16 }) ∨
       Spec.translates s u reg y t)) ∨
   (x / 2 ^ 10 % 4 = 1 ∧ Spec.reachesCore s own u ∧
      (reg = 0x101 ∧ t = s.setCore u { s.core u with errc := y } ∨ reg = 0x100 ∧ own = 0 ∧ Spec.splits s u (y.toNat % 16) t)) ∨
   (x / 2 ^ 10 % 4 = 2 ∧ u < 4 ∧ own = 0 ∧
      (reg = 0x200 ∧ t = s.setDie u { s.die u with errc := y } ∨
       reg = 0x202 ∧ (∃ p, s.build = .gzC ∧ u < 2 ∧ (s.die u).hostPort = some p ∧
         t = s.setDie u { s.die u with hostPort := some { p with c1 := y.toNat / 2 ^ 16 % 2 ^ 16, c2 := y.toNat / 2 ^ 32 % 2 ^ 16 } }) ∨
       reg = 0x203 ∧ Spec.governs s y t ∨
       reg = 0x204 ∧ Spec.retires s u y t ∨
       ∃ k, reg = 0x210 + k ∧ k < (if s.build = .gzC then 4 else 8) ∧
         let p := (s.die u).fports.getD k Port.reset
         t = s.setDie u { s.die u with fports := (s.die u).fports.set k { p with c1 := y.toNat / 2 ^ 32 % 2 ^ 16 } })))

/-- CSRR reads and CSRW writes the register that its address names, and the same writes come from firmware and drivers as events: REGISTER_WRITE, CORE_SRAM_WRITE, CTX_TRANSLATION_WRITE,
DIE_RETIRE_WRITE, DIE_GOV_WRITE, with a driver's LQSEL and LQERR and the argument words of a mailbox (R220, R340, R356 to R360, R370, R374, R461, R464). -/
def Obligations.SystemRegisters : Prop :=
  (∀ (s : State) (h : Here) (a : Args) (v : View) (o : OpSpec) (y : W64), Spec.privileged s h (.csrr a) v o →
    Spec.csrHolds s h.f.ctx (Spec.uniform s h v v.sa false).toNat y → Completes (.csrr a) s h v false (Spec.answer h v y)) ∧
  (∀ (s : State) (h : Here) (a : Args) (v : View) (o : OpSpec), Spec.privileged s h (.csrw a) v o →
    (∃ t, Spec.csrWrites s h.f.ctx (Spec.uniform s h v v.sa false).toNat (Spec.uniform s h v v.sbSrc true) t) →
    ∃ t f, Spec.csrWrites s h.f.ctx (Spec.uniform s h v v.sa false).toNat (Spec.uniform s h v v.sbSrc true) t ∧ t.flight? h.c h.fid = some f ∧
      CompletesIn (.csrw a) s h v t f Spec.nothing) ∧
  ∀ (s : State) (y : W64),
    (∀ x : BitVec 32, (∃ t, Spec.csrWrites s 0 x.toNat y t) → ∃ t, exec (.registerWrite (.csr x) y) s = .next t ∧ Spec.csrWrites s 0 x.toNat y t) ∧
    (∀ n, n < 128 → exec (.registerWrite (.lqsel n) y) s = .next (s.setVf n { s.vf n with lqsel := y.toNat % 2 ^ 12 })) ∧
    (∀ n, n < 128 → exec (.registerWrite (.lqerr n) y) s = .next (if y.getLsbD 0 then s.setVf n { s.vf n with lqerr := false } else s)) ∧
    (∀ func word, func ≤ 128 → word < 8 → ∃ m, exec (.registerWrite (.arg func word) y) s = .next { s with mail := s.mail.set func m } ∧
      m.result = (s.mailbox func).result ∧ ∀ j, j < 8 → m.arg.extractLsb' (64 * j) 64 = if j = word then y else (s.mailbox func).arg.extractLsb' (64 * j) 64) ∧
    (∀ c, c < 128 → ∃ t, exec (.coreSramWrite c y) s = .next t ∧ Spec.splits s c (y.toNat % 16) t) ∧
    (∀ c reg, Spec.reaches s 0 c → (∃ t, Spec.translates s c reg y t) → ∃ t, exec (.ctxTranslationWrite c reg y) s = .next t ∧ Spec.translates s c reg y t) ∧
    (∀ c reg, s.occupied c = true → exec (.ctxTranslationWrite c reg y) s = .next s) ∧
    (∀ d, d < 4 → ∃ t, exec (.dieRetireWrite d y) s = .next t ∧ Spec.retires s d y t) ∧
    ∀ d, d < 4 → ∃ t, exec (.dieGovWrite d y) s = .next t ∧ Spec.governs s y t

/-- The byte of a lantern slot that holds its STATE is written, coherently (R350). -/
def Sys2Proof.Spec.lanternWrites (s : State) (c q byte : Nat) (t : State) : Prop :=
  let a := (s.ctx c).slotAddr q + 28
  s.writeAtHome none (s.funcOf c) (a / 64) false true (numSec byte (a % 64)) (maskOf (a % 64) 1) 0 = .ok t ()

/-- The record in a readable lantern slot; `u` is the state after the read. -/
def Sys2Proof.Spec.lanternHolds (s : State) (c q recd : Nat) (psn : Bool) (u : State) : Prop :=
  let a := (s.ctx c).slotAddr q
  ∃ d p, s.lookSec (s.funcOf c) (a / 64) = .ok u (d, p) ∧ recd = secNum d (a % 64) 32 ∧ psn = (p &&& wordsTouched (maskOf (a % 64) 32) != 0)

/-- A pop of a lantern: 0 from an empty one; else the slot at the head is taken (STATE 10), the head moves on and the answer is the handle (R362). -/
def Sys2Proof.Spec.pops (s : State) (c : Nat) (y : W64) (t : State) : Prop :=
  let x := s.ctx c
  (x.lhead = x.ltail ∧ y = 0 ∧ t = s) ∨
  (x.lhead ≠ x.ltail ∧ ∃ recd psn u m, Spec.lanternHolds s c x.lhead recd psn u ∧ Spec.lanternWrites u c x.lhead (recd / 2 ^ 224 % 256 / 4 * 4 + 2) m ∧
    y = BitVec.ofNat 64 (2 ^ 63 + x.lhead) ∧ t = m.setCtx c { m.ctx c with lhead := (x.lhead + 1) % 2 ^ 16 })

/-- The outcome of a record (R353): a token's entry takes it; a paused engine thread goes on, or ends with the record's cause. -/
def Sys2Proof.Spec.outcome (s : State) (c recd : Nat) (rfs : Bool) (t : State) : Prop :=
  let ty := recd % 16
  let seq := recd / 2 ^ 48 % 2 ^ 16
  (ty = 1 → ∀ k fid f, s.flight? k fid = some f → ∃ f', t.flight? k fid = some f' ∧ (∀ x, f'.holds x = f.holds x) ∧
    ∀ j e, f.toks.get? j = some e → f'.toks.get? j = some (if f.ctx = c ∧ e.lrec = some seq then { e with res := if rfs then .refused else .retry } else e)) ∧
  (ty = 3 → let g := s.eng (recd / 2 ^ 32 % 128) (recd / 2 ^ 24 % 8)
    g.ctx = c → g.lrec = some seq → (∃ n, g.run = .paused n) → (t.eng (recd / 2 ^ 32 % 128) (recd / 2 ^ 24 % 8)).run =
      if rfs then .ended true (recd / 2 ^ 8 % 256) else .running) ∧
  (ty ≠ 1 → ty ≠ 3 → t = s)

/-- A taken record is resolved: its slot is free again and its outcome applies; while the context is saved out the slot keeps the outcome (STATE 11) instead (R353, R363). -/
def Sys2Proof.Spec.resolves (s : State) (c : Nat) (handle : W64) (rfs : Bool) (t : State) : Prop :=
  let q := handle.toNat % 2 ^ 16
  handle.toNat = 2 ^ 63 + q ∧ ∃ recd u m, Spec.lanternHolds s c q recd false u ∧ recd / 2 ^ 224 % 4 = 2 ∧ recd / 2 ^ 48 % 2 ^ 16 = q ∧
    ((s.ctx c).st = .saved ∧ Spec.lanternWrites u c q (recd / 2 ^ 224 % 256 / 8 * 8 + 3 + if rfs then 4 else 0) t ∨
     (s.ctx c).st ≠ .saved ∧ Spec.lanternWrites u c q (recd / 2 ^ 224 % 256 / 4 * 4) m ∧ Spec.outcome m c recd rfs t)

/-- TLBINV, LQPOP and LQDONE complete, and a driver's LQPOP, LQDONE and LQRFS do the same for a context of its VF that LQSEL names, and set LQERR or read 0 where it names none (R353, R361 to
R363, R374). -/
def Obligations.LanternQueueAndTlb : Prop :=
  (∀ (s : State) (h : Here) (v : View) (o : OpSpec),
    let c := (Spec.uniform s h v v.sa false).toNat
    let y := Spec.uniform s h v v.sbSrc true
    Spec.reaches s h.f.ctx c →
    (∀ a s1 f, Spec.privileged s h (.tlbinv a) v o → s.release h.c h.f.ctx 4 = .ok s1 () → s1.piecesOut c = false → s1.flight? h.c h.fid = some f →
      let n := (Spec.uniform s h v v.sc true).toNat
      (v.opt.getLsbD 0 = true → y.toNat % 4096 = 0 ∧ n % 4096 = 0) →
      ∃ t f', CompletesIn (.tlbinv a) s h v t f' Spec.nothing ∧ (∀ x, f'.holds x = f.holds x) ∧
        ∀ k e, e ∈ (t.core k).tlb ↔ e ∈ (s1.core k).tlb ∧
          ¬(e.ctx = c ∧ (v.opt.getLsbD 0 = false ∨ n ≠ 0 ∧ e.va.toNat < y.toNat + n ∧ y.toNat < e.va.toNat + 2 ^ e.bits))) ∧
    (∀ a p t f, Spec.privileged s h (.lqpop a) v o → Spec.pops s c p t → (t.acquire h.c 4 false).flight? h.c h.fid = some f →
      CompletesIn (.lqpop a) s h v (t.acquire h.c 4 false) f (Spec.answer h v p)) ∧
    ∀ a s1 t, Spec.privileged s h (.lqdone a) v o → s.release h.c h.f.ctx 4 = .ok s1 () → Spec.resolves s1 c y (v.opt.getLsbD 0) t →
      ∃ t' f, Spec.resolves s1 c y (v.opt.getLsbD 0) t' ∧ CompletesIn (.lqdone a) s h v t' f Spec.nothing) ∧
  ∀ (s : State) (vf : Nat),
    let c := (s.vf vf).lqsel
    let own := 21 ≤ c ∧ (s.ctx c).st ≠ .free ∧ (s.ctx c).func = vf
    (∀ p t, own → Spec.pops s c p t → exec (.vfLqpop vf) s = .next (t.emit (.hostData 0x0108 (p.setWidth 512) false))) ∧
    (¬own → exec (.vfLqpop vf) s = .next (s.emit (.hostData 0x0108 0 false))) ∧
    (∀ y t, own → Spec.resolves s c y false t → ∃ t', exec (.vfLqdone vf y) s = .next t' ∧ Spec.resolves s c y false t') ∧
    (∀ y t, own → Spec.resolves s c y true t → ∃ t', exec (.vfLqrfs vf y) s = .next t' ∧ Spec.resolves s c y true t') ∧
    ∀ y, ¬own → exec (.vfLqdone vf y) s = .next (s.setVf vf { s.vf vf with lqerr := true }) ∧
      exec (.vfLqrfs vf y) s = .next (s.setVf vf { s.vf vf with lqerr := true })

/-- CTXSAVE, CTXSAVE.DROP, CTXLOAD and CTXLOAD.RES complete. CTXSAVE stops the context and, once everything of it has landed, writes its image and leaves it SAVED with its counter raised and its cores
free; CTXLOAD takes only an image that this device made under the context's key with the counter that the context holds, and places it on the same cores; DROP leaves the context IDLE and
nothing to load; RES lets a context halted for a resumable cause go on (R383 to R391). -/
def Obligations.ContextSaveAndRestore : Prop :=
  ∀ (s : State) (h : Here) (v : View) (o : OpSpec),
    let c := (Spec.uniform s h v v.sa false).toNat
    let gpa := (Spec.uniform s h v v.sbSrc true).toNat
    let x := s.ctx c
    let mine := h.r.waiting = true ∧ x.saving = some (h.c, h.fid)
    let moves := 21 ≤ c ∧ c ≤ 4095 ∧ (x.st = .free ∨ Spec.reaches s h.f.ctx c)
    let status (code n : Nat) : W64 := BitVec.ofNat 64 (2 ^ 63 + code * 2 ^ 48 + n)
    moves →
    (∀ a lim, Spec.privileged s h (.ctxsave a) v o → lim = (Spec.uniform s h v v.sc false).toNat → gpa % 256 = 0 →
      (¬mine → x.st = .free ∨ x.st = .saved → Completes (.ctxsave a) s h v false (Spec.answer h v (status 1 0))) ∧
      (¬mine → x.st ≠ .free → x.st ≠ .saved → s.transferring c = true → Completes (.ctxsave a) s h v false (Spec.answer h v (status 2 0))) ∧
      (∀ s1, ¬mine → x.st ≠ .free → x.st ≠ .saved → s.transferring c = false → s.covered (s.funcOf c) gpa lim = true → s.release h.c h.f.ctx 4 = .ok s1 () →
        exec (.ctxsave a) s = .next (((s1.stopCtx c).setCtx c { (s1.stopCtx c).ctx c with saving := some (h.c, h.fid), claims := [] }).keepRun h)) ∧
      ∀ s1 m f, mine → s.quiet c = true → s.releaseCtx c = .ok s1 () →
        let cs := (s1.coresOf c).map fun k => s1.saveCore c k
        let n := s1.imageLen cs
        let count := ((s1.ctx c).saveCnt + 1) % 2 ^ 64
        let bytes := imageBytes (imageHeader (s1.funcOf c) c count n cs ((s1.ctx c).st == .halted) (s1.ctx c).cause) n s1.free
        n ≤ lim → ({ s1 with free := s1.free + 1 } : State).writeImage (s1.funcOf c) gpa (n / 64 + 1) bytes = .ok m none → (m.freeCtx c).flight? h.c h.fid = some f →
        ∃ t f' im, CompletesIn (.ctxsave a) s h v t f' (Spec.answer h v (BitVec.ofNat 64 n)) ∧ (∀ x, f'.holds x = f.holds x) ∧
          (t.ctx c).st = .saved ∧ (t.ctx c).saveCnt = count ∧ (t.ctx c).loadable = true ∧ t.images = m.images ++ [im] ∧
          im.ctx = c ∧ im.key = (s1.ctx c).key ∧ im.bytes = bytes ∧ im.cores = cs ∧
          ∀ k, m.coreCtx k = some c → (t.core k).launch = none ∧ (t.core k).flights = .empty ∧ (t.core k).blocks = .empty) ∧
    (∀ a, Spec.privileged s h (.ctxsaveDrop a) v o →
      (x.st = .free → Completes (.ctxsaveDrop a) s h v false (Spec.answer h v (status 1 0))) ∧
      ∀ t f, x.st ≠ .free → s.transferring c = false → s.dropCtx c = .ok t () → t.flight? h.c h.fid = some f →
        CompletesIn (.ctxsaveDrop a) s h v t f (Spec.answer h v 0) ∧ (t.ctx c).st = .idle ∧ (t.ctx c).loadable = false ∧
        ∀ k la, t.launch? k = some la → la.ctx ≠ c) ∧
    (∀ a, Spec.privileged s h (.ctxload a) v o → gpa % 256 = 0 →
      (x.st ≠ .saved → Completes (.ctxload a) s h v false (Spec.answer h v (status 1 0))) ∧
      ∀ s1, x.st = .saved → (s.transferring c = true → mine) → s.release h.c h.f.ctx 4 = .ok s1 () →
        (∀ m im, s1.readSaved c gpa = .ok m (.ok im) → im ∈ m.images ∧ im.ctx = c ∧ im.key = (s1.ctx c).key ∧ (s1.ctx c).loadable = true ∧
          (∃ u hd, s1.readImage (s1.funcOf c) gpa 4 256 [] = .ok u (some hd) ∧ numOfBytes hd / 2 ^ 64 % 2 ^ 64 = (s1.ctx c).saveCnt) ∧ ∀ y, y ∈ im.cores → m.corePresent y.core = true) ∧
        (∀ m code f, s1.readSaved c gpa = .ok m (.error code) → m.flight? h.c h.fid = some f →
          let m1 := m.setCtx c { m.ctx c with saving := none, claims := [] }
          ∃ t f', CompletesIn (.ctxload a) s h v t f' (Spec.answer h v (status code 0)) ∧ t = if code = 7 then m1 else m1.postEvent 2 code c (BitVec.ofNat 64 gpa)) ∧
        (∀ m im, s1.readSaved c gpa = .ok m (.ok im) → (∃ y, y ∈ im.cores ∧ m.coreFree y.core = false) →
          exec (.ctxload a) s = .next ((m.setCtx c { m.ctx c with saving := some (h.c, h.fid), claims := im.cores.map (·.core) }).keepRun h)) ∧
        ∀ m im t f, s1.readSaved c gpa = .ok m (.ok im) → (∀ y, y ∈ im.cores → m.coreFree y.core = true) → m.loadImage c im = .ok t () →
          (t.acquire h.c 4 false).flight? h.c h.fid = some f →
          CompletesIn (.ctxload a) s h v (t.acquire h.c 4 false) f (Spec.answer h v 0) ∧ (t.ctx c).loadable = false ∧
          (im.cores = [] → (m.ctx c).heldCause = none → numOfBytes (im.bytes.take 36) / 2 ^ 264 % 2 = 0 → (t.ctx c).st = .idle)) ∧
    ∀ a, Spec.privileged s h (.ctxloadRes a) v o →
      (x.st ≠ .halted ∨ x.cause = 4 ∨ x.cause = 8 → Completes (.ctxloadRes a) s h v false (Spec.answer h v (status 1 0))) ∧
      (x.st = .halted → x.cause ≠ 4 → x.cause ≠ 8 → s.transferring c = false →
        CompletesIn (.ctxloadRes a) s h v (s.setCtx c { x with st := if s.coresOf c = [] then .idle else .resident, cause := 0 }) h.f (Spec.answer h v 0))

-- ---------------------------------------------------------------------------------------------
-- The racking processor

/-- What a fork handle names for a flight: a fork that its own block has made on its core (R264). -/
def Sys2Proof.Spec.ownFork (s : State) (h : Here) (x : W64) (gen : Nat) : Prop :=
  gen = x.toNat / 8 ∧ gen < 2 ^ 32 ∧ gen < (s.core h.c).nextFork ∧ ∃ home b, s.blockOf h.f = some (home, b) ∧ (s.core h.c).forks.get? gen = some (home, h.f.block)

/-- The state word of a fork (R268): STATE, CAUSE and the engine thread. -/
def Sys2Proof.Spec.forkState (g : Eng) (gen e : Nat) : W64 :=
  let st : Nat := if g.gen ≠ gen then 0 else match g.run with
    | .running => 1
    | .heldCb _ => 1
    | .paused c => 2 + c * 2 ^ 8
    | .ended true c => 3 + c * 2 ^ 8
    | _ => 0
  BitVec.ofNat 64 (st + e * 2 ^ 16)

/-- RFORK, RJOIN and RSTAT complete. RFORK takes the lowest free engine thread of the core and starts it at the address with four registers of the flight as its first; RJOIN goes on when the fork is
no longer live and waits while it is; RSTAT reads its state (R264 to R268). -/
def Obligations.ForksComplete : Prop :=
  ∀ (s : State) (h : Here) (v : View) (o : OpSpec),
    let g := lanesOf (guardMask v.grd h.r)
    (∀ a n home b, Ready s h (.rfork a) v o → guardMask v.grd h.r = BitVec.allOnes 32 → (∀ l, l < 32 → (h.f.thread l).live = true) →
      let pc := (operandA s h v o 0).bits
      let gen := (s.core h.c).nextFork
      pc.toNat % 4 = 0 → canonical pc = true → n < 8 → (s.eng h.c n).active = false → (∀ j, j < n → (s.eng h.c j).active = true) → s.blockOf h.f = some (home, b) →
      ∃ t f', CompletesIn (.rfork a) s h v t f' (Spec.answer h v (BitVec.ofNat 64 (n + gen % 2 ^ 32 * 8))) ∧ (∀ x, f'.holds x = h.f.holds x) ∧
        (t.core h.c).nextFork = gen + 1 ∧ (t.core h.c).forks.get? gen = some (home, h.f.block) ∧
        (t.eng h.c n).run = .running ∧ (t.eng h.c n).gen = gen ∧ (t.eng h.c n).pc = pc.setWidth 57 ∧ (t.eng h.c n).ctx = h.f.ctx ∧
        (∀ la, s.launch? h.f.launch = some la → (t.eng h.c n).sysLaunch = la.id) ∧ (t.eng h.c n).home = home ∧ (t.eng h.c n).block = h.f.block ∧ (t.eng h.c n).slots = .empty ∧ (∀ i, (t.eng h.c n).walker i = 0) ∧
        (∀ i, (t.eng h.c n).reg i = if i < 4 then h.r.sreg (v.sbSrc.idx.toNat + i) else 0) ∧ ∀ j, j ≠ n → t.eng h.c j = s.eng h.c j) ∧
    (∀ a (gen : Nat → Nat), Ready s h (.rjoin a) v o → (∀ l, l ∈ g → (operandA s h v o l).psn = false ∧ Spec.ownFork s h (operandA s h v o l).bits (gen l)) →
      let live (l : Nat) : Prop := (s.eng h.c ((operandA s h v o l).bits.toNat % 8)).active = true ∧ (s.eng h.c ((operandA s h v o l).bits.toNat % 8)).gen = gen l
      ((∀ l, l ∈ g → ¬live l) → ∃ t f', InOrder (fun u _ u' => u' = u.acquireBy h.c h.f 4) g s t ∧ CompletesIn (.rjoin a) s h v t f' Spec.nothing ∧
        ∀ x, f'.holds x = h.f.holds x) ∧
      ((∀ l, l ∈ g → live l) → h.r.isLast = true → guardMask v.grd h.r = h.r.exec → WaitsIn (.rjoin a) s h s h.f fun l => .rjoin (gen l))) ∧
    ∀ a, Ready s h (.rstat a) v o →
      (∀ l, l ∈ g → (operandA s h v o l).psn = false ∧ ∃ gen, Spec.ownFork s h (operandA s h v o l).bits gen) →
      Completes (.rstat a) s h v false (resultOf h v o fun l =>
        let x := (operandA s h v o l).bits.toNat
        Spec.forkState (s.eng h.c (x % 8)) (x / 8) (x % 8))

/-- The cursor is at an engine thread, which executes a legal instruction (R49, R263). -/
def Sys2Proof.Spec.racking (s : State) (c e : Nat) (g : Eng) (i : Instr) (v : View) (o : OpSpec) : Prop :=
  s.cur = ⟨c, e, true⟩ ∧ (s.core c).engs.get? e = some g ∧ i.view? = some (v, o) ∧ o.legal v = true

/-- The sources of an engine instruction (R48, R269). -/
def Sys2Proof.Spec.rackSrc (s : State) (c e : Nat) (g : Eng) (x : Src) : W64 :=
  match x.cls with
  | .v => g.reg x.idx.toNat
  | .imm => x.idx.signExtend 64
  | .sys => match x.idx.toNat with
    | 0 => BitVec.ofNat 64 e
    | 1 => BitVec.ofNat 64 (e + g.gen % 2 ^ 32 * 8)
    | 2 => BitVec.ofNat 64 g.flight
    | 3 => BitVec.ofNat 64 (g.block % 2 ^ 32)
    | 4 => BitVec.ofNat 64 (g.sysLaunch % 2 ^ 32)
    | 5 => BitVec.ofNat 64 c
    | 7 => BitVec.ofNat 64 s.clock
    | _ => 0
  | _ => 0

/-- SB, or the immediate in its place, sign-extended. -/
def Sys2Proof.Spec.rackB (s : State) (c e : Nat) (g : Eng) (v : View) : W64 :=
  match v.sb with
  | .src b => Spec.rackSrc s c e g b
  | .imm x => x.signExtend 64

/-- The results of the scalar engine instructions (R271). -/
def Sys2Proof.Spec.rackResult (v : View) (x y : W64) : Instr → Option W64
  | .eadd _ => some (x + y)
  | .eaddI _ => some (x + y)
  | .esub _ => some (x - y)
  | .esubI _ => some (x - y)
  | .emul _ => some (x * y)
  | .eand _ => some (x &&& y)
  | .eandI _ => some (x &&& y)
  | .eor _ => some (x ||| y)
  | .eorI _ => some (x ||| y)
  | .exor _ => some (x ^^^ y)
  | .exorI _ => some (x ^^^ y)
  | .eshl _ => some (BitVec.ofNat 64 (x.toNat * 2 ^ y.toNat))
  | .eshlI _ => some (BitVec.ofNat 64 (x.toNat * 2 ^ y.toNat))
  | .eshr _ => some (BitVec.ofNat 64 (x.toNat / 2 ^ y.toNat))
  | .eshrI _ => some (BitVec.ofNat 64 (x.toNat / 2 ^ y.toNat))
  | .ecmp _ => some (if Spec.compare v.z.toNat (if v.ty = .i64 then x.toInt else x.toNat) (if v.ty = .i64 then y.toInt else y.toNat) then 1 else 0)
  | .ecmpI _ => some (if Spec.compare v.z.toNat (if v.ty = .i64 then x.toInt else x.toNat) (if v.ty = .i64 then y.toInt else y.toNat) then 1 else 0)
  | .emov _ => some x
  | _ => none

/-- The scalar instructions and branches of an engine thread complete: one register is written and the thread goes on behind, or at the target of a branch that is taken (R269 to R272). A target
that is not aligned or not canonical is a fault that ends the thread (R272, R294). -/
def Obligations.EngineScalarResults : Prop :=
  ∀ (s : State) (c e : Nat) (g : Eng) (i : Instr) (v : View) (o : OpSpec), Spec.racking s c e g i v o →
    let x := Spec.rackSrc s c e g v.sa
    let y := Spec.rackB s c e g v
    let put (g : Eng) (z : W64) : Eng := { g with e := g.e.set v.dst.idx.toNat z }
    let on (g : Eng) : State := s.setEng c e { g with pc := g.pc + 12 }
    let jump (g : Eng) (z : W64) (t : State) : Prop :=
      (z.toNat % 4 = 0 → canonical z = true → t = s.setEng c e { g with pc := z.setWidth 57 }) ∧
      (z.toNat % 4 ≠ 0 → t = s.engFault c e { cause := 2, va := z.toNat }) ∧
      (z.toNat % 4 = 0 → canonical z = false → t = s.engFault c e { cause := 5, va := z.toNat })
    (∀ z, Spec.rackResult v x y i = some z → exec i s = .next (on (put g z))) ∧
    (∀ a : ArgsI, i = .emovi a → exec i s = .next (on (put g
      (if v.z = 1 then (a.imm.setWidth 64 <<< 32) ||| (g.reg v.dst.idx.toNat &&& 0xFFFFFFFF#64) else a.imm.setWidth 64)))) ∧
    let target (r : Src) : W64 := match v.sb with
      | .src _ => Spec.rackSrc s c e g r
      | .imm z => (g.pc + z.signExtend 57 * 4).signExtend 64
    ((∃ a, i = .ebr a) ∨ (∃ a, i = .ebrI a) →
      ((x = 0 ↔ v.z = 1) → ∃ t, exec i s = .next t ∧ jump g (target v.sbSrc) t) ∧ (¬(x = 0 ↔ v.z = 1) → exec i s = .next (on g))) ∧
    ((∃ a, i = .ejmp a) ∨ (∃ a, i = .ejmpI a) → ∃ t, exec i s = .next t ∧ jump g (target v.sa) t) ∧
    ((∃ a, i = .eloop a) ∨ (∃ a, i = .eloopI a) →
      (x = 1 → exec i s = .next (on (put g 0))) ∧ (x ≠ 1 → ∃ t, exec i s = .next t ∧ jump (put g (x - 1)) (target v.sbSrc) t))

/-- n bytes of global memory that no transfer owns, read by an engine thread at its address (R273). -/
def Sys2Proof.Spec.rackReads (s : State) (c : Nat) (g : Eng) (scp : Nat) (a : W64) (n : Nat) (x : Nat) (psn : Bool) (t : State) : Prop :=
  ∃ m gpa cls, a.toNat % n = 0 ∧ s.engTranslate c g.ctx a false = .ok m (.ok (gpa, cls)) ∧ (m.home (secKey (m.funcOf g.ctx) (gpa / 64))).owner = none ∧
    m.readN c (if scp = 5 then .ctl else if scp = 6 then .agent else .home) (m.funcOf g.ctx) gpa cls n = .ok t (x, psn)

/-- The bits lo to lo + n of a descriptor are replaced (R275). -/
def Sys2Proof.Spec.fieldSet (w w' : BitVec 512) (lo n : Nat) (x : W64) : Prop :=
  ∀ k, k < 512 → w'.getLsbD k = if lo ≤ k ∧ k < lo + n then x.getLsbD (k - lo) else w.getLsbD k

/-- The place and width of a walker field (R275, R277). -/
def Sys2Proof.Spec.fieldAt (f : Nat) : Nat × Nat :=
  if f = 1 then (0, 64) else if f ≤ 6 then (64 + 32 * (f - 2), 32) else if f ≤ 11 then (224 + 32 * (f - 7), 32) else (384, 8)

/-- The memory and walker instructions of an engine thread complete. ELD and WSET.LD read at once and hold the thread until ENGINE_LOAD_LANDING writes the register or walker and lets it go on; a
poisoned word is a fault; EST waits for earlier transfers and stores; WSET replaces a field and WSTEP moves a walker's base (R273 to R277). -/
def Sys2Proof.Spec.EngineMemoryAndWalkers : Prop :=
  ∀ (s : State) (c e : Nat) (g : Eng) (i : Instr) (v : View) (o : OpSpec),
    (Spec.racking s c e g i v o →
      let x := Spec.rackSrc s c e g v.sa
      let y := Spec.rackB s c e g v
      let n := v.ty.bytes
      let spad := v.opt.getLsbD 0
      let a := if spad then ((x + y).setWidth 32).setWidth 64 else x + y
      let ord := v.opt.toNat / 2 % 4
      (∀ z psn t, (∃ b, i = .eld b) ∨ (∃ b, i = .eldI b) →
        (spad = true ∧ t = s ∧ a.toNat % n = 0 ∧ ∃ b, s.block? g.home g.block = some b ∧ b.granted = true ∧ a.toNat + n ≤ b.spadHeld ∧
            z = b.spadNum a.toNat n ∧ psn = b.spadPsn a.toNat n ∨
         spad = false ∧ Spec.rackReads s c g v.scp a n z psn t) →
        (psn = false → let t' := if ord = 1 then t.acquire c v.scp false else t
          exec i s = .next (t'.setEng c e { t'.eng c e with load := some (.reg v.dst.idx.toNat (BitVec.ofNat 64 z)) })) ∧
        (psn = true → exec i s = .next (t.engFault c e { cause := 9, kind := 2, va := a.toNat }))) ∧
      (∀ b s1, i = .est b → g.slots.entries = [] → (if ord = 2 then s.release c g.ctx v.scp = .ok s1 () else s1 = s) → a.toNat % n = 0 →
        let z := (Spec.rackSrc s c e g v.sc).toNat % 2 ^ (8 * n)
        (∀ b, spad = true → s1.block? g.home g.block = some b → b.granted = true → a.toNat + n ≤ b.spadHeld →
          ∃ t b', exec i s = .next t ∧ t.block? g.home g.block = some b' ∧ b' = b.spadPut a.toNat n z false ∧ (t.eng c e).pc = g.pc + 12) ∧
        (∀ m gpa cls t, spad = false → s1.engTranslate c g.ctx a true = .ok m (.ok (gpa, cls)) →
          m.writeN c (if v.scp = 6 then .agent else if v.scp = 5 ∨ m.isRemote (m.funcOf g.ctx) gpa = true then .ctl else .home) (m.funcOf g.ctx) gpa cls n z =
            .ok t () →
          exec i s = .next (t.setEng c e { t.eng c e with pc := (t.eng c e).pc + 12 }))) ∧
      (∀ b z psn t, i = .wsetLd b → Spec.rackReads s c g 4 (x + y) 64 z psn t →
        (psn = false → exec i s = .next (t.setEng c e { t.eng c e with load := some (.walker v.dst.idx.toNat (BitVec.ofNat 512 z)) })) ∧
        (psn = true → exec i s = .next (t.engFault c e { cause := 9, kind := 2, va := (x + y).toNat }))) ∧
      (∀ b, i = .wset b → ∃ w, exec i s = .next (s.setEng c e { g with w := g.w.set v.dst.idx.toNat w, pc := g.pc + 12 }) ∧
        Spec.fieldSet (g.walker v.dst.idx.toNat) w (Spec.fieldAt (v.opt.toNat % 16)).1 (Spec.fieldAt (v.opt.toNat % 16)).2 x) ∧
      ∀ b, i = .wstep b →
        let w := g.walker v.dst.idx.toNat
        let d := v.sa.idx.toNat
        let nibble := w.toNat / 2 ^ 384 % 8 = 0 ∧ d = 0
        let str := (w.extractLsb' (224 + 32 * d) 32).toInt
        (nibble → y.toInt % 2 ≠ 0 → exec i s = .next (s.engFault c e { cause := 6 })) ∧
        ((nibble → y.toInt % 2 = 0) → ∃ w', exec i s = .next (s.setEng c e { g with w := g.w.set v.dst.idx.toNat w', pc := g.pc + 12 }) ∧
          Spec.fieldSet w w' 0 64 (w.extractLsb' 0 64 + BitVec.ofInt 64 (if nibble then y.toInt / 2 else y.toInt * str)))) ∧
    let held := s.mayRun (s.eng c e).ctx
    (∀ d z, (s.eng c e).load = some (.reg d z) → held = true →
      exec (.engineLoadLanding c e) s = .next (s.setEng c e { s.eng c e with e := (s.eng c e).e.set d z, load := none, pc := (s.eng c e).pc + 12 })) ∧
    (∀ d z, (s.eng c e).load = some (.walker d z) → held = true →
      exec (.engineLoadLanding c e) s = .next (s.setEng c e { s.eng c e with w := (s.eng c e).w.set d z, load := none, pc := (s.eng c e).pc + 12 })) ∧
    ((s.eng c e).load = none ∨ held = false → exec (.engineLoadLanding c e) s = .next s)

/-- The synchronising instructions of an engine thread complete: ECBADD releases and subtracts, ECBWAIT passes at an armed zero and is held otherwise, EFENCE releases and acquires, and EEND ends
the thread with STATE 00 (R290 to R293). ECBADD, EEND and a releasing EFENCE wait for the thread's transfers: nothing happens until they are complete. -/
def Sys2Proof.Spec.EngineSynchronisation : Prop :=
  ∀ (s : State) (c e : Nat) (g : Eng) (i : Instr) (v : View) (o : OpSpec), Spec.racking s c e g i v o →
    let on (t : State) : State := t.setEng c e { g with pc := g.pc + 12 }
    let number (b : Nat) : Prop := if v.sa.cls = .k then b = v.sa.idx.toNat else b = (Spec.rackSrc s c e g v.sa).toNat ∧ b < 64
    (∀ a b s1, i = .ecbadd a → number b → g.slots.entries = [] → s.release c g.ctx (s.cb c b).scope = .ok s1 () →
      exec i s = .next ((on s1).cbUpdate c b (-((Spec.rackB s c e g v).setWidth 32).toInt) g.ctx)) ∧
    (∀ a b, i = .ecbwait a → number b →
      ((s.cb c b).armed = true → (s.cb c b).count = 0 → exec i s = .next ((on s).acquire c (s.cb c b).scope false)) ∧
      ((s.cb c b).armed = false ∨ (s.cb c b).count ≠ 0 → exec i s = .next (s.setEng c e { g with run := .heldCb b }))) ∧
    (∀ a, (i = .ecbadd a ∨ i = .eend a ∨ i = .efence a ∧ v.opt.getLsbD 1 = true) → g.slots.entries ≠ [] → exec i s = .next s) ∧
    (∀ a s1, i = .efence a → (if v.opt.getLsbD 1 then g.slots.entries = [] ∧ s.release c g.ctx v.scp = .ok s1 () else s1 = s) →
      exec i s = .next (on (if v.opt.getLsbD 0 then s1.acquire c v.scp false else s1))) ∧
    ∀ a, i = .eend a → g.slots.entries = [] → ∃ t, exec i s = .next t ∧ (t.eng c e).run = .ended false 0 ∧
      ∀ fid l p f, s.flight? c fid = some f → (f.thread l).hold = .rjoin g.gen p → ∃ f', t.flight? c fid = some f' ∧ (f'.thread l).hold = .none ∧ (f'.thread l).pc = p.next

/-- Loads, stores, walkers, barriers and the end of an engine thread. -/
def Obligations.EngineMemoryAndSynchronisation : Prop := Spec.EngineMemoryAndWalkers ∧ Spec.EngineSynchronisation

/-- The operation, the three walkers and the scalar operand of a transfer instruction (R278, R283 to R289). -/
def Sys2Proof.Spec.transferForm (v : View) : Instr → Option (Nat × Src × Src × Src × Option Src)
  | .tcopy _ => some (0, v.sa, v.sbSrc, Src.zero, none)
  | .texp _ => some (1, Src.zero, v.sbSrc, v.sc, some v.sa)
  | .tpack _ => some (2, v.sa, v.sbSrc, v.sc, none)
  | .tgath _ => some (3, v.sa, v.sbSrc, v.sc, none)
  | .tscat _ => some (4, v.sa, v.sbSrc, v.sc, none)
  | .treg _ => some (5, v.sa, Src.zero, Src.zero, some v.sbSrc)
  | _ => none

/-- The address of a position of a walk over elements of at least 8 bits (R276): the digits of the position in the extents, each times its stride. -/
def Sys2Proof.Spec.walkAt (w : BitVec 512) (digit : Nat → Nat) : W64 :=
  let str (d : Nat) : Int := (w.extractLsb' (224 + 32 * d) 32).toInt
  w.extractLsb' 0 64 + BitVec.ofInt 64 (digit 0 * str 0 + digit 1 * str 1 + digit 2 * str 2 + digit 3 * str 3 + digit 4 * str 4)

/-- The transfers issue, and PIECE_LAND lands their pieces. An issue takes the lowest free slot, captures the walkers and goes on; without a free slot the thread stays where it is. The walk of R276
gives each position its address. A piece that lands in scratchpad leaves its bits there, a barrier that the transfer names counts the bytes, and the piece is done; nothing lands for a thread
that is paused or ended (R276, R278 to R281, R285). -/
def Obligations.TransfersComplete : Prop :=
  (∀ (s : State) (c e : Nat) (g : Eng) (i : Instr) (v : View) (o : OpSpec) (op : Nat) (wa wb wc : Src) (scal : Option Src), Spec.racking s c e g i v o →
    Spec.transferForm v i = some (op, wa, wb, wc, scal) →
    ((∀ k, k < 4 → (g.slots.get? k).isSome = true) → exec i s = .next s) ∧
    ∀ slot, slot < 4 → g.slots.get? slot = none → (∀ k, k < slot → (g.slots.get? k).isSome = true) →
      let cap (x : Src) : BitVec 512 := if x.cls = .s then g.walker x.idx.toNat else 0
      ∃ t : Transfer, t.op = op ∧ t.args.view = v ∧ t.wa = cap wa ∧ t.wb = cap wb ∧ t.wc = cap wc ∧ t.scal = (scal.map (Spec.rackSrc s c e g)).getD 0 ∧ t.next = 0 ∧ t.done = false ∧
        t.flight = .empty ∧ t.owned = .empty ∧ (∀ k u, g.slots.get? k = some u → u.seq < t.seq) ∧
        ((∃ cause, s.transferBad g t = some cause ∧
            exec i s = .next (s.setEng c e { g with slots := g.slots.set slot { t with bad := some cause }, pc := g.pc + 12 })) ∨
         (s.transferBad g t = none ∧ (op ≠ 5 → ∀ s1 own, s.takeOwners c e slot g.ctx t (if op = 4 then [] else (List.range t.pieces.length).zip t.pieces) = .ok s1 own →
            exec i s = .next (s1.setEng c e { g with slots := g.slots.set slot { t with bad := none, owned := own }, pc := g.pc + 12 })) ∧
           (op = 5 → ∃ u, exec i s = .next u ∧ (u.eng c e).slots.get? slot = some { t with bad := none } ∧ (u.eng c e).pc = g.pc + 12 ∧
             ∀ k fid f l j, s.tregFlight g (t.scal.toNat % 256) = some (k, fid, f) → l < 32 → (f.thread l).live = true → j < v.sc.idx.toNat →
               ∃ f', u.flight? k fid = some f' ∧ ((f'.thread l).vreg (t.scal.toNat / 256 % 256 + j)).pend = true)))) ∧
  (∀ (w : BitVec 512) (digit : Nat → Nat), w.toNat / 2 ^ 384 % 8 ≠ 0 → wSpace w = 0 → (∀ d, d < 5 → digit d < wExt w d) →
    (wAt w (digit 0 + wExt w 0 * (digit 1 + wExt w 1 * (digit 2 + wExt w 2 * (digit 3 + wExt w 3 * digit 4))))).1 = Spec.walkAt w digit) ∧
  (∀ (s : State) (c e slot k : Nat), let g := s.eng c e
    ((∀ n, g.run ≠ .heldCb n) → g.run ≠ .running → exec (.pieceLand c e slot k) s = .next { s with cur := ⟨c, e, true⟩ }) ∧
    ∀ (t : Transfer) (p : Cap) (b : Block), g.run = .running → s.mayRun g.ctx = true → g.slots.get? slot = some t → t.flight.get? k = some p → p.space = 1 →
      s.block? p.core p.block = some b → (∀ x, x ∈ p.bytes → x.val < 256) → (p.bytes.map (·.pos)).Nodup → t.owned.get? k = none →
      (t.args.opt.getLsbD 7 = true ∨ -(2 ^ 39) ≤ (s.cb c t.args.dst.idx.toNat).count - p.count ∧ (s.cb c t.args.dst.idx.toNat).count - p.count < 2 ^ 39) →
      ∃ u b', exec (.pieceLand c e slot k) s = .next u ∧ u.block? p.core p.block = some b' ∧
        (∀ x, x ∈ p.bytes → b'.spadNum x.pos 1 = Nat.lor (Nat.land x.val x.mask) (Nat.land (b.spadNum x.pos 1) (255 - x.mask))) ∧
        (∀ a, (∀ x, x ∈ p.bytes → x.pos ≠ a) → b'.spadNum a 1 = b.spadNum a 1) ∧
        (∀ t', (u.eng c e).slots.get? slot = some t' → t'.flight.get? k = none) ∧
        (t.args.opt.getLsbD 7 = true → u.cb c = s.cb c) ∧
        (t.args.opt.getLsbD 7 = false → ∀ cb, cb = s.cb c t.args.dst.idx.toNat → cb.queue = [] → cb.armed = false → cb.sat = false →
          u.cb c t.args.dst.idx.toNat = { cb with count := cb.count - p.count })) ∧
  ∀ (f : Nat) (xs : List FVal), f = 2 ∨ f = 3 ∨ f = 4 → 
    (FVal.nan ∈ xs ∨ (∃ b, FVal.inf b ∈ xs) → mxQuant f xs = (0xFF, xs.map fun _ => 0)) ∧
    ((∀ x, x ∈ xs → ∃ b e, x = FVal.fin b 0 e) → (mxQuant f xs).1 = 127)

-- ---------------------------------------------------------------------------------------------
-- The Trellis

/-- The checks of a node record's fields (R393, R403). -/
def Sys2Proof.Spec.nodeRecord (r : Nat) : Prop :=
  let bits (lo n : Nat) : Nat := r / 2 ^ lo % 2 ^ n
  bits 12 4 = 0 ∧ bits 58 6 = 0 ∧ bits 832 192 = 0 ∧ bits 48 2 ≠ 3 ∧ bits 54 4 ≤ 9 ∧ bits 448 64 % 8 = 0 ∧
  (∀ i, i < 16 → bits (576 + 16 * i) 16 = 0xFFFF ∨ bits (576 + 16 * i) 16 ≤ 4095) ∧
  (bits 31 1 = 0 → (∀ i, i < 8 → bits (1121 + 128 * i) 31 = 0) ∧
    1 ≤ bits 128 32 * bits 160 32 * bits 192 32 ∧ bits 128 32 * bits 160 32 * bits 192 32 ≤ 2 ^ 32 ∧
    bits 224 32 % 16 = 0 ∧ bits 256 64 % 16 = 0 ∧ bits 320 64 % 4 = 0 ∧ bits 384 64 % 64 = 0 ∧ bits 64 64 % 64 = 0)

/-- The partition of a node to post: its context is open to the poster, in the poster's partition (R403). -/
def Sys2Proof.Spec.postsTo (s : State) (own ctx p : Nat) : Prop := Spec.reaches s own ctx ∧ s.partOf ctx = some p ∧ (own = 0 ∨ s.partOf own = some p)

/-- What the process-group table and the kernel descriptor of a node come to (R401, R403): `m` is the state after the reads. -/
def Sys2Proof.Spec.nodeParts (s : State) (r : Nat) (m : State) (nc rank : Nat) (d : BitVec 512) : Prop :=
  let event := r / 2 ^ 31 % 2 = 1
  let ctx := r / 2 ^ 16 % 2 ^ 12
  ∃ u, ((event ∨ r / 2 ^ 384 % 2 ^ 64 = 0) ∧ u = s ∧ nc = 0 ∧ rank = 0 ∨
        ¬event ∧ r / 2 ^ 384 % 2 ^ 64 ≠ 0 ∧ ∃ t, s.readPgt ctx (BitVec.ofNat 64 (r / 2 ^ 384 % 2 ^ 64)) = (u, .ok t) ∧ nc = t.healthyComps.length ∧
          t.healthyComps[rank]? = some s.ident.toNat ∧ ∀ j, j < rank → t.healthyComps[j]? ≠ some s.ident.toNat) ∧
    (event ∧ m = u ∧ d = 0 ∨
     ¬event ∧ ∃ x, u.readBytes ctx (BitVec.ofNat 64 (r / 2 ^ 64 % 2 ^ 64)) 64 = (m, .ok x) ∧ d = BitVec.ofNat 512 x ∧ kValid d = true)

/-- A node completes once its completion value is written: each successor's count falls once for each entry that names it, a WAITING one whose count reaches 0 is READY, and the id is EMPTY with its
count kept (R395, R396). -/
def Sys2Proof.Spec.completes (s : State) (p id : Nat) (node : Node) (t : State) : Prop :=
  let r := node.recd.toNat
  ∃ m, (if r / 2 ^ 448 % 2 ^ 64 = 0 then m = s else s.doneWrite (r / 2 ^ 16 % 2 ^ 12) (BitVec.ofNat 64 (r / 2 ^ 448 % 2 ^ 64)) (r / 2 ^ 512 % 2 ^ 64) = .ok m ()) ∧
    (t.part p).nodes.get? id = none ∧
    (∀ k, (t.part p).counts.getD k 0 = (m.part p).counts.getD k 0 - ((List.range 16).filter fun i => r / 2 ^ (576 + 16 * i) % 2 ^ 16 == k && k != 0xFFFF).length) ∧
    (∀ k n, k ≠ id → (m.part p).nodes.get? k = some n → n.st = .waiting → (∃ i, i < 16 ∧ r / 2 ^ (576 + 16 * i) % 2 ^ 16 = k) → k ≠ 0xFFFF →
      ∃ n', (t.part p).nodes.get? k = some n' ∧ n'.recd = n.recd ∧ (n'.st = .ready ↔ (t.part p).counts.getD k 0 ≤ 0)) ∧
    t.mem = m.mem ∧ t.ctxs = m.ctxs ∧ t.cores = m.cores

/-- TGPOST and TGDONE complete. TGPOST enters a node with its count, the descriptor and the share that it read, and answers nc and r; a record that breaks a rule, a busy id, a full quota or a foreign
context gives its status and changes no node. TGDONE completes a READY event node (R393 to R396, R401 to R404). -/
def Obligations.NodePosting : Prop :=
  ∀ (s : State) (h : Here) (v : View) (o : OpSpec) (f : Flight), s.flight? h.c h.fid = some f →
    let status (code : Nat) : W64 := BitVec.ofNat 64 (2 ^ 63 + code * 2 ^ 48)
    (∀ a r s1, Spec.privileged s h (.tgpost a) v o →
      let va := Spec.uniform s h v v.sa true
      let id := r % 2 ^ 12
      let ctx := r / 2 ^ 16 % 2 ^ 12
      va.toNat % 64 = 0 → s.readBytes h.f.ctx va 256 = (s1, .ok r) →
      let refused (code : Nat) : Prop := ∃ t f', CompletesIn (.tgpost a) s h v t f' (Spec.answer h v (status code)) ∧ (∀ x, f'.holds x = f.holds x) ∧ t.parts = s.parts
      (¬Spec.nodeRecord r → refused 1) ∧
      (Spec.nodeRecord r → (∀ p, ¬Spec.postsTo s1 h.f.ctx ctx p) → refused 4) ∧
      ∀ p, Spec.nodeRecord r → Spec.postsTo s1 h.f.ctx ctx p →
        ((s1.part p).nodes.has id = true → refused 2) ∧
        ((s1.part p).nodes.has id = false → (s1.part p).desc.toNat / 2 ^ 192 % 2 ^ 16 ≤ (s1.part p).nodes.entries.length → refused 3) ∧
        ∀ m nc rank d, (s1.part p).nodes.has id = false → (s1.part p).nodes.entries.length < (s1.part p).desc.toNat / 2 ^ 192 % 2 ^ 16 →
          Spec.nodeParts s1 r m nc rank d →
          ∃ t f' node, CompletesIn (.tgpost a) s h v t f' (Spec.answer h v (BitVec.ofNat 64 (nc * 2 ^ 16 + rank))) ∧ (∀ x, f'.holds x = f.holds x) ∧
            (t.part p).nodes.get? id = some node ∧ node.recd = BitVec.ofNat 2048 r ∧ node.desc = d ∧ node.nc = nc ∧ node.r = rank ∧
            (t.part p).counts.getD id 0 = (r / 2 ^ 32 % 2 ^ 16 : Nat) + (s.part p).counts.getD id 0 ∧
            node.st = (if (t.part p).counts.getD id 0 ≤ 0 then .ready else .waiting) ∧
            (∀ k, k ≠ id → (t.part p).nodes.get? k = (s.part p).nodes.get? k ∧ (t.part p).counts.get? k = (s.part p).counts.get? k) ∧
            ∀ q, q ≠ p → t.part q = s.part q) ∧
    ∀ a p, Spec.privileged s h (.tgdone a) v o → s.partOf h.f.ctx = some p →
      let id := (Spec.uniform s h v v.sa false).toNat
      let event (n : Node) : Prop := n.recd.toNat / 2 ^ 31 % 2 = 1
      ((4095 < id ∨ (s.part p).nodes.get? id = none ∨ ∃ n, (s.part p).nodes.get? id = some n ∧ ¬event n) →
        Completes (.tgdone a) s h v false (Spec.answer h v (status 1))) ∧
      (∀ n, id ≤ 4095 → (s.part p).nodes.get? id = some n → event n → n.st = .waiting → Completes (.tgdone a) s h v false (Spec.answer h v (status 6))) ∧
      ∀ n m, id ≤ 4095 → (s.part p).nodes.get? id = some n → event n → n.st ≠ .waiting → s.nodeComplete p id = .ok m () →
        Spec.completes s p id n m ∧ ∀ f', m.flight? h.c h.fid = some f' → CompletesIn (.tgdone a) s h v m f' (Spec.answer h v 0)

/-- A flight as a launch admits it: the lanes of flight idx of a block start at the entry point with their stacks' tops and no register, predicate or token set (R95, R187, R394). -/
def Sys2Proof.Spec.newFlight (l : Nat) (la : Launch) (block idx : Nat) (f : Flight) : Prop :=
  let d := la.desc.toNat
  f.ctx = la.ctx ∧ f.launch = l ∧ f.block = block ∧ f.idx = idx ∧ idx < d / 2 ^ 48 % 2 ^ 16 ∧ f.allot = 16 ∧ f.run = none ∧ f.toks = .empty ∧
  (∀ i, f.s.getD i 0 = 0) ∧ (∀ i, f.k.getD i 0 = 0) ∧
  ∀ j, j < 32 → (f.thread j).live = true ∧ (f.thread j).pc = BitVec.ofNat 57 (d / 2 ^ 64 % 2 ^ 64) ∧ (f.thread j).hold = .none ∧ (f.thread j).depth = 0 ∧
    (f.thread j).preds = 0 ∧ (∀ i, (f.thread j).vreg i = ⟨0, false, false⟩) ∧
    (f.thread j).sp = la.stackBase + BitVec.ofNat 64 (((block * (d / 2 ^ 48 % 2 ^ 16) + idx) * 32 + j + 1) * la.stackSz)

/-- A launch enters: it gets the next key, its context is RESIDENT and counts it, and its first unit's cores are its own (R377, R394, R399). -/
def Sys2Proof.Spec.enters (s : State) (la : Launch) (t : State) : Prop :=
  ∃ cores, t.launch? s.nextLaunch = some { la with cores := cores } ∧ t.nextLaunch = s.nextLaunch + 1 ∧ (∀ c, c ∈ cores → (t.core c).launch = some s.nextLaunch) ∧
    (t.ctx la.ctx).launches = ((s.ctx la.ctx).launches + 1) % 2 ^ 32 ∧ ((s.ctx la.ctx).st = .idle → (t.ctx la.ctx).st = .resident) ∧ t.mem = s.mem

/-- The Trellis's events. BLOCK_ADMIT admits the next block or group in order, with fresh flights; NODE_DISPATCH takes the first ready node that can be placed and runs it here, or ships it;
LAUNCH_COMPLETE completes the node of a launch whose flights have all exited; ROOT_PROGRAM_START starts a steward's program; SLICE_EXPIRY serves the next VF with ready nodes
(R21, R215, R382, R392 to R399). -/
def Sys2Proof.Spec.TrellisEventsComplete : Prop :=
  (∀ (s : State) (l : Nat),
    (s.launch? l = none → exec (.blockAdmit l) s = .next s) ∧
    ∀ la, s.launch? l = some la →
      let root := la.node.isNone && la.packet.isNone
      (s.mayPlace la.ctx root = false ∨ s.admitNext l = none → exec (.blockAdmit l) s = .next s) ∧
      ∀ t, 1 ≤ la.group → s.mayPlace la.ctx root = true → s.admitNext l = some t → exec (.blockAdmit l) s = .next t ∧ la.next < la.stop ∧
        ((∃ n cores, 1 ≤ n ∧ n ≤ la.group ∧ t.launch? l = some { la with next := la.next + n, live := la.live + n, cores := cores } ∧
            ∀ c fid f, t.flight? c fid = some f → s.flight? c fid = some f ∨ ∃ b idx, la.next ≤ b ∧ b < la.next + n ∧ Spec.newFlight l la b idx f) ∨
         (∃ cores, t.launch? l = some { la with cores := cores }) ∧ ∀ c fid, t.flight? c fid = s.flight? c fid)) ∧
  (∀ (s : State) (p : Nat), p < 20 → s.recovery = false →
    (∀ e, e ∈ s.readyNodes p → (s.part p).nodes.get? e.1 = some e.2 ∧ e.2.st = .ready ∧ e.2.recd.toNat / 2 ^ 31 % 2 = 0) ∧
    (s.readyNodes p).Pairwise (fun a b => a.2.recd.toNat / 2 ^ 28 % 4 * 2 ^ 64 + a.2.order < b.2.recd.toNat / 2 ^ 28 % 4 * 2 ^ 64 + b.2.order) ∧
    (∀ id node m, (∀ k h, s.shipTo p node = .ok m (some (k, h)) → s.goingOf p id node = .ok m (some (.ship k h))) ∧
      ∀ n d, s.shipTo p node = .ok m none → m.homeDieOf node.recd.toNat = .ok n d →
        s.goingOf p id node = .ok n (if n.canStart (n.launchOf p id node 0 d) then some (.cores d) else none)) ∧
    (∀ m, s.firstGoing p (s.readyNodes p) = .ok m none →
      exec (.nodeDispatch p) s = .next m ∧ InOrder (fun t e t' => t.goingOf p e.1 e.2 = .ok t' none) (s.readyNodes p) s m) ∧
    ∀ m id node g, s.firstGoing p (s.readyNodes p) = .ok m (some (id, node, g)) →
      let r := node.recd.toNat
      let ctx := r / 2 ^ 16 % 2 ^ 12
      (∃ before behind u, s.readyNodes p = before ++ (id, node) :: behind ∧ InOrder (fun t e t' => t.goingOf p e.1 e.2 = .ok t' none) before s u ∧
        u.goingOf p id node = .ok m (some g)) ∧
      (∀ n, m.readBank node = (n, .fault) ∨ m.readBank node = (n, .poison) → exec (.nodeDispatch p) s = .next (n.trapContext ctx 13 (BitVec.ofNat 64 (r / 2 ^ 320 % 2 ^ 64)))) ∧
      (∀ d n bank, g = .cores d → m.readBank node = (n, .ok bank) →
        ∃ t la, exec (.nodeDispatch p) s = .next t ∧ Spec.enters n la t ∧ (t.part p).nodes.get? id = some { node with st := .running, launch := some n.nextLaunch } ∧
          la.ctx = ctx ∧ la.node = some (p, id) ∧ la.desc = node.desc ∧ la.stackBase = BitVec.ofNat 64 (r / 2 ^ 256 % 2 ^ 64) ∧
          la.stackSz = r / 2 ^ 224 % 2 ^ 32 ∧ la.id = (n.ctx ctx).launches % 2 ^ 32 ∧ la.live = 0 ∧ la.homeDie = d ∧
          (let b := r / 2 ^ 128 % 2 ^ 32 * (r / 2 ^ 160 % 2 ^ 32) * (r / 2 ^ 192 % 2 ^ 32)
           (node.nc = 0 → la.next = 0 ∧ la.stop = b) ∧ (node.nc ≠ 0 → la.next = b * node.r / node.nc ∧ la.stop = b * (node.r + 1) / node.nc)) ∧
          ∀ i, i < kCbWords node.desc → la.cbank.getD i 0 = BitVec.ofNat 32 (bank / 2 ^ (32 * i))) ∧
      ∀ pkg handle n bank, g = .ship pkg handle → m.readBank node = (n, .ok bank) →
        (n.linked pkg = true → ∃ t desc args seq tag, exec (.nodeDispatch p) s = .next t ∧ (t.part p).nodes.get? id = some { node with st := .running } ∧
          t.out = n.out ++ [.packet handle desc args seq tag] ∧
          ∃ k x, t.packets.get? k = some x ∧ x.node = some (p, id) ∧ x.sent = true ∧ x.lost = false ∧ x.pkg = BitVec.ofNat 16 pkg) ∧
        (n.linked pkg = false → exec (.nodeDispatch p) s =
          .next ((n.setPart p { n.part p with nodes := (n.part p).nodes.set id { node with st := .running } }).trapContext ctx 6 0))) ∧
  (∀ (s : State) (l : Nat) (la : Launch) (p id : Nat) (node : Node), s.launch? l = some la → la.node = some (p, id) →
    (la.next < la.stop ∨ la.live ≠ 0 ∨ (s.ctx la.ctx).st ≠ .resident ∧ (s.ctx la.ctx).st ≠ .idle ∨ s.transferring la.ctx = true → exec (.launchComplete l) s = .next s) ∧
    ∀ m, la.stop ≤ la.next → la.live = 0 → (s.ctx la.ctx).st = .resident ∨ (s.ctx la.ctx).st = .idle → s.transferring la.ctx = false → (s.part p).nodes.get? id = some node →
      s.nodeComplete p id = .ok m () →
      Spec.completes s p id node m ∧ ∃ t, exec (.launchComplete l) s = .next t ∧ t.launch? l = none ∧ t.parts = m.parts ∧ t.mem = m.mem ∧
        (∀ k la', k ≠ l → m.launch? k = some la' → t.launch? k = some la') ∧ ∀ c, c ∈ la.cores → (t.core c).launch = some l → ∃ d key b, (t.core d).blocks.get? key = some b ∧ b.launch = l ∧ c ∈ b.cores) ∧
  (∀ (s : State) (p : Nat), p < 20 →
    let x := s.part p
    let func := x.desc.toNat / 2 ^ 256 % 2 ^ 8
    let root := x.desc.toNat / 2 ^ 384 % 2 ^ 64
    let idle := s.recovery = true ∨ x.desc.toNat % 2 ^ 32 = 0 ∨ func < 128 ∧ (s.vf func).en = false ∨ x.rootUp = true ∧ (s.ctx (p + 1)).st ≠ .halted ∨
      x.badRoot = true ∨ s.waiting (p + 1) = true
    (idle → exec (.rootProgramStart p) s = .next s) ∧
    ∀ m rd, ¬idle → s.readGpa func (root % 2 ^ 57) 64 = (m, rd) →
      let bad := .next (m.setPart p { m.part p with badRoot := true })
      (rd = .fault ∨ rd = .poison → exec (.rootProgramStart p) s = bad) ∧
      ∀ d, rd = .ok d →
        let desc := BitVec.ofNat 512 d
        (root % 64 ≠ 0 ∨ kValid desc = false ∨ kFlights desc ≠ 1 → exec (.rootProgramStart p) s = bad) ∧
        (root % 64 = 0 → kValid desc = true → kFlights desc = 1 → (s.ctx (p + 1)).st ≠ .halted →
          ∃ t la, exec (.rootProgramStart p) s = .next t ∧ la.ctx = p + 1 ∧ la.node = none ∧ la.desc = desc ∧ la.grid = (1, 1, 1) ∧ la.next = 0 ∧ la.stop = 1 ∧
            let u : State := { m with free := m.free + 1 }
            ((t.part p).rootUp = true ∧ Spec.enters u la t ∨ t = u.setPart p { u.part p with rootUp := false } ∧ u.canStart la = false))) ∧
  ∀ (s : State) (p : Nat),
    let x := s.part p
    (20 ≤ p ∨ s.sliced p = false ∨ s.clock - x.since < x.desc.toNat / 2 ^ 272 % 2 ^ 32 * 4096 → exec (.sliceExpiry p) s = .next s) ∧
    (p < 20 → s.sliced p = true → x.desc.toNat / 2 ^ 272 % 2 ^ 32 * 4096 ≤ s.clock - x.since →
      ∃ t, exec (.sliceExpiry p) s = .next t ∧ (t.part p).since = s.clock ∧ (t.part p).nodes = x.nodes ∧
        let ready (n : Nat) : Prop := ∃ k e, x.nodes.get? k = some e ∧ e.st = .ready ∧ s.funcOf (e.recd.toNat / 2 ^ 16 % 2 ^ 12) = n
        ((∀ n, n ∈ s.vfsOf p → ¬ready n) → (t.part p).serving = s.servingVf p) ∧
        ((∃ n, n ∈ s.vfsOf p ∧ ready n) → ready (t.part p).serving ∧ (t.part p).serving ∈ s.vfsOf p))

/-- EVENT_SLOT_FREED and EVENT_RING_RETRY write a held event record into the slot of the next ESEQ once its first byte reads 0, coherently at .pl, with ESEQ and LOSS, and signal the function; one for a
ring that takes its writes, the other for a ring that did not; a ring of size 0 discards what it holds (R381). -/
def Sys2Proof.Spec.EventRingsComplete : Prop :=
  ∀ (s : State) (ring : Nat),
    let r := s.ring ring
    let a := r.base + 16 * (r.eseq % 2 ^ r.size)
    (r.broken = true → exec (.eventSlotFreed ring) s = .next s) ∧ (r.broken = false → exec (.eventRingRetry ring) s = .next s) ∧
    (r.held = [] → exec (.eventSlotFreed ring) s = .next s ∧ exec (.eventRingRetry ring) s = .next s) ∧
    let retried (t : State) : Prop := (r.broken = false → exec (.eventSlotFreed ring) s = .next t) ∧ (r.broken = true → exec (.eventRingRetry ring) s = .next t)
    (r.size = 0 → r.held ≠ [] → retried (s.setRing ring { r with held := [], broken := false })) ∧
    ∀ recd u d p, r.size ≠ 0 → r.held = [recd] → s.lookSec r.func (a / 64) = .ok u (d, p) →
      (secNum d (a % 64) 1 ≠ 0 → retried (s.setRing ring { r with broken := false })) ∧
      (secNum d (a % 64) 1 = 0 →
        let x := recd.toNat + (if r.loss then 2 ^ 28 else 0) + r.eseq % 2 ^ 16 * 2 ^ 48
        ∀ m, u.writeAtCtl none r.func (a / 64) false true (numSec x (a % 64)) (maskOf (a % 64) 16) 0 = .ok m () →
          retried ((m.setRing ring { r with eseq := (r.eseq + 1) % 2 ^ 16, loss := false, broken := false, held := [] }).emit (.msix r.func)))

/-- The events of the Trellis and of the event rings. -/
def Obligations.TrellisAndRingEvents : Prop := Spec.TrellisEventsComplete ∧ Spec.EventRingsComplete

-- ---------------------------------------------------------------------------------------------
-- The fabric: chunk graphs, vats, pool memory and task packets

/-- An instruction that executes once for its bundle, after a release at .pl: `s1` is the state after the release (R448, R449). -/
def Sys2Proof.Spec.bundle (s : State) (h : Here) (i : Instr) (v : View) (o : OpSpec) (s1 : State) : Prop :=
  Ready s h i v o ∧ guardMask v.grd h.r = h.r.exec ∧ s.release h.c h.f.ctx 5 = .ok s1 ()

/-- It completes with a value for its destination, after an acquire at .pl: `t` is the state before the acquire, and no register of the flight changes but the destination. -/
def Sys2Proof.Spec.answers (s : State) (h : Here) (i : Instr) (v : View) (t : State) (y : W64) : Prop :=
  ∃ f, CompletesIn i s h v (t.acquire h.c 5 false) f (Spec.answer h v y) ∧ ∀ x, f.holds x = h.f.holds x

/-- A failure status (R449). -/
def Sys2Proof.Spec.failed (code : Nat) : W64 := BitVec.ofNat 64 (2 ^ 63 + code * 2 ^ 48)

/-- CGLOAD, CGLOAD.FREE and CGRUN complete. CGLOAD reads, checks and keeps a graph in the lowest free slot of its die and answers a handle; each operation's NDEP is the number of operations that
name it. FREE empties the slot of an idle graph; CGRUN starts a run with the package's process-group table, the bases and the collective id (R442, R443, R448 to R450). -/
def Obligations.ChunkGraphInstructions : Prop :=
  (∀ (s s1 : State) (h : Here) (v : View) (o : OpSpec),
    let d := h.c / 32
    let x := Spec.uniform s1 h v v.sa true
    let pgt := s1.tableOf h.f.launch
    let run (g : Graph) : Prop := ∃ slot, slot = x.toNat % 8 ∧ s1.graph? d slot = some g ∧ x.toNat / 8 % 4 = d ∧ x.toNat / 2 ^ 5 % 2 ^ 27 = 0 ∧
      x.toNat / 2 ^ 32 = g.gen ∧ g.ctx = h.f.ctx
    (∀ a, Spec.bundle s h (.cgload a) v o s1 →
      (x.toNat % 64 ≠ 0 → Spec.answers s h (.cgload a) v s1 (Spec.failed 1)) ∧
      (∀ m, x.toNat % 64 = 0 → s1.readFar h.f.ctx pgt x 64 = (m, .fault) → Spec.answers s h (.cgload a) v m (Spec.failed 3)) ∧
      ∀ m m2 hd b, x.toNat % 64 = 0 → s1.readFar h.f.ctx pgt x 64 = (m, .ok hd) →
        let hdr := BitVec.ofNat 512 hd
        let n := hd % 2 ^ 11
        let ops := (List.range n).map fun i => BitVec.ofNat 256 (b / 2 ^ (256 * i))
        gHeadBad hdr = false → m.readFar h.f.ctx pgt (x + 64) (32 * n) = (m2, .ok b) →
        let held := (s1.die d).graphs.entries.foldl (fun k g => k + g.2.ops.length) 0
        (graphBad hdr ops = true → Spec.answers s h (.cgload a) v m2 (Spec.failed 1)) ∧
        (graphBad hdr ops = false → (∀ k, k < 8 → (s1.die d).graphs.has k = true) → Spec.answers s h (.cgload a) v m2 (Spec.failed 2)) ∧
        ∀ k, graphBad hdr ops = false → k < 8 → (s1.die d).graphs.has k = false → (∀ j, j < k → (s1.die d).graphs.has j = true) →
          (4096 < held + n → Spec.answers s h (.cgload a) v m2 (Spec.failed 2)) ∧
          (held + n ≤ 4096 → ∃ t, Spec.answers s h (.cgload a) v t (BitVec.ofNat 64 (k + d * 8 + ((s1.die d).nextGen + 1) % 2 ^ 32 * 2 ^ 32)) ∧
            t.graph? d k = some { ctx := h.f.ctx, gen := ((s1.die d).nextGen + 1) % 2 ^ 32, hdr := hdr, ops := ops, run := none } ∧
            ∀ j, j ≠ k → t.graph? d j = s1.graph? d j)) ∧
    (∀ a, Spec.bundle s h (.cgloadFree a) v o s1 →
      ((∀ g, ¬run g) → Spec.answers s h (.cgloadFree a) v s1 (Spec.failed 4)) ∧
      (∀ g, run g → g.run.isSome = true → Spec.answers s h (.cgloadFree a) v s1 (Spec.failed 5)) ∧
      ∀ g, run g → g.run = none → ∃ t, Spec.answers s h (.cgloadFree a) v t 0 ∧ t.graph? d (x.toNat % 8) = none ∧
        ∀ j, j ≠ x.toNat % 8 → t.graph? d j = s1.graph? d j) ∧
    ∀ a, Spec.bundle s h (.cgrun a) v o s1 →
      ((∀ g, ¬run g) → Spec.answers s h (.cgrun a) v s1 (Spec.failed 4)) ∧
      (∀ g, run g → g.run.isSome = true → Spec.answers s h (.cgrun a) v s1 (Spec.failed 5)) ∧
      (∀ g la, run g → g.run = none → s1.launch? h.f.launch = some la → la.pgt = 0 → Spec.answers s h (.cgrun a) v s1 (Spec.failed 6)) ∧
      ∀ g la m t, run g → g.run = none → s1.launch? h.f.launch = some la → la.pgt ≠ 0 → (s1.acquireL2 6).readPgt h.f.ctx la.pgt = (m, .ok t) →
        let ok := (s1.ident.toNat ∈ t.healthyComps ∨ s1.ident.toNat ∈ t.healthyPools) ∧ (t.healthyPools = [] → ∀ x, x ∈ g.ops → oVat x = false)
        (¬ok → Spec.answers s h (.cgrun a) v m (Spec.failed 6)) ∧
        (ok → ∃ r : CgRun, (∀ f, (((m.setGraph d (x.toNat % 8) { g with run := some r }).settle d (x.toNat % 8)).acquire h.c 5 false).flight? h.c h.fid = some f →
            CompletesIn (.cgrun a) s h v (((m.setGraph d (x.toNat % 8) { g with run := some r }).settle d (x.toNat % 8)).acquire h.c 5 false) f (Spec.answer h v 0)) ∧
          r.coll = (Spec.uniform s1 h v v.sc false).setWidth 32 ∧ r.gen = t.gen ∧ r.pools = t.healthyPools ∧ r.launch = la.id ∧ r.pgt = la.pgt ∧ r.core = h.c ∧
          r.stopping = false ∧ r.status = none ∧ r.sts = .empty ∧ ∀ k, k < 8 → r.bases[k]? = some (h.r.sreg (v.sbSrc.idx.toNat + k)))) ∧
  ∀ (hdr : BitVec 512) (ops : List (BitVec 256)), graphBad hdr ops = false → ops.length = gNops hdr →
    1 ≤ ops.length ∧ ops.length ≤ 1024 ∧ ∀ i x, ops[i]? = some x → x.toNat / 2 ^ 16 % 2 ^ 10 = (ops.flatMap oSucc).count i ∧ x.toNat % 16 ≤ 4 ∧
      ∀ k, k ∈ oSucc x → k < ops.length

/-- An operation of a run completes: each of its successors' counts falls once (R446). -/
def Sys2Proof.Spec.opCompletes (g : Graph) (r : CgRun) (o : Nat) (r' : CgRun) : Prop :=
  r'.st o = .completed ∧ (∀ k, k ≠ o → r'.st k = r.st k) ∧ r'.status = r.status ∧ r'.stopping = r.stopping ∧
  ∀ k, r'.cnts.getD k (oNdep (g.op k)) = r.cnts.getD k (oNdep (g.op k)) - ((oSucc (g.op o)).count k : Nat)

/-- One fails: the run stops, and its first failure is its status (R446, R447). -/
def Sys2Proof.Spec.opFails (r : CgRun) (o code ident : Nat) (r' : CgRun) : Prop :=
  r'.st o = .failed ∧ (∀ k, k ≠ o → r'.st k = r.st k) ∧ r'.stopping = true ∧ r'.status = some (r.status.getD (code, o, BitVec.ofNat 16 ident))

/-- The events of a collective sequencer. An answer completes or fails the operation that is in flight, and the run goes on; a NACK has the contribution sent again, with the same values, after 2048
cycles and not before; a fetch or a wait fails with TIMEOUT once its TMO has passed (R436, R437, R442, R444 to R447). -/
def Obligations.SequencerEventsComplete : Prop :=
  ∀ (s : State) (d slot op : Nat) (g : Graph) (r : CgRun), s.graph? d slot = some g → g.run = some r →
    let x := g.op op
    let kind := x.toNat % 16
    let tmo := g.hdr.toNat / 2 ^ 128 % 2 ^ 32
    let answered (t : State) : State := { t with reqs := s.reqs.filter fun q => q.what != .op d slot op }
    let goes (i : Instr) (q : CgRun → Prop) : Prop := ∃ r', q r' ∧ exec i s = .next (((answered s).setGraph d slot { g with run := some r' }).settle d slot)
    let pool := r.member x
    let up := s.reachable pool
    (∀ res, r.st op = .waiting ∨ r.st op = .retrying ∨ r.st op = .completed ∨ r.st op = .failed →
      exec (.cgOpComplete d slot op res) s = .next (s.settle d slot)) ∧
    (r.st op = .started → kind = 0 → up = true →
      goes (.cgOpComplete d slot op .ack) (Spec.opCompletes g r op) ∧
      (r.stopping = false → goes (.cgOpComplete d slot op .nack) fun r' => r'.st op = .retrying ∧ r'.began.getD op 0 = s.clock ∧ r'.sent = r.sent) ∧
      (∀ i, goes (.cgOpComplete d slot op (.lost i)) (Spec.opFails r op 1 pool) ∧ goes (.cgOpComplete d slot op (.aborted i)) (Spec.opFails r op 2 pool) ∧
        goes (.cgOpComplete d slot op (.refused i)) (Spec.opFails r op 3 pool) ∧ goes (.cgOpComplete d slot op (.mismatch i)) (Spec.opFails r op 5 pool))) ∧
    (∀ res, r.st op = .started → kind ≤ 1 → up = false → goes (.cgOpComplete d slot op res) (Spec.opFails r op 1 pool)) ∧
    (∀ res, r.st op = .started → kind = 3 →
      let b := s.cb (oCcore x) (oCb x)
      (r.stopping = true → goes (.cgOpComplete d slot op res) (Spec.opFails r op 8 0)) ∧
      (r.stopping = false → s.holdsLaunch (oCcore x) g.ctx r.launch = true → b.armed = true → b.count = 0 → b.scope < 5 →
        goes (.cgOpComplete d slot op res) (Spec.opCompletes g r op)) ∧
      (r.stopping = false → s.holdsLaunch (oCcore x) g.ctx r.launch = true → b.armed = false ∨ b.count ≠ 0 →
        exec (.cgOpComplete d slot op res) s = .next (s.settle d slot))) ∧
    (r.st op ≠ .retrying → exec (.contribRetry d slot op .ack) s = .next s) ∧
    (∀ vals, r.st op = .retrying → r.stopping = false → r.sent.get? op = some vals →
      (s.clock - r.began.getD op 0 < 2048 → ∀ res, exec (.contribRetry d slot op res) s = .next s) ∧
      (2048 ≤ s.clock - r.began.getD op 0 → up = true → ∃ r', Spec.opCompletes g r op r' ∧ r'.sent.get? op = some vals ∧
        exec (.contribRetry d slot op .ack) s = .next ((((answered (s.fabricPort pool 0).2).setGraph d slot { g with run := some r' }).emit (.contrib (BitVec.ofNat 16 pool) (s.funcOf g.ctx)
          ⟨r.coll, BitVec.ofNat 16 (x.toNat / 2 ^ 80 % 2 ^ 16)⟩ (x.toNat / 2 ^ 4 % 2 ^ 4) (x.toNat / 2 ^ 104 % 2 ^ 8) (x.toNat / 2 ^ 112 % 2 ^ 8)
          (x.toNat / 2 ^ 64 % 2 ^ 16) vals)).settle d slot))) ∧
    let due := r.st op = .started ∧ (kind = 1 ∨ kind = 3) ∧ tmo ≠ 0 ∧ tmo * 4096 ≤ s.clock - r.began.getD op 0
    (due → goes (.cgTimeout d slot op) (Spec.opFails r op 4 0)) ∧ (¬due → exec (.cgTimeout d slot op) s = .next s)

/-- A vat takes a contribution: every element is added exactly, and the vat is full with the last (R437). -/
def Sys2Proof.Spec.vatTakes (v : Vat) (vals : List W32) (v' : Vat) : Prop :=
  v'.got = v.got + 1 ∧ v'.st = (if v.got + 1 = v.ncon then .full else .filling) ∧ v'.key = v.key ∧ v'.func = v.func ∧ v'.ncon = v.ncon ∧ v'.nfet = v.nfet ∧
  v'.fmt = v.fmt ∧ v'.count = v.count ∧ v'.fetched = v.fetched ∧
  ∀ j, v'.elems.get? j = match vals[j]? with
    | some y => some (BitVec.ofNat 384 ((((v.elems.get? j).map fun b => XA.ofNat b.toNat).getD XA.zero).add (fval (vatTy v.fmt) false y.toNat)).toNat)
    | none => v.elems.get? j

/-- What serving a contribution does at its vat: it allocates one, within the quota of the function's partition, or is added; a full, foreign or aborted vat answers so (R435 to R437, R439). -/
def Sys2Proof.Spec.contributes (s : State) (q : VatReq) (t : State) : Prop :=
  let answer (t : State) (r : FabRes) : State := t.emit (.vatAnswer q.pkg r)
  (s.bound q.pkg q.func = none → t = answer s (.refused s.ident)) ∧
  ∀ pf, s.bound q.pkg q.func = some pf →
    (s.vat? pf q.key = none →
      ((s.vatQuota pf = false ∨ ∀ i, i < 4096 → s.vats.has i = true) → t = answer s .nack) ∧
      ∀ i, s.vatQuota pf = true → i < 4096 → s.vats.has i = false → (∀ j, j < i → s.vats.has j = true) →
        ∃ v, t = answer { s with vats := s.vats.set i v } .ack ∧
          Spec.vatTakes { func := pf, key := q.key, st := .filling, ncon := q.ncon, nfet := q.nfet, fmt := q.fmt, count := q.count, got := 0, fetched := 0
                          elems := .empty, since := s.clock } q.vals v) ∧
    ∀ i v, s.vat? pf q.key = some (i, v) →
      let fits := v.ncon = q.ncon ∧ v.nfet = q.nfet ∧ v.fmt = q.fmt ∧ v.count = q.count
      (v.st = .filling → fits → ∃ v', t = answer { s with vats := s.vats.set i v' } .ack ∧ Spec.vatTakes v q.vals v') ∧
      (v.st = .full ∨ v.st = .filling ∧ ¬fits → t = answer s (.mismatch s.ident)) ∧
      (v.st = .aborted → t = answer { s with vats := s.vats.set i { v with since := s.clock } } (.aborted s.ident))

/-- The events at a package's vats complete. A contribution to a vat that stands is served at once. One that needs a vat is served at the end of its cycle, from the first port at or after q, which
becomes the winner's port plus 1 after a tie. A fetch of a full vat returns the rounded sums and the last one frees it; an ABORT closes the vat and 2^24 cycles free it (R435 to R440). -/
def Obligations.VatEventsComplete : Prop :=
  (∀ (s : State) (port : Nat) (pkg : BitVec 16) (func : Nat) (key : VatKey) (fmt ncon nfet count : Nat) (vals : List (BitVec 32)), s.recovery = false →
    let q : VatReq := { port := port, pkg := pkg, func := func, key := key, fmt := fmt, ncon := ncon, nfet := nfet, count := count, vals := vals }
    let contrib := exec (.vatContribution port pkg func key fmt ncon nfet count vals) s
    let answer (t : State) (r : FabRes) : State := t.emit (.vatAnswer pkg r)
    (port < 32 → (∀ pf, s.bound pkg func = some pf → s.vat? pf key = none → contrib = .next { s with vatQ := s.vatQ ++ [q] }) ∧
      ((∀ pf, s.bound pkg func = some pf → s.vat? pf key ≠ none) → ∃ t, contrib = .next t ∧ Spec.contributes s q t)) ∧
    (s.bound pkg func = none → exec (.vatFetch pkg func key fmt) s = .next (answer s (.refused s.ident)) ∧ exec (.vatAbort pkg func key) s = .next s) ∧
    (∀ pf, s.bound pkg func = some pf → s.vat? pf key = none → exec (.vatFetch pkg func key fmt) s = .next s ∧ exec (.vatAbort pkg func key) s = .next s) ∧
    (∀ pf i v, s.bound pkg func = some pf → s.vat? pf key = some (i, v) →
      (v.st = .aborted → exec (.vatFetch pkg func key fmt) s = .next (answer { s with vats := s.vats.set i { v with since := s.clock } } (.aborted s.ident))) ∧
      (v.st = .filling → exec (.vatFetch pkg func key fmt) s = .next s) ∧
      (v.st = .full → ∃ t ys, exec (.vatFetch pkg func key fmt) s = .next (answer t (.values ys)) ∧ ys.length = v.count ∧
        t.vats.get? i = (if v.nfet ≤ v.fetched + 1 then none else some { v with fetched := v.fetched + 1 }) ∧
        ∀ j, j < v.count → ys[j]? = some (BitVec.ofNat 32 ((((v.elems.get? j).map fun b => XA.ofNat b.toNat).getD XA.zero).round (vatTy fmt).fmt))) ∧
      exec (.vatAbort pkg func key) s = .next { s with vats := s.vats.set i { v with st := .aborted, elems := .empty, since := s.clock } })) ∧
  (∀ (s u : State) (n : Nat), Spec.turn s (.tick n) u → n ≠ 0 → step s = .next (u.serveVats.tick n) ∧ (u.serveVats.tick n).clock = u.serveVats.clock + n) ∧
  (∀ (s : State) (a : VatReq), a.port < 32 → s.vatQ = [a] → Spec.contributes { s with vatQ := [] } a s.serveVats) ∧
  (∀ (s : State) (a b : VatReq), a.port < 32 → b.port < 32 → s.vatPort < 32 → (a.port + 32 - s.vatPort) % 32 < (b.port + 32 - s.vatPort) % 32 → s.vatQ = [a, b] ∨ s.vatQ = [b, a] →
    ∃ t, Spec.contributes { s with vatQ := [], vatPort := (a.port + 1) % 32 } a t ∧ Spec.contributes t b s.serveVats) ∧
  ∀ (s : State) (i : Nat) (v : Vat), s.vats.get? i = some v →
    (v.st = .aborted → 2 ^ 24 ≤ s.clock - v.since → exec (.vatAbortExpiry i) s = .next { s with vats := s.vats.erase i }) ∧
    (v.st ≠ .aborted ∨ s.clock - v.since < 2 ^ 24 → exec (.vatAbortExpiry i) s = .next s)

/-- Where a package's crossbar sends what is for another: a pool package passes it out of a live port to that package, and refuses it where it has none (R2, R428). -/
def Sys2Proof.Spec.switches (s : State) (dst : BitVec 16) (e : Host.Outcome State Fault Refusal) (out : PortRef → Msg) (refused : State) : Prop :=
  (s.linked dst.toNat = false → e = .next refused) ∧
  (s.linked dst.toNat = true → ∃ d k, (d, k, dst.toNat) ∈ s.livePorts ∧ e = .next (s.emit (out (.fabric d k))))

/-- Requests of other packages complete. One for a third package passes through the crossbar. A request outside every granted extent, of an unbound pair, or without the right, is refused; one to a range
that is being released waits; one that another package's copy conflicts with has that copy asked back first; else it is performed at its home and answered. A SENDP sector is written and counted by its
barrier, or refused. Dynamic capacity is granted as an extent or taken back (R309, R427, R428, R430 to R434, R444). -/
def Obligations.PoolRequestsComplete : Prop :=
  (∀ (s : State) (q : MemReq), s.recovery = false →
    let a := q.addr.toNat
    let refused := s.emit (.memAck q.pkg q.addr false)
    let served (t : State) : State := { t with heldReqs := t.heldReqs.filter fun x => x.req != q }
    let here := s.build ≠ .gzX ∨ q.dst = s.ident
    (¬here → Spec.switches s q.dst (exec (.peerMemRequest q) s) (fun p => Msg.forward p q) refused) ∧
    (here → s.extentAt none a 1 = none → exec (.peerMemRequest q) s = .next refused) ∧
    (∀ func e, here → s.extentAt none a 1 = some (func, e) →
      let gpa := e.gbase + (a - e.pbase)
      let k := secKey func (gpa / 64)
      let bars := (reqRd q = true ∧ e.rd = false) ∨ (reqWr q = true ∧ e.wr = false)
      (bars → exec (.peerMemRequest q) s = .next refused) ∧
      (∀ t d p, ¬bars → (s.home k).owner = none → q.kind = .read → s.readAtHome func (gpa / 64) (BitVec.allOnes 64) = .ok t (d, p) →
        exec (.peerMemRequest q) s = .next ((served t).emit (.memData q.pkg q.addr d (p != 0)))) ∧
      ∀ t, ¬bars → (s.home k).owner = none → q.kind = .write → q.poison = false → s.writeAtHome none func (gpa / 64) false false q.data q.mask 0 = .ok t () →
        exec (.peerMemRequest q) s = .next ((served (t.takeSector k)).emit (.memAck q.pkg q.addr true))) ∧
    (s.bound q.pkg q.func = none → exec (.poolMemRequest q) s = .next refused) ∧
    ∀ pf, s.bound q.pkg q.func = some pf → (s.extentAt (some pf) a 1 = none → exec (.poolMemRequest q) s = .next refused) ∧
      ∀ func e, s.extentAt (some pf) a 1 = some (func, e) →
        let gpa := e.gbase + (a - e.pbase)
        let k := secKey func (gpa / 64)
        let bars := (reqRd q = true ∧ e.rd = false) ∨ (reqWr q = true ∧ e.wr = false)
        (s.isLeaving func gpa = true → q.kind ≠ .disown → (s.home k).owner = none → exec (.poolMemRequest q) s = .next (s.holdReq q .held)) ∧
        (s.isLeaving func gpa = false →
          (∀ p, s.conflict q = some p → ∃ inv, exec (.poolMemRequest q) s = .next (s.holdReq q (.peer inv func (gpa / 64) a p)) ∧ (inv = false ↔ q.kind = .read)) ∧
          (s.conflict q = none → bars → exec (.poolMemRequest q) s = .next refused) ∧
          ∀ t x, s.conflict q = none → ¬bars → (s.home k).owner = none → ({ s with pfilter := s.pfilter.erase (a / 64) } : State).serveHome func gpa q = .ok t x →
            ∃ u : State, exec (.poolMemRequest q) s = .next (u.emit (if reqRd q then .memData q.pkg q.addr x.1 x.2 else .memAck q.pkg q.addr true)) ∧
              u.mem = t.mem ∧ u.l2 = t.l2 ∧ (∀ n, n ≠ a / 64 → u.pfilter.get? n = t.pfilter.get? n) ∧
              (q.kind = .readOwn → e.coh = true ∨ q.coh = true → (q.pkg.toNat, .a) ∈ u.pfilter.getD (a / 64) []))) ∧
  (∀ (s : State) (src dst : BitVec 16) (addr : BitVec 64) (data : BitVec 512) (psn cbv : Bool) (cb core ctx launch : Nat), s.recovery = false →
    let e := exec (.sendpSector ⟨src, dst⟩ addr data psn cbv cb core ctx launch) s
    let refused := s.emit (.memAck src addr false)
    let here := s.build ≠ .gzX ∨ dst = s.ident
    (¬here → Spec.switches s dst e (fun p => Msg.forwardSector p src dst addr data psn cbv cb core ctx launch) refused) ∧
    (here → s.extentAt none addr.toNat 64 = none → e = .next refused) ∧
    ∀ func x, here → s.extentAt none addr.toNat 64 = some (func, x) →
      let bars := x.wr = false ∨ addr.toNat % 64 ≠ 0 ∨ cbv = true ∧ s.funcOf ctx ≠ func
      (bars → e = .next refused) ∧
      (¬bars → cbv = true → ((s.ctx ctx).st = .saved → e = .next s) ∧ ((s.ctx ctx).st ≠ .saved → s.holdsLaunch core ctx launch = false → e = .next refused)) ∧
      ∀ t, ¬bars → s.writeUnit func (x.gbase + (addr.toNat - x.pbase)) false data (BitVec.allOnes 64) psn = .ok t () →
        (cbv = false → e = .next (t.emit (.memAck src addr true))) ∧
        (cbv = true → (s.ctx ctx).st ≠ .saved → s.holdsLaunch core ctx launch = true → (t.ctx ctx).st ≠ .saved → t.holdsLaunch core ctx launch = true →
          e = .next ((t.cbUpdate core (cb % 64) (-64) ctx).emit (.memAck src addr true)))) ∧
  ∀ (s : State) (func index tag : Nat) (arg : BitVec 512), s.recovery = false →
    let n := arg.toNat
    (n / 2 ^ 4 % 16 ≠ 0 ∨ n / 2 ^ 64 % 2 ^ 32 % 4096 ≠ 0 ∨ n / 2 ^ 128 % 2 ^ 64 % 2 ^ 28 ≠ 0 ∨ s.build = .gzC ∨ 255 < index →
      exec (.addDynamicCapacity func index arg tag) s = .next (s.emit (.capacity func index tag false))) ∧
    (∀ e j, extentOf arg = some (e, j) → (∀ r, r ∈ s.regionsOf func → e.pbase < r.1 ∨ r.1 + r.2 < e.pbase + e.len * 65536) →
      exec (.addDynamicCapacity func index arg tag) s = .next (s.emit (.capacity func index tag false))) ∧
    (∀ e j t k r, s.build ≠ .gzC → func ≤ 128 → index ≤ 255 → extentOf arg = some (e, j) → e.tgt = 0 → e.len % 4096 = 0 → e.pbase % 2 ^ 28 = 0 →
      r ∈ s.regionsOf func → r.1 ≤ e.pbase → e.pbase + e.len * 65536 ≤ r.1 + r.2 → s.extCheck func e = (0, k) → (s.left func index).grant func index e k = .ok t () →
      exec (.addDynamicCapacity func index arg tag) s = .next (({ t with tags := t.tags.set (func * 256 + index) tag } : State).emit (.capacity func index tag true)) ∧
        ∃ x, t.exts.get? (func * 256 + index) = some x ∧ x.keyId = k ∧ x.gbase = e.gbase ∧ x.pbase = e.pbase ∧ x.len = e.len ∧ x.rd = e.rd ∧ x.wr = e.wr ∧ x.coh = e.coh ∧ x.tgt = 0) ∧
    (s.exts.get? (func * 256 + index) = none →
      exec (.releaseDynamicCapacity func index) s = .next (s.emit (.capacity func index (s.tags.getD (func * 256 + index) 0) false))) ∧
    ∀ e t, s.build ≠ .gzC → index ≤ 255 → s.exts.get? (func * 256 + index) = some e → (s.left func index).leaveExtent func e = .ok t () →
      ∃ u : State, exec (.releaseDynamicCapacity func index) s = .next (u.emit (.capacity func index (s.tags.getD (func * 256 + index) 0) true)) ∧
        u.exts = t.exts.erase (func * 256 + index) ∧ u.mem = t.mem ∧ u.keyUsed = t.keyUsed.erase e.keyId ∧ u.released = t.released ++ [(func, e.gbase, e.len * 65536)]

/-- Task packets. TSHIP and TSREG check what they read and send it; a handle that the other package gave stays good, and its answer to what it has not seen is free. A received image is checked and kept under a handle, a received packet is placed as a launch in a context of its own,
and a launch of a packet that completes answers its sender (R449, R451 to R454). -/
def Obligations.TaskPacketsComplete : Prop :=
  (∀ (s s1 : State) (h : Here) (v : View) (o : OpSpec),
    let x := Spec.uniform s1 h v v.sa true
    let y := Spec.uniform s1 h v v.sbSrc true
    (∀ a, Spec.bundle s h (.tship a) v o s1 →
      let pkg := x.toNat % 2 ^ 16
      (y.toNat % 64 ≠ 0 → Spec.answers s h (.tship a) v s1 (Spec.failed 10)) ∧
      ∀ m m2 d args, y.toNat % 64 = 0 → s1.readFar h.f.ctx (s1.tableOf h.f.launch) y 64 = (m, .ok d) →
        (packetBad (BitVec.ofNat 512 d) = true → Spec.answers s h (.tship a) v m (Spec.failed 10)) ∧
        (packetBad (BitVec.ofNat 512 d) = false → m.readFar h.f.ctx (m.tableOf h.f.launch) (y + 64) (d / 2 ^ 192 % 2 ^ 9) = (m2, .ok args) →
          let known (c : CodeRef) : Prop := c ∈ m2.codes ∧ c.pkg = pkg ∧ c.func = m2.funcOf h.f.ctx
          (m2.linked pkg = false → Spec.answers s h (.tship a) v m2 (Spec.failed 9)) ∧
          (m2.linked pkg = true → (∃ c, known c) → (∀ c, known c → c.handle ≠ x) → Spec.answers s h (.tship a) v m2 (Spec.failed 4)) ∧
          (m2.linked pkg = true → (∀ c, ¬known c) → ∃ z, (z = Spec.failed 4 ∨ z = Spec.failed 9) ∧ Spec.answers s h (.tship a) v { m2 with free := m2.free + 1 } z) ∧
          (m2.linked pkg = true → (∃ c, known c ∧ c.handle = x) → ∃ t, Spec.answers s h (.tship a) v t 0 ∧
            ∃ words tag, t.out = m2.out ++ [.packet x (BitVec.ofNat 512 d) words (m2.sendSeq.getD pkg 0 + 1) tag] ∧
              t.sendSeq.get? pkg = some (m2.sendSeq.getD pkg 0 + 1) ∧ words.length = d / 2 ^ 192 % 2 ^ 9 / 4 ∧
              (∀ i, i < words.length → words[i]? = some (BitVec.ofNat 32 (args / 2 ^ (32 * i)))) ∧
              ∃ k p, t.packets.get? k = some p ∧ p.sent = true ∧ p.lost = false ∧ p.pkg = BitVec.ofNat 16 pkg ∧ p.sctx = h.f.ctx ∧ p.desc = BitVec.ofNat 512 d))) ∧
    ∀ a, Spec.bundle s h (.tsreg a) v o s1 →
      let pkg := (Spec.uniform s1 h v v.sbSrc false).toNat % 2 ^ 16
      ∀ m m2 hd z, s1.readFar h.f.ctx (s1.tableOf h.f.launch) x 128 = (m, .ok hd) →
        (imageHeadBad hd = true → Spec.answers s h (.tsreg a) v m (Spec.failed 7)) ∧
        (imageHeadBad hd = false → m.readFar h.f.ctx (m.tableOf h.f.launch) x (hd / 2 ^ 32 % 2 ^ 32) = (m2, .ok z) →
          let bytes : List Byte := bytesN z (z / 2 ^ 32 % 2 ^ 32)
          let same (c : CodeRef) : Prop := c.pkg = pkg ∧ c.func = m2.funcOf h.f.ctx ∧ c.hash = some (Config.digest (bytes.map BitVec.toNat)).toNat
          (imageBad z = true → Spec.answers s h (.tsreg a) v m2 (Spec.failed 7)) ∧
          (imageBad z = false → m2.linked pkg = false → Spec.answers s h (.tsreg a) v m2 (Spec.failed 9)) ∧
          (imageBad z = false → m2.linked pkg = true → ∃ t y, Spec.answers s h (.tsreg a) v t y ∧ t.out = m2.out ++ [.image (BitVec.ofNat 16 pkg) bytes] ∧
            ((∃ c, c ∈ m2.codes ∧ same c) → ∃ c, c ∈ m2.codes ∧ same c ∧ y = c.handle ∧ t.codes = m2.codes) ∧
            ((∀ c, c ∈ m2.codes → ¬same c) → (y = Spec.failed 2 ∨ y = Spec.failed 8 ∨ y = Spec.failed 9) ∧ t.codes = m2.codes ∨
              y.toNat % 2 ^ 16 = pkg ∧ y.toNat / 2 ^ 28 % 16 = 0 ∧ ∃ c, t.codes = m2.codes ++ [c] ∧ same c ∧ c.handle = y)))) ∧
  (∀ (s : State) (link : Nat) (pkg : BitVec 16) (func : Nat) (image : List (BitVec 8)), s.build ≠ .gzC → s.recovery = false → link < 32 →
    let nats := image.map BitVec.toNat
    let hash := (Config.digest nats).toNat
    let x := numOfBytes image
    let pk := (nats.drop 16).take 68
    let e := exec (.taskImageReceive link pkg func image) s
    let answer (t : State) (y : W64) : State := t.emit (.imageAnswer pkg y)
    let handle (k gen : Nat) : W64 := BitVec.ofNat 64 (s.ident.toNat + k * 2 ^ 16 + gen % 2 ^ 32 * 2 ^ 32)
    (s.bound pkg func = none → e = .next (answer s (Spec.failed 9))) ∧
    ∀ pf, s.bound pkg func = some pf →
      (∀ c, s.code.entries.find? (fun c => c.2.func == pf && c.2.hash == hash) = some c → e = .next (answer s (handle c.1 c.2.gen))) ∧
      (s.code.entries.find? (fun c => c.2.func == pf && c.2.hash == hash) = none →
        (image.length ≠ tLen x ∨ imageBad x = true → e = .next (answer s (Spec.failed 7))) ∧
        (image.length = tLen x → imageBad x = false →
          let trusts := (pf, (Config.digest pk).toNat) ∈ s.trusted ∧ Config.xmssOk pk (nats.take (tLen x - 2820)) (nats.drop (tLen x - 2820)) = true
          (¬trusts → e = .next (answer s (Spec.failed 8))) ∧
          ∀ k, trusts → k < 4096 → s.code.has k = false → (∀ j, j < k → s.code.has j = true) →
            ∃ t slot, e = .next (answer t (handle k s.nextKeyGen)) ∧ t.code = s.code.set k slot ∧ slot.func = pf ∧ slot.hash = hash ∧ slot.image = image ∧
              slot.gen = s.nextKeyGen % 2 ^ 32))) ∧
  (∀ (s : State) (link : Nat) (pkg : BitVec 16) (ctx func : Nat) (handle : BitVec 64) (desc : BitVec 512) (args : List (BitVec 32)) (seq : Nat) (tag : BitVec 256),
    s.build ≠ .gzC → s.recovery = false → link < 32 →
    let e := exec (.taskPacketReceive link pkg ctx func handle desc args seq tag) s
    let refused := s.packetAnswer pkg ctx desc (Spec.failed 1)
    let sent := tag = Config.kmac link (handle.toNat :: desc.toNat :: seq :: args.map BitVec.toNat) ∧ s.lastSeq.getD link 0 < seq
    (s.bound pkg func = none ∨ ¬sent ∨ packetBad desc = true ∨ handle.toNat % 2 ^ 16 ≠ s.ident.toNat ∨ s.code.get? (handle.toNat / 2 ^ 16 % 2 ^ 12) = none →
      e = .next refused) ∧
    ∀ pf slot t c m, s.bound pkg func = some pf → sent → packetBad desc = false → handle.toNat % 2 ^ 16 = s.ident.toNat → handle.toNat / 2 ^ 28 % 16 = 0 →
      s.code.get? (handle.toNat / 2 ^ 16 % 2 ^ 12) = some slot → handle.toNat / 2 ^ 32 = slot.gen → slot.func = pf →
      let x := numOfBytes slot.image
      let kd := imageDesc x (tKoff x)
      let stack := desc.toNat / 2 ^ 224 % 2 ^ 32 * kFlights kd * 32 * tStack x
      stack ≤ 2 ^ 43 → s.keptCtx pkg ctx pf = some (t, c) →
      ((t.ctx c).st ≠ .idle → e = .next s) ∧
      ((t.ctx c).st = .idle → t.mapPacket c pf slot.image stack = .ok m () →
        ∃ u la key, e = .next u ∧ Spec.enters m la u ∧ la.ctx = c ∧ la.desc = kd ∧ la.grid = (desc.toNat / 2 ^ 224 % 2 ^ 32, 1, 1) ∧ la.packet = some key ∧
          u.lastSeq.get? link = some seq ∧ (∃ p, u.packets.get? key = some p ∧ p.sent = false ∧ p.ctx = c ∧ p.launch = some m.nextLaunch) ∧
          ∀ i, la.cbank.getD i 0 = args.getD i 0)) ∧
  ∀ (s : State) (i code : Nat),
    (s.packets.get? i = none → exec (.taskPacketComplete i code) s = .next s) ∧
    ∀ p, s.packets.get? i = some p →
      let gone (t : State) : State := { t with packets := t.packets.erase i }
      (p.sent = true → (if p.lost then code ≠ 3 else 3 ≤ code) → exec (.taskPacketComplete i code) s = .next s) ∧
      (p.sent = true → (if p.lost then code = 3 else code < 3) →
        ((s.ctx p.sctx).st = .saved → exec (.taskPacketComplete i code) s = .next s) ∧
        ((s.ctx p.sctx).st ≠ .saved → (s.ctx p.sctx).st ≠ .free →
          (∀ n, p.node = some n → (s.ctx p.sctx).st = .halted → exec (.taskPacketComplete i code) s = .next s) ∧
          (∀ part id t, p.node = some (part, id) → (s.ctx p.sctx).st ≠ .halted → code = 0 → s.nodeComplete part id = .ok t () → exec (.taskPacketComplete i code) s = .next (gone t)) ∧
          (∀ n, p.node = some n → (s.ctx p.sctx).st ≠ .halted → code ≠ 0 → exec (.taskPacketComplete i code) s = .next (gone (s.trapContext p.sctx 6 0))) ∧
          ∀ t, p.node = none → p.desc.toNat / 2 ^ 134 % 2 = 0 →
            (if p.desc.toNat % 2 ^ 64 = 0 then t = s else
              s.doneStore p.sctx (BitVec.ofNat 64 (p.desc.toNat % 2 ^ 64)) (if code = 0 then p.desc.toNat / 2 ^ 64 % 2 ^ 64 else 2 ^ 63 + code * 2 ^ 48) = .ok t ()) →
            exec (.taskPacketComplete i code) s = .next (gone t))) ∧
      ∀ l la, p.sent = false → p.launch = some l → s.launch? l = some la →
        (∀ t, (s.ctx p.ctx).st = .halted → s.dropCtx p.ctx = .ok t () →
          exec (.taskPacketComplete i code) s = .next (gone (t.packetAnswer p.pkg p.sctx p.desc (Spec.failed 2)))) ∧
        (∀ t, la.stop ≤ la.next → la.live = 0 → (s.ctx p.ctx).st = .resident → s.transferring p.ctx = false → s.releaseCtx p.ctx = .ok t () →
          exec (.taskPacketComplete i code) s = .next
            ((gone (t.packetAnswer p.pkg p.sctx p.desc (BitVec.ofNat 64 (p.desc.toNat / 2 ^ 64 % 2 ^ 64)))).endLaunch l la)) ∧
        ((s.ctx p.ctx).st ≠ .halted → la.next < la.stop ∨ la.live ≠ 0 → exec (.taskPacketComplete i code) s = .next s)

-- ---------------------------------------------------------------------------------------------
-- The hypervisor's commands and the host

/-- A mailbox after a command: what was written stands in it, with the RESULT, and BUSY is 0 (R370). -/
def Sys2Proof.Spec.replied (s : State) (func code index result : Nat) (arg : BitVec 512) : State :=
  { s with mail := s.mail.set func { result := result, arg := arg, code := code % 256, index := index % 2 ^ 16, pending := none } }

/-- A descriptor that PART_SET takes for partition p (R368, R371). -/
def Sys2Proof.Spec.partition (s : State) (p : Nat) (arg : BitVec 512) : Prop :=
  let bits (lo n : Nat) : Nat := arg.toNat / 2 ^ lo % 2 ^ n
  bits 192 16 ≤ 4096 ∧ bits 208 16 ≤ 4096 ∧ (s.build = .gzC → bits 208 16 = 0 ∧ bits 128 64 = 0) ∧ bits 224 16 ≤ 4075 ∧ bits 240 16 ≤ 2048 ∧ bits 256 8 ≤ 128 ∧
  bits 264 8 = 0 ∧ bits 304 16 = 0 ∧ bits 320 64 % 4096 = 0 ∧ (bits 448 4 = 0 ∨ 4 ≤ bits 448 4 ∧ bits 448 4 ≤ 12) ∧ bits 452 60 = 0 ∧
  (∀ q, q < 32 → arg.getLsbD q = true → ∃ i, i < 4 ∧ s.corePresent (4 * q + i) = true) ∧
  ∀ k x, s.parts.get? k = some x → k ≠ p → (∀ q, q < 32 → ¬(x.desc.getLsbD q = true ∧ arg.getLsbD q = true)) ∧
    ∀ q, q < 128 → ¬(x.desc.getLsbD (64 + q) = true ∧ arg.getLsbD (64 + q) = true)

/-- A mailbox whose command is BUSY ignores every other start (R370). -/
def Sys2Proof.Spec.ignoresStarts (s : State) (func : Nat) : Prop :=
  ∀ j, (s.mailbox func).pending = some j →
    (func = 128 → (∀ p arg, j ≠ (1, p, arg) → exec (.partSet p arg) s = .next s) ∧ (∀ n arg, j ≠ (2, n, arg) → exec (.vfSet n arg) s = .next s) ∧
      (∀ n arg, j ≠ (3, n, arg) → exec (.extAdd n arg) s = .next s) ∧ (∀ n arg, j ≠ (4, n, arg) → exec (.extDel n arg) s = .next s) ∧
      (∀ arg, j ≠ (5, 0, arg) → exec (.pfEvtSet arg) s = .next s) ∧ ∀ c, j ≠ (6, c, 0) → exec (.ctxKill c) s = .next s) ∧
    (j ≠ (1, 0, 0) → exec (.ctxOpen func) s = .next s) ∧ (∀ c, j ≠ (2, c, 0) → exec (.ctxClose func c) s = .next s) ∧
    ∀ arg, j ≠ (3, 0, arg) → exec (.vfEvtSet func arg) s = .next s

/-- The commands of the mailboxes complete with their RESULT: 2 for a wrong state, 1 for a bad argument, 3 without a key, 4 at a quota, and 0 with the effect of the command; a command that is refused
changes nothing but the mailbox, one that must wait stays BUSY, and meanwhile no other starts. WAY_MASK_WRITE keeps the ways of the VF's partition (R343, R346, R368 to R373, R375, R377, R381). -/
def Obligations.HypervisorCommands : Prop :=
  (∀ (s : State) (func : Nat), Spec.ignoresStarts s func) ∧
  (∀ (s : State) (p : Nat) (arg : BitVec 512), p < 20 → (s.mailbox 128).pending = none →
    let used := ∃ n x, s.vfs.get? n = some x ∧ x.en = true ∧ x.part = some p
    (used → exec (.partSet p arg) s = .next (Spec.replied s 128 1 p 2 arg)) ∧
    (¬used → ¬Spec.partition s p arg → exec (.partSet p arg) s = .next (Spec.replied s 128 1 p 1 arg)) ∧
    (¬used → Spec.partition s p arg → ∃ t, exec (.partSet p arg) s = .next (Spec.replied t 128 1 p 0 arg) ∧ (t.part p).desc = arg ∧
      (t.part p).nodes = (s.part p).nodes ∧ (t.part p).badRoot = false ∧ (∀ q, q ≠ p → t.part q = s.part q) ∧ (t.ctx (p + 1)).key = s.nextKeyGen ∧ t.nextKeyGen = s.nextKeyGen + 1)) ∧
  (∀ (s : State) (n : Nat) (arg : BitVec 512), n < 128 → (s.mailbox 128).pending = none →
    let p := arg.toNat % 32
    let en := arg.getLsbD 8
    let x := s.vf n
    let opened := ∃ c y, s.ctxs.get? c = some y ∧ 20 < c ∧ y.st ≠ .free ∧ y.func = n
    let stands := x.en = true ∧ x.part ≠ some p ∨ x.en = true ∧ en = false ∧ opened
    let bad := en = true ∧ x.ways = 0 ∨ (s.part p).desc.toNat % 2 ^ 32 = 0
    (20 ≤ p → exec (.vfSet n arg) s = .next (Spec.replied s 128 2 n 1 arg)) ∧
    (p < 20 → stands → exec (.vfSet n arg) s = .next (Spec.replied s 128 2 n 2 arg)) ∧
    (p < 20 → ¬stands → bad → exec (.vfSet n arg) s = .next (Spec.replied s 128 2 n 1 arg)) ∧
    (p < 20 → ¬stands → ¬bad → ∃ t, exec (.vfSet n arg) s = .next (Spec.replied t 128 2 n 0 arg) ∧ t.vf n = { x with part := some p, en := en } ∧
      (∀ k, k ≠ n → t.vf k = s.vf k) ∧ (en = true ∨ s.build = .gzC → t.code = s.code ∧ t.vats = s.vats) ∧
      (en = false → s.build ≠ .gzC → (∀ k c, t.code.get? k = some c → c.func ≠ n) ∧ ∀ k v, t.vats.get? k = some v → v.func ≠ n))) ∧
  (∀ (s : State) (n : Nat) (mask : BitVec 32), n < 128 →
    (s.configUp = false → exec (.wayMaskWrite n mask) s = .next s) ∧
    (s.configUp = true → exec (.wayMaskWrite n mask) s = .next (s.setVf n { s.vf n with
      ways := match (s.vf n).part with
        | some p => mask &&& (s.part p).desc.extractLsb' 32 32
        | none => 0 }))) ∧
  (∀ (s : State) (n : Nat) (arg : BitVec 512), (s.mailbox 128).pending = none →
    (extentOf arg = none ∨ 128 < n → exec (.extAdd n arg) s = .next (Spec.replied s 128 3 n 1 arg)) ∧
    (∀ e i r, n ≤ 128 → extentOf arg = some (e, i) → (s.extCheck n e).1 = r → r ≠ 0 → exec (.extAdd n arg) s = .next (Spec.replied s 128 3 n r arg)) ∧
    (∀ e i k t, n ≤ 128 → extentOf arg = some (e, i) → s.extCheck n e = (0, k) → s.exts.get? (n * 256 + i) = none →
      (s.left n i).flushRange n e.gbase (e.gbase + e.len * 65536) = .ok t () →
      ∃ u, exec (.extAdd n arg) s = .next (Spec.replied u 128 3 n 0 arg) ∧ u.exts = t.exts.set (n * 256 + i) { e with keyId := k, key := t.nextKeyGen } ∧ u.nextKeyGen = t.nextKeyGen + 1 ∧
        (∀ j, j ∈ u.keyUsed ↔ j = k ∨ j ∈ t.keyUsed) ∧ u.ctxs = t.ctxs ∧ u.l2 = t.l2 ∧
        (e.tgt = 0 → ∀ c, c ∈ u.mem ↔ c ∈ t.mem ∧ ¬(e.pbase / 64 ≤ c.1 / 64 ∧ c.1 / 64 < (e.pbase + e.len * 65536) / 64)) ∧ (e.tgt ≠ 0 → u.mem = t.mem)) ∧
    (∀ e i k w, n ≤ 128 → extentOf arg = some (e, i) → s.extCheck n e = (0, k) → ((s.leave n i).left n i).grant n i e k = .wait w →
      ∃ t, exec (.extAdd n arg) s = .next t ∧ (t.mailbox 128).pending = some (3, n, arg) ∧ t.exts = s.exts) ∧
    let i := arg.toNat / 2 ^ 256 % 2 ^ 16
    (128 < n ∨ 255 < i → exec (.extDel n arg) s = .next (Spec.replied s 128 4 n 1 arg)) ∧
    (n ≤ 128 → i ≤ 255 → s.exts.get? (n * 256 + i) = none → exec (.extDel n arg) s = .next (Spec.replied s 128 4 n 2 arg)) ∧
    ∀ e, n ≤ 128 → i ≤ 255 → s.exts.get? (n * 256 + i) = some e →
      (∀ w, ((s.leave n i).left n i).leaveExtent n e = .wait w → ∃ t, exec (.extDel n arg) s = .next t ∧ (t.mailbox 128).pending = some (4, n, arg) ∧ t.exts = s.exts) ∧
      ∀ t, ((s.leave n i).left n i).leaveExtent n e = .ok t () → ∃ u, exec (.extDel n arg) s = .next (Spec.replied u 128 4 n 0 arg) ∧ u.exts = t.exts.erase (n * 256 + i) ∧ u.keyUsed = t.keyUsed.erase e.keyId ∧ u.mem = t.mem) ∧
  (∀ (s : State) (n : Nat) (arg : BitVec 512),
    let base := arg.toNat % 2 ^ 64
    let size := arg.toNat / 2 ^ 64 % 2 ^ 8
    let ok := 4 ≤ size ∧ size ≤ 12
    let sets (func code : Nat) (i : Instr) : Prop := (s.mailbox func).pending = none →
      (¬ok → exec i s = .next (Spec.replied s func code 0 1 arg)) ∧
      (ok → (s.ring (32 + func)).held = [] → exec i s = .next (Spec.replied (s.setRing (32 + func) { s.ring (32 + func) with func := func, base := base, size := size }) func code 0 0 arg))
    sets 128 5 (.pfEvtSet arg) ∧ (n < 128 → (s.vf n).en = true → sets n 3 (.vfEvtSet n arg))) ∧
  ∀ (s : State) (n c : Nat),
    let keeps (func code index result : Nat) (t : State) : State := Spec.replied t func code index result (t.mailbox func).arg
    (n < 128 → (s.vf n).en = true → (s.mailbox n).pending = none →
      ((s.mayOpen n = false ∨ ∀ k, 21 ≤ k → k < 4096 → (s.ctx k).st ≠ .free) → exec (.ctxOpen n) s = .next (keeps n 1 0 4 s)) ∧
      (s.mayOpen n = true → 21 ≤ c → c < 4096 → (s.ctx c).st = .free → (∀ k, 21 ≤ k → k < c → (s.ctx k).st ≠ .free) →
        ∃ t arg, exec (.ctxOpen n) s = .next (Spec.replied t n 1 0 0 arg) ∧ arg.toNat % 2 ^ 16 = c ∧ t.ctx c = { Ctx.reset c with st := .idle, func := n, key := s.nextKeyGen } ∧
          (∀ k, k ≠ c → t.ctx k = s.ctx k) ∧ (∀ j e, e ∈ (t.core j).tlb → e.ctx ≠ c) ∧ t.mem = s.mem) ∧
      let mine := 21 ≤ c ∧ c ≤ 4095 ∧ (s.ctx c).func = n ∧ ((s.ctx c).st = .idle ∨ (s.ctx c).st = .saved)
      (¬mine → exec (.ctxClose n c) s = .next (keeps n 2 c 2 s)) ∧
      (mine → s.transferring c = true → exec (.ctxClose n c) s = .next (s.setBusy n (2, c, 0))) ∧
      (mine → s.transferring c = false → ∃ t, exec (.ctxClose n c) s = .next (keeps n 2 c 0 t) ∧ t.ctx c = Ctx.reset c ∧ (∀ k, k ≠ c → t.ctx k = s.ctx k) ∧
        (∀ k la, t.launch? k = some la → la.ctx ≠ c) ∧ (∀ d k g, t.graph? d k = some g → g.ctx ≠ c) ∧
        ∀ p k x, (t.part p).nodes.get? k = some x → x.recd.toNat / 2 ^ 16 % 2 ^ 12 ≠ c)) ∧
    ((s.mailbox 128).pending = none →
      (c < 21 ∨ 4095 < c → exec (.ctxKill c) s = .next (keeps 128 6 c 1 s)) ∧
      (21 ≤ c → c ≤ 4095 → (s.ctx c).st = .free → exec (.ctxKill c) s = .next (keeps 128 6 c 2 s)) ∧
      (21 ≤ c → c ≤ 4095 → (s.ctx c).st ≠ .free → s.transferring c = true → exec (.ctxKill c) s = .next (s.setBusy 128 (6, c, 0))) ∧
      ∀ t, 21 ≤ c → c ≤ 4095 → (s.ctx c).st ≠ .free → s.transferring c = false → s.dropCtx c = .ok t () →
        ∃ u, exec (.ctxKill c) s = .next (keeps 128 6 c 0 u) ∧ u.ctx c = Ctx.reset c ∧ (∀ k, k ≠ c → u.ctx k = t.ctx k) ∧ u.mem = t.mem) ∧
    ∀ func code index, func ≤ 128 → (s.mailbox func).pending = none → (if func = 128 then code = 0 ∨ 6 < code else code = 0 ∨ 3 < code) →
      exec (.mailboxUnknownCode func code index) s = .next (keeps func code index 1 s)

/-- The page of a host request, its mode, and the sector of device memory behind it (R411, R412). -/
def Sys2Proof.Spec.hostPage (s : State) (port : Nat) (addr : BitVec 64) (a : Nat) (m : PageMode) (sec : Nat) : Prop :=
  ∃ hb p, s.hb = some hb ∧ s.build = .gzC ∧ s.recovery = false ∧ port < 2 ∧ (s.die port).hostPort = some p ∧ p.up = true ∧ p.viral = false ∧
    a = (addr - hb).toNat / 64 * 64 ∧ a < s.hdmSize ∧ m = s.pageMode a ∧ sec = m.gpn * 64 + a % 4096 / 64

/-- A page that the host may use: shared, behind a local extent of its function with every right, which is not being removed (R343, R412). -/
def Sys2Proof.Spec.sharedPage (s : State) (m : PageMode) (a : Nat) : Prop :=
  m.mode = 2 ∧ s.isLeaving m.func (m.gpn * 4096 + a % 4096 / 64 * 64) = false ∧ ∃ e, s.extent m.func (m.gpn * 4096) = some e ∧ e.tgt = 0 ∧ e.rd = true ∧ e.wr = true ∧ e.pbase + (m.gpn * 4096 - e.gbase) = a / 4096 * 4096

/-- The host's requests to device memory, its answers to snoops and its snoops of host lines complete (R406, R410 to R414, R419, R420, R423). -/
def Obligations.HostRequestsComplete : Prop :=
  (∀ (s : State) (port : Nat) (addr : BitVec 64) (mv : MetaValue) (a : Nat) (m : PageMode) (sec : Nat), Spec.hostPage s port addr a m sec →
    let k := secKey m.func sec
    (m.mode = 0 → exec (.hostMemrd port addr mv) s = .next ((s.refused port).emit (.hostData addr 0 true)) ∧
      exec (.hostMeminv port addr mv) s = .next ((s.refused port).emit (.hostDone addr)) ∧
      ∀ data mask, exec (.hostMemwr port addr data mask mv false) s = .next ((s.refused port).emit (.hostDone addr))) ∧
    (m.mode = 3 → exec (.hostMemrd port addr mv) s = .next s ∧ exec (.hostMeminv port addr mv) s = .next s ∧
      ∀ data mask psn, exec (.hostMemwr port addr data mask mv psn) s = .next s) ∧
    (Spec.sharedPage s m a → (s.home k).owner.isSome = true → exec (.hostMemrd port addr mv) s = .next s) ∧
    (Spec.sharedPage s m a → (s.home k).owner = none → Spec.room s m.func (sec * 64) →
      (∃ (t : State) (d : BitVec 512) (p : Bool), exec (.hostMemrd port addr mv) s = .next (t.emit (.hostData addr d p)) ∧ (t.home k).host = (if mv = .invalid then (s.home k).host else MetaState mv) ∧
        t.mem = s.mem ∧ (mv ≠ .shared → ∀ c, t.l1? c k = none)) ∧
      exec (.hostMeminv port addr mv) s = .next ((s.setHome k { s.home k with host := MetaState mv }).emit (.hostDone addr)) ∧
      ∀ data mask psn, ∃ (t : State) (x : Sector), exec (.hostMemwr port addr data mask mv psn) s = .next (t.emit (.hostDone addr)) ∧ (t.home k).host = MetaState mv ∧
        (t.home k).copy = some x ∧ (∀ j, j < 64 → mask.getLsbD j = true → x.data.extractLsb' (8 * j) 8 = data.extractLsb' (8 * j) 8 ∧ x.dirty.getLsbD j = true) ∧
        (psn = true → x.psn = BitVec.allOnes 16) ∧ t.mem = s.mem)) ∧
  (∀ (s : State) (hb : BitVec 64), s.build = .gzC → s.recovery = false → s.hdmSize ≠ 0 → exec (.hdmDecoderCommit hb) s = .next { s with hb := some hb }) ∧
  (∀ (s : State) (i : Nat) (data : BitVec 512) (mask : BitVec 64),
    (s.snoops[i]? = none → exec (.bisnpResponse i data mask) s = .next s ∧ exec (.bisnpTimeout i) s = .next s ∧ exec (.biconflict i) s = .next s) ∧
    ∀ x, s.snoops[i]? = some x →
      let k := secKey x.func x.sec
      exec (.biconflict i) s = .next (if x.pkg = none then s.emit (.biConflictAck x.addr) else s) ∧
      (x.pkg = none → Spec.room s x.func (x.sec * 64) → ∃ t, exec (.bisnpResponse i data mask) s = .next t ∧ t.snoops = s.snoops.eraseIdx i ∧
        (t.home k).host = (if x.inv then .i else .s) ∧ t.mem = s.mem ∧ (mask = 0 → (t.home k).copy = (s.home k).copy) ∧
        (mask ≠ 0 → ∃ y, (t.home k).copy = some y ∧ ∀ j, j < 64 → mask.getLsbD j = true → y.data.extractLsb' (8 * j) 8 = data.extractLsb' (8 * j) 8)) ∧
      (∀ q, x.pkg = some q → ∃ t, exec (.bisnpResponse i data mask) s = .next t ∧ t.snoops = s.snoops.eraseIdx i ∧
        ∀ st, (q, st) ∈ t.pfilter.getD (x.addr / 64) [] → x.inv = false ∧ st = .s) ∧
      (s.clock - x.start < 2 ^ 22 → exec (.bisnpTimeout i) s = .next s) ∧
      (2 ^ 22 ≤ s.clock - x.start → x.pkg = none → ∃ t, exec (.bisnpTimeout i) s = .next t ∧
        t.snoops = (s.snoops.eraseIdx i).filter (fun y => secKey y.func y.sec != k || y.pkg != none) ∧
        (t.home k).host = .i ∧ (∃ y, (t.home k).copy = some y ∧ y.psn = BitVec.allOnes 16) ∧ (x.inv = false → t.flips = s.flips) ∧
        ∀ f, f ∈ t.flips → x.inv = true → f.toDev = true → f.page = x.addr / 4096 → f.func = x.func → f.gpn * 64 + f.next = x.sec → f.link = true)) ∧
  (∀ (s : State) (addr : BitVec 64), s.recovery = false →
    let snoops (src : Option (BitVec 16)) (i : Instr) : Prop := i = .snpinv ⟨src, addr⟩ ∨ i = .snpdata ⟨src, addr⟩ ∨ i = .snpcur ⟨src, addr⟩
    (s.lines.get? (addr.toNat / 64) = none → ∀ i, snoops none i → exec i s = .next (s.emit (.snpData addr 0 0 false))) ∧
    (∀ ln, s.lines.get? (addr.toNat / 64) = some ln →
      let k := secKey ln.func ln.gsec
      ((s.home k).owner.isSome = true → ∀ i, snoops none i → exec i s = .next s) ∧
      ((s.home k).owner = none →
        (∃ (t : State) (d : BitVec 512) (m : BitVec 64) (q : Bool), exec (.snpinv ⟨none, addr⟩) s = .next (t.emit (.snpData addr d m q)) ∧ (t.home k).copy = none ∧
          t.lines.get? (addr.toNat / 64) = none ∧ ∀ c, t.l1? c k = none) ∧
        (Spec.room s ln.func (ln.gsec * 64) → ∃ (t : State) (d : BitVec 512) (m : BitVec 64) (q : Bool), exec (.snpdata ⟨none, addr⟩) s = .next (t.emit (.snpData addr d m q)) ∧
          t.lines.get? (addr.toNat / 64) = some { ln with excl := false } ∧
          ∀ x, (t.home k).copy = some x → x.dirty = 0 ∧ ∀ j, j < 64 → m.getLsbD j = true → x.data.extractLsb' (8 * j) 8 = d.extractLsb' (8 * j) 8) ∧
        ∃ d m q, exec (.snpcur ⟨none, addr⟩) s = .next (s.emit (.snpData addr d m q)))) ∧
    ∀ pkg : BitVec 16,
      let ks := s.cachedOf fun p a => p == pkg.toNat && a / 64 == addr.toNat / 64
      ((∃ k, k ∈ ks ∧ (s.home k).owner.isSome = true) → ∀ i, snoops (some pkg) i → exec i s = .next s) ∧
      ((∀ k, k ∈ ks → (s.home k).owner = none) →
        (∃ (t : State) (d : BitVec 512) (m : BitVec 64) (q : Bool), exec (.snpinv ⟨some pkg, addr⟩) s = .next (t.emit (.snpData addr d m q)) ∧
          ∀ k, k ∈ ks → (t.home k).copy = none ∧ (t.home k).host = .i) ∧
        (∃ (t : State) (d : BitVec 512) (m : BitVec 64) (q : Bool), exec (.snpdata ⟨some pkg, addr⟩) s = .next (t.emit (.snpData addr d m q)) ∧
          ∀ k, k ∈ ks → (t.home k).host ≠ .a ∧ ∀ x, (t.home k).copy = some x → x.dirty = 0) ∧
        ∃ d m q, exec (.snpcur ⟨some pkg, addr⟩) s = .next (s.emit (.snpData addr d m q)))) ∧
  ∀ (s : State) (i port : Nat) (data : BitVec 512) (psn : Bool),
    (s.creqs[i]? = none ∨ s.hostLive port = false ∨ s.recovery = true → exec (.cxlCacheResponse i port data psn) s = .next s) ∧
    ∀ q, s.creqs[i]? = some q → (q.failed = true ∨ q.sent = false → exec (.cxlCacheResponse i port data psn) s = .next s) ∧
     (q.failed = false → q.sent = true → s.hostLive port = true → s.recovery = false → Spec.room s q.func (q.sec * 64) →
      let k := secKey q.func q.sec
      ∃ (t : State) (ln : HostLine), exec (.cxlCacheResponse i port data psn) s = .next t ∧ t.creqs = s.creqs.filter (fun x => x.failed || x.addr / 64 != q.addr / 64) ∧ t.mem = s.mem ∧ t.lines.get? (q.addr / 64) = some ln ∧
        ln.func = q.func ∧ ln.gsec = q.sec ∧ (q.r = .rdOwn ∨ q.r = .rdOwnNoData → ln.excl = true) ∧ (q.r = .rdCurr → ln.curr = some (data, psn)) ∧
        (q.r = .rdShared ∨ q.r = .rdOwn → ∃ x, (t.home k).copy = some x ∧ x.valid = BitVec.allOnes 64 ∧
          ((s.home k).copy = none → x.data = data) ∧ (psn = true → x.psn = BitVec.allOnes 16)))

/-- PMFLIP.H and PMFLIP.D complete. The checks of R416 come first and answer a code; then the page's mode changes, each sector of the page is made clean, or has the host's copy asked back, one turn after
another, and with the last the page is shared, or private again, and the status is given (R415 to R418). -/
def Obligations.PageFlipsComplete : Prop :=
  ∀ (s : State) (h : Here) (v : View) (o : OpSpec) (i : Instr) (dev : Bool), (∃ a, i = .pmflipH a) ∧ dev = false ∨ (∃ a, i = .pmflipD a) ∧ dev = true →
    Spec.privileged s h i v o →
    let c := (Spec.uniform s h v v.sa false).toNat
    let va := Spec.uniform s h v v.sbSrc true
    (∀ s1, h.r.waiting = false → Spec.reaches s h.f.ctx c → va.toNat % 4096 = 0 → s.release h.c h.f.ctx 6 = .ok s1 () →
      (∀ m code, s1.flipCheck c va dev = (m, .inl (.error code)) → ∀ f, (m.acquire h.c 6 false).flight? h.c h.fid = some f →
        CompletesIn i s h v (m.acquire h.c 6 false) f (Spec.answer h v (Spec.failed code)) ∧ m.pages = s1.pages) ∧
      ∀ m func gpn page, s1.flipCheck c va dev = (m, .inl (.ok (func, gpn, page))) →
        ∃ t : State, exec i s = .next (t.keepRun h) ∧ t.pages.get? page = some ⟨if dev then 3 else 1, func, gpn⟩ ∧
          t.flips = m.flips ++ [⟨h.c, h.fid, page, func, gpn, dev, 0, false⟩] ∧ t.mem = m.mem) ∧
    (∀ x, h.r.waiting = true → s.flips.find? (fun x => x.core == h.c && x.fid == h.fid) = some x →
      let k := secKey x.func (x.gpn * 64 + x.next)
      (dev = false → (s.home k).owner.isSome = true → exec i s = .next (s.keepRun h)) ∧
      (dev = false → (s.home k).owner = none → x.next < 63 → ∃ t : State, exec i s = .next (t.keepRun h) ∧ (∀ c, t.l1? c k = none) ∧
        (∀ y, (t.home k).copy = some y → y.dirty = 0) ∧ t.flips = s.flips.map fun y => if y.page = x.page then { x with next := x.next + 1 } else y) ∧
      (dev = false → (s.home k).owner = none → x.next = 63 → ∃ t f, CompletesIn i s h v t f (Spec.answer h v 0) ∧ (∀ y, f.holds y = h.f.holds y) ∧
        t.pages.get? x.page = some ⟨2, x.func, x.gpn⟩ ∧ ∀ y, y ∈ t.flips → y.page ≠ x.page) ∧
      (dev = true → (s.home k).host = .i → x.next < 63 →
        exec i s = .next (({ s with flips := s.flips.map fun y => if y.page = x.page then { x with next := x.next + 1 } else y } : State).keepRun h)) ∧
      (dev = true → (s.home k).host = .i → x.next = 63 → ∃ t f, CompletesIn i s h v t f (Spec.answer h v (if x.link then Spec.failed 4 else 0)) ∧
        (∀ y, f.holds y = h.f.holds y) ∧ t.pages.get? x.page = none ∧ ∀ y, y ∈ t.flips → y.page ≠ x.page)) ∧
    ∀ (u : State) (gpa e : Nat) (x : Extent) (cls : Bool) (m : State), u.build = .gzC → u.hb.isSome = true → u.dieTranslate c va .write = (m, .ok gpa cls) →
      m.extent (m.funcOf c) gpa = some x → x.rd = true → x.wr = true → e = x.pbase + (gpa - x.gbase) → x.tgt = 0 → e < m.hdmSize →
      (m.pageMode e).mode = 0 → u.flipCheck c va false = (m, .inl (.ok (m.funcOf c, gpa / 4096, e / 4096)))

/-- The events of the links and of attestation complete (R24, R407 to R409, R423, R430, R458, R463). -/
def Obligations.LinkEventsComplete : Prop :=
  (∀ (s : State) (r : PortRef), s.hasPort r = true →
    let p := s.portOf r
    (p.up = false → exec (.linkDown r) s = .next s ∧ exec (.laneFail r) s = .next s ∧ exec (.viralReceived r) s = .next s) ∧
    (p.up = true → ∃ t, exec (.linkDown r) s = .next t ∧ (t.portOf r).up = false ∧ (∀ n, r = .host n → t.mem = s.mem ∧ t.ctxs = s.ctxs) ∧
      ∀ d n, r = .fabric d n → p.peer.toNat ∈ t.lostPkgs ∨ t = s.setPort r { p with up := false, retrain := false }) ∧
    (∀ peer lanes slow ide, 16 ≤ lanes → ∃ t, exec (.linkTrain r peer lanes slow ide) s = .next t ∧
      (t.portOf r).up = true ∧ (t.portOf r).viral = false ∧ (t.portOf r).lost = false ∧ (t.portOf r).peer = peer ∧ (t.portOf r).ide = ide ∧
      (t.portOf r).slow = slow ∧ (t.portOf r).spares = 18 - min lanes 18 ∧ t.mem = s.mem) ∧
    (∀ peer lanes slow ide, lanes < 16 → ∃ t, exec (.linkTrain r peer lanes slow ide) s = .next t ∧ (t.portOf r).up = false) ∧
    (p.up = true → p.spares < 2 → exec (.laneFail r) s = .next (s.setPort r { p with spares := p.spares + 1, retrain := true })) ∧
    (p.up = true → 2 ≤ p.spares → ∃ t, exec (.laneFail r) s = .next t ∧ (t.portOf r).up = false) ∧
    exec (.laneRetrainDone r) s = .next (s.setPort r { p with retrain := false }) ∧
    (p.up = true → p.viral = false → ∃ t, exec (.viralReceived r) s = .next t ∧ (t.portOf r).viral = true ∧ (t.portOf r).up = true ∧
      ∀ x, x < 4096 → (∃ q, q ∈ s.reqs ∧ q.port = r ∧ q.ctx = x) ∨ (∃ q, q ∈ s.creqs ∧ r = .host q.port ∧ q.failed = false ∧ q.ctx = x) →
        (s.ctx x).st = .resident ∨ (s.ctx x).st = .idle → (t.ctx x).st = .halted ∧ ((∀ q, q ∈ s.reqs → q.port = r → ∀ d g o, q.what ≠ .op d g o) → (t.ctx x).cause = 7)) ∧
    (s.doeUp r = true ↔ p.up = true ∧ (r = .host 0 ∨ ∃ d n, r = .fabric d n ∧ s.build = .gzX ∧ (s.recovery = true → d = 0 ∧ n = 0))) ∧
    (s.doeUp r = false → ∀ msg, exec (.doeRequest ⟨r, msg⟩) s = .next s) ∧
    (s.doeUp r = true → exec (.doeRequest ⟨r, .measurements⟩) s = .next (s.emit (.doe 0 s.measurements)) ∧
      ∀ x, s.hasPort x = true →
        exec (.doeRequest ⟨r, .ideKeys x⟩) s = .next (if (s.portOf x).up then (s.setPort x { s.portOf x with ide := true }).emit (.doe 1 []) else s))) ∧
  ∀ (s : State) (i : Nat),
    (s.reqs[i]? = none → exec (.peerRequestTimeout i) s = .next s ∧ exec (.holdNotice i) s = .next s) ∧
    (s.heldReqs[i]? = none → exec (.holdNoticeTimer i) s = .next s) ∧
    (∀ q, s.heldReqs[i]? = some q → exec (.holdNoticeTimer i) s = .next (if s.clock - q.since < 2 ^ 16 then s
      else ({ s with heldReqs := s.heldReqs.set i { q with since := s.clock } } : State).emit (.holdNotice i))) ∧
    ∀ q, s.reqs[i]? = some q →
      exec (.holdNotice i) s = .next { s with reqs := s.reqs.set i { q with since := s.clock } } ∧
      (s.clock - q.since < 2 ^ 22 ∨ (s.portOf q.port).retrain = true → exec (.peerRequestTimeout i) s = .next s) ∧
      (2 ^ 22 ≤ s.clock - q.since → (s.portOf q.port).retrain = false → ∃ t, exec (.peerRequestTimeout i) s = .next t ∧ q.pkg ∈ t.lostPkgs ∧
        ((∀ y, y ∈ s.reqs → ∀ d g o, y.what ≠ .op d g o) → s.aimed q.pkg = [] →
          t.reqs = s.reqs.filter (fun y => !(y.pkg == q.pkg || y.via == q.pkg)) ∧ t.mem = s.mem ∧ ∀ k p, s.packets.get? k = some p → p.sent = true → p.pkg.toNat = q.pkg →
            t.packets.get? k = some { p with lost := true }))

/-- The events of errors, repair, power and boot complete (R225, R307, R332, R348, R359, R458 to R464). -/
def Obligations.ErrorsAndBootComplete : Prop :=
  (∀ (s : State) (c : Nat), (s.corePresent c = false → exec (.coreLost c) s = .next s) ∧
    (s.corePresent c = true → ∃ t, exec (.coreLost c) s = .next t ∧ t.corePresent c = false ∧
      (∃ ys, t.out = s.out ++ .machineCheck 3 :: ys) ∧
      ∀ x, (s.ctxs.get? x).isSome = true → (s.ctx x).st = .resident → s.coreHolds c x = true ∨ s.pressHeld c x = true ∨ s.groupOn c x = true → (t.ctx x).st = .halted ∧ (t.ctx x).cause = 8)) ∧
  (∀ (s : State) (c key w : Nat) (b : Block), s.block? c key = some b → b.granted = true → 4 * w + 4 ≤ b.spadHeld →
    ∃ t b', exec (.uncorrectableError (.scratchpad c key w)) s = .next t ∧ t.block? c key = some b' ∧ b'.word w = { b.word w with psn := true } ∧
      ∀ j, j ≠ w → b'.word j = b.word j) ∧
  (∀ (s : State) (c i j : Nat), i < 192 → j < 384 → ∃ t, exec (.uncorrectableError (.pressCell c 0 i j)) s = .next t ∧
    (((t.core c).press.z0.cells.getD (384 * i + j) ⟨0, false⟩).psn = true) ∧ (t.core c).press.z1 = (s.core c).press.z1) ∧
  (∀ (s : State) (c cb x : Nat), s.coreCtx c = some x → cb < 64 → exec (.uncorrectableError (.barrier c cb)) s = .next (s.trapContext x 4 0)) ∧
  (∀ (s : State) (addr : BitVec 64), exec (.uncorrectableError (.memory addr)) s =
    .next (if s.written.has (addr.toNat / 64) then { s with memPsn := insertN (addr.toNat / 64) s.memPsn } else s)) ∧
  (∀ (s : State) (c func : Nat) (gpa : BitVec 64) (x : Sector),
    let k := secKey func (gpa.toNat / 64)
    let m := maskOf (gpa.toNat % 64 / 4 * 4) 4
    s.l1? c k = some x → x.valid &&& m ≠ 0 → x.dirty &&& m = 0 →
      ∃ t, exec (.uncorrectableError (.l1Word c func gpa)) s = .next t ∧ t.mem = s.mem ∧ t.l2 = s.l2 ∧ ∀ y, t.l1? c k = some y → y.valid = x.valid &&& ~~~m ∧ y.data = x.data) ∧
  (∀ (s : State) (func : Nat) (gpa : BitVec 64) (x : Sector),
    let k := secKey func (gpa.toNat / 64)
    let m := maskOf (gpa.toNat % 64 / 4 * 4) 4
    (s.home k).copy = some x → x.valid &&& m ≠ 0 → x.dirty &&& m ≠ 0 →
      ∃ t y, exec (.uncorrectableError (.l2Word func gpa)) s = .next t ∧ t.mem = s.mem ∧ (t.home k).copy = some y ∧ y.data = x.data ∧ y.valid = x.valid ∧
        y.psn.getLsbD (gpa.toNat % 64 / 4) = true) ∧
  (∀ (s : State) (chan row : Nat), row < 2 ^ 32 → chan * 2 ^ 32 + row ∉ s.remap →
    ((s.remap.filter fun x => x / 2 ^ 32 == chan).length < 256 → exec (.rowRemap chan row) s = .next { s with remap := insertN (chan * 2 ^ 32 + row) s.remap }) ∧
    (256 ≤ (s.remap.filter fun x => x / 2 ^ 32 == chan).length → exec (.rowRemap chan row) s = .next (s.emit (.machineCheck 4)))) ∧
  (∀ (s : State) (d : Nat) (power : BitVec 16), d < 4 → ∃ g : Gov, exec (.governorStep d power) s = .next { s with gov := g } ∧ g.pwr = power.toNat ∧ g.plim = s.gov.plim ∧
    g.fmin = s.gov.fmin ∧ (s.gov.plim < power.toNat → g.freq = if s.gov.fmin < s.gov.freq then s.gov.freq - 1 else s.gov.freq) ∧
    (power.toNat ≤ s.gov.plim → g.freq = min 36 (s.gov.freq + 1)) ∧ (g.throt = true ↔ g.freq < 36)) ∧
  (∀ (s : State) (b : Build) (image : Option (List (BitVec 8))) (cfg : CfgRecord),
    let flash := image.getD s.flash
    let most := if b = .gzC then 4600 else 1200
    let verified := Config.imageOk (flash.map BitVec.toNat) = true
    let good := verified ∧ Config.recordOk (cfg.bytes.map BitVec.toNat) = true ∧ cfg.hdmSize % 2 ^ 28 = 0 ∧
      cfg.hdmSize ≤ 1020 * 2 ^ 30 ∧ cfg.plim ≤ most ∧ 12 ≤ cfg.fmin ∧ cfg.fmin ≤ 36 ∧ cfg.retire.length = 4
    ∃ t, exec (.reset b image cfg) s = .next t ∧ t.build = b ∧ t.flash = flash ∧ t.mem = [] ∧ t.launches = .empty ∧ t.ctxs = .empty ∧ t.exts = .empty ∧ t.gov.plim ≤ most ∧
      (∀ c, (t.core c).flights = .empty) ∧ (verified → t.idKey = some Config.pufKey) ∧ (¬verified → t.idKey = none) ∧ (¬good → t.recovery = true ∧ t.booted = false) ∧
      (good → t.recovery = false ∧ t.booted = true ∧ t.hdmSize = cfg.hdmSize ∧ t.gov.plim = cfg.plim ∧ t.gov.fmin = cfg.fmin ∧
        ∀ d, d < 4 → (t.die d).retire = cfg.retire.getD d 0)) ∧
  ∀ (s : State) (port : PortRef) (image : List (BitVec 8)),
    (s.recovery = true → s.doeUp port = true → Config.imageOk (image.map BitVec.toNat) = true → exec (.recoveryImagePush ⟨port, image⟩) s = .next { s with flash := image }) ∧
    (s.recovery = false ∨ s.doeUp port = false ∨ Config.imageOk (image.map BitVec.toNat) = false → exec (.recoveryImagePush ⟨port, image⟩) s = .next s)

-- ---------------------------------------------------------------------------------------------
-- The whole machine

/-- The package at power-on, before the event RESET boots it: the registers of R357 have the values that its table gives, contexts 0 to 20 are idle and the others free, no partition, function, ring, mailbox
or extent is set up, every key is free, no launch runs, every page is private, and memory is in its canonical form and lists nothing (R345, R357, R367, R368, R370 to R372, R381, R410, R411, R461;
die.retire, which the configuration record gives, and what unlisted memory reads as are the model's choices: assumptions 6 and 13). -/
def Obligations.ResetState : Prop :=
  let s := State.reset
  (∀ x y, Spec.csrHolds s 0 x y →
    let reg := x % 2 ^ 10
    y = if reg = 0x26 then 4 else if reg = 0x29 then 128 else if reg = 0x201 then 2048 else if reg = 0x203 then BitVec.ofNat 64 (36 + 12 * 2 ^ 8 + 4600 * 2 ^ 32) else 0) ∧
  (∀ c, (s.ctx c).st = if c ≤ 20 then .idle else .free) ∧
  (∀ p, (s.part p).desc = 128#512 <<< 256 ∧ (s.part p).nodes = .empty ∧ (s.part p).rootUp = false) ∧
  (∀ n, (s.vf n).part = none ∧ (s.vf n).en = false ∧ (s.mailbox n).arg = 0) ∧
  (∀ r, (s.ring r).size = 0 ∧ (s.ring r).eseq = 0) ∧
  (∀ k, s.exts.get? k = none ∧ s.launches.get? k = none) ∧ s.keyFree = 2048 ∧
  (∀ c, (s.core c).spk = 0 ∧ (s.core c).flights = .empty ∧ (s.core c).blocks = .empty ∧ ∀ e, ((s.core c).engs.get? e) = none) ∧
  (∀ a, (s.pageMode a).mode = 0) ∧ s.hb = none ∧ s.mem = [] ∧ s.fab = [] ∧ s.MemOk

/-- Every step keeps the memories of the package and of the other packages in their canonical form, from every state in which they have it. -/
def Obligations.EveryStepKeepsMemoryCanonical : Prop := ∀ s t : State, s.MemOk → step s = .next t → t.MemOk

/-- No step ends in a fault or a refusal: from every state, whatever the turn, the package goes on; no rule gives a state in which it stops. -/
def Obligations.EveryStepIsSafe : Prop := ∀ s : State, Safe s
end

