-- ==== Sys2Proof/Laws/Maps.lean ====
section
/-!
SUPPORT. Sys2Proof/Laws/Maps.lean: the laws of finite maps, of rising lists and of memory as cells: reading after writing, and the canonical forms that every
operation keeps.
-/
namespace Sys2Proof.Machine

open Sys2Proof

variable {α β : Type}

-- ---------------------------------------------------------------------------------------------
-- Reading after writing

@[simp] theorem findK_insertK (k j : Nat) (x : α) (m : List (Nat × α)) :
    findK k (insertK j x m) = if j = k then some x else findK k m := by
  induction m with
  | nil => simp [insertK, findK]
  | cons e rest ih =>
    obtain ⟨n, y⟩ := e
    simp only [insertK]
    split
    · simp only [findK]
    · split
      · subst_vars
        simp only [findK]
        split <;> rfl
      · simp only [findK, ih]
        split <;> split <;> simp_all

@[simp] theorem KMap.get?_empty (k : Nat) : (KMap.empty : KMap α).get? k = none := rfl
@[simp] theorem KMap.get?_set (m : KMap α) (j k : Nat) (x : α) : (m.set j x).get? k = if j = k then some x else m.get? k :=
  findK_insertK k j x m.entries
@[simp] theorem KMap.getD_set (m : KMap α) (j k : Nat) (x d : α) : (m.set j x).getD k d = if j = k then x else m.getD k d := by
  simp only [KMap.getD, KMap.get?_set]
  split <;> rfl
@[simp] theorem KMap.getD_empty (k : Nat) (d : α) : (KMap.empty : KMap α).getD k d = d := rfl
@[simp] theorem KMap.has_set (m : KMap α) (j k : Nat) (x : α) : (m.set j x).has k = (decide (j = k) || m.has k) := by
  simp only [KMap.has, KMap.get?_set]
  split <;> simp_all

theorem findK_map (f : Nat → α → β) (k : Nat) (m : List (Nat × α)) :
    findK k (m.map fun e => (e.1, f e.1 e.2)) = (findK k m).map (f k) := by
  induction m with
  | nil => rfl
  | cons e rest ih =>
    obtain ⟨n, y⟩ := e
    simp only [List.map_cons, findK]
    split
    · subst_vars; rfl
    · exact ih

@[simp] theorem KMap.get?_mapV (m : KMap α) (f : Nat → α → β) (k : Nat) : (m.mapV f).get? k = (m.get? k).map (f k) :=
  findK_map f k m.entries

theorem findK_below {k b : Nat} {m : List (Nat × α)} (r : risingFrom b m = true) (h : k < b) : findK k m = none := by
  induction m generalizing b with
  | nil => rfl
  | cons e rest ih =>
    obtain ⟨n, y⟩ := e
    simp only [risingFrom, Bool.and_eq_true, decide_eq_true_eq] at r
    simp only [findK]
    split
    · omega
    · exact ih r.2 (by omega)

theorem findK_eraseK (k j b : Nat) (m : List (Nat × α)) (r : risingFrom b m = true) :
    findK k (eraseK j m) = if j = k then none else findK k m := by
  induction m generalizing b with
  | nil => simp [eraseK, findK]
  | cons e rest ih =>
    obtain ⟨n, y⟩ := e
    simp only [risingFrom, Bool.and_eq_true, decide_eq_true_eq] at r
    simp only [eraseK]
    split
    · rename_i hn
      subst hn
      split
      · rename_i hk
        subst hk
        exact findK_below r.2 (by omega)
      · rename_i hk
        simp only [findK, hk, if_false]
    · rename_i hn
      simp only [findK]
      rw [ih _ r.2]
      split
      · rename_i hk
        subst hk
        have : ¬ j = n := fun h => hn h.symm
        simp [this]
      · rfl

@[simp] theorem KMap.get?_erase (m : KMap α) (j k : Nat) : (m.erase j).get? k = if j = k then none else m.get? k :=
  findK_eraseK k j 0 m.entries m.rising

theorem findK_filter (p : Nat × α → Bool) (k b : Nat) (m : List (Nat × α)) (r : risingFrom b m = true) :
    findK k (m.filter p) = (findK k m).filter fun x => p (k, x) := by
  induction m generalizing b with
  | nil => rfl
  | cons e rest ih =>
    obtain ⟨n, y⟩ := e
    simp only [risingFrom, Bool.and_eq_true, decide_eq_true_eq] at r
    simp only [List.filter_cons]
    by_cases hk : n = k
    · subst hk
      split
      · rename_i hp
        simp [findK, hp, Option.filter]
      · rename_i hp
        rw [ih _ r.2, findK_below r.2 (by omega)]
        simp [findK, hp, Option.filter]
    · split
      · simp only [findK, hk, if_false, ih _ r.2]
      · simp only [findK, hk, if_false, ih _ r.2]

@[simp] theorem KMap.get?_filter (m : KMap α) (p : Nat → α → Bool) (k : Nat) : (m.filter p).get? k = (m.get? k).filter (p k) :=
  findK_filter _ k 0 m.entries m.rising

theorem mem_of_findK {k : Nat} {x : α} {m : List (Nat × α)} (h : findK k m = some x) : (k, x) ∈ m := by
  induction m with
  | nil => simp [findK] at h
  | cons e rest ih =>
    obtain ⟨n, y⟩ := e
    simp only [findK] at h
    split at h
    · simp_all
    · exact List.mem_cons_of_mem _ (ih h)

theorem findK_of_mem {k b : Nat} {x : α} {m : List (Nat × α)} (r : risingFrom b m = true) (h : (k, x) ∈ m) : findK k m = some x := by
  induction m generalizing b with
  | nil => simp at h
  | cons e rest ih =>
    obtain ⟨n, y⟩ := e
    simp only [risingFrom, Bool.and_eq_true, decide_eq_true_eq] at r
    simp only [List.mem_cons, Prod.mk.injEq] at h
    simp only [findK]
    rcases h with ⟨rfl, rfl⟩ | h
    · simp
    · have hr := ih r.2 h
      split
      · subst_vars
        rw [findK_below r.2 (by omega)] at hr
        simp at hr
      · exact hr

/-- The entries of a map are what its keys read. -/
theorem KMap.mem_entries (m : KMap α) (k : Nat) (x : α) : (k, x) ∈ m.entries ↔ m.get? k = some x :=
  ⟨findK_of_mem m.rising, mem_of_findK⟩

theorem insertK_insertK (k : Nat) (x y : α) (m : List (Nat × α)) : insertK k y (insertK k x m) = insertK k y m := by
  induction m with
  | nil => simp [insertK]
  | cons e rest ih =>
    obtain ⟨n, z⟩ := e
    simp only [insertK]
    split
    · simp [insertK]
    · split
      · simp [insertK]
      · rename_i h1 h2
        simp only [insertK, h1, h2, if_false, ih]

/-- Of two writes of one key the second stays. -/
@[simp] theorem KMap.set_set (m : KMap α) (k : Nat) (x y : α) : (m.set k x).set k y = m.set k y := by
  simp only [KMap.set, insertK_insertK]

-- ---------------------------------------------------------------------------------------------
-- Memory

theorem cellAt_below {a b : Nat} {m : List Host.Cell} (r : cellsFrom b m = true) (h : a < b) : cellAt a m = 0 := by
  induction m generalizing b with
  | nil => rfl
  | cons e rest ih =>
    obtain ⟨n, y⟩ := e
    simp only [cellsFrom, Bool.and_eq_true, decide_eq_true_eq] at r
    simp only [cellAt]
    split
    · omega
    · exact ih r.2 (by omega)

theorem cellsFrom_mono {a b : Nat} (h : a ≤ b) {m : List Host.Cell} (r : cellsFrom b m = true) : cellsFrom a m = true := by
  cases m with
  | nil => rfl
  | cons e rest =>
    simp only [cellsFrom, Bool.and_eq_true, decide_eq_true_eq] at *
    exact ⟨⟨by omega, r.1.2⟩, r.2⟩

/-- Writing a byte keeps the canonical form. -/
theorem cellsFrom_setCell (b a : Nat) (x : Byte) (m : List Host.Cell) (h : b ≤ a) (r : cellsFrom b m = true) :
    cellsFrom b (setCell a x m) = true := by
  induction m generalizing b with
  | nil =>
    simp only [setCell]
    split
    · rfl
    · rename_i hx
      simp only [cellsFrom, Bool.and_eq_true, decide_eq_true_eq]
      exact ⟨⟨h, hx⟩, trivial⟩
  | cons e rest ih =>
    obtain ⟨n, y⟩ := e
    have r' := r
    simp only [cellsFrom, Bool.and_eq_true, decide_eq_true_eq] at r'
    simp only [setCell]
    split
    · split
      · exact r
      · rename_i h1 h2
        simp only [cellsFrom, Bool.and_eq_true, decide_eq_true_eq]
        exact ⟨⟨h, h2⟩, ⟨by omega, r'.1.2⟩, r'.2⟩
    · split
      · rename_i h1
        subst h1
        split
        · exact cellsFrom_mono (by omega) r'.2
        · rename_i h2
          simp only [cellsFrom, Bool.and_eq_true, decide_eq_true_eq]
          exact ⟨⟨h, h2⟩, r'.2⟩
      · simp only [cellsFrom, Bool.and_eq_true, decide_eq_true_eq]
        exact ⟨r'.1, ih (n + 1) (by omega) r'.2⟩

theorem Memory.wf_setCell (a : Nat) (x : Byte) (m : List Host.Cell) (h : Memory.wf m = true) : Memory.wf (setCell a x m) = true :=
  cellsFrom_setCell 0 a x m (Nat.zero_le _) h

theorem Memory.wf_setCells (a : Nat) (xs : List Byte) (m : List Host.Cell) (h : Memory.wf m = true) : Memory.wf (setCells a xs m) = true := by
  induction xs generalizing a m with
  | nil => exact h
  | cons x xs ih => exact ih (a + 1) _ (Memory.wf_setCell a x m h)

theorem foldl_keeps {σ ι : Type} (P : σ → Prop) (f : σ → ι → σ) (xs : List ι) (s : σ) (h : P s) (step : ∀ s x, P s → P (f s x)) :
    P (xs.foldl f s) := by
  induction xs generalizing s with
  | nil => exact h
  | cons x xs ih => exact ih _ (step s x h)

theorem Memory.wf_setSector (a : Nat) (d : BitVec 512) (k : BitVec 64) (m : List Host.Cell) (h : Memory.wf m = true) :
    Memory.wf (setSector a d k m) = true :=
  foldl_keeps (fun m => Memory.wf m = true) _ _ m h fun m j hm => by
    split
    · exact Memory.wf_setCell _ _ _ hm
    · exact hm

theorem cellsFrom_filter (p : Host.Cell → Bool) (b : Nat) (m : List Host.Cell) (r : cellsFrom b m = true) : cellsFrom b (m.filter p) = true := by
  induction m generalizing b with
  | nil => rfl
  | cons e rest ih =>
    obtain ⟨n, y⟩ := e
    simp only [cellsFrom, Bool.and_eq_true, decide_eq_true_eq] at r
    simp only [List.filter_cons]
    split
    · simp only [cellsFrom, Bool.and_eq_true, decide_eq_true_eq]
      exact ⟨r.1, ih _ r.2⟩
    · exact ih _ (cellsFrom_mono (by omega) r.2)

theorem Memory.wf_filter (p : Host.Cell → Bool) (m : List Host.Cell) (h : Memory.wf m = true) : Memory.wf (m.filter p) = true :=
  cellsFrom_filter p 0 m h

/-- Reading a byte after writing one. -/
theorem cellAt_setCell_aux (a b n : Nat) (x : Byte) (m : List Host.Cell) (r : cellsFrom n m = true) :
    cellAt a (setCell b x m) = if b = a then x else cellAt a m := by
  induction m generalizing n with
  | nil =>
    simp only [setCell]
    split
    · subst_vars; simp [cellAt]
    · simp [cellAt]
  | cons e rest ih =>
    obtain ⟨k, y⟩ := e
    simp only [cellsFrom, Bool.and_eq_true, decide_eq_true_eq] at r
    simp only [setCell]
    split
    · split
      · split
        · subst_vars
          simp only [cellAt]
          rw [if_neg (by omega)]
          exact cellAt_below r.2 (by omega)
        · rfl
      · simp only [cellAt]
    · split
      · subst_vars
        split
        · rename_i h0
          split
          · subst_vars
            exact cellAt_below r.2 (by omega)
          · rename_i hk
            simp only [cellAt, hk, if_false]
        · simp only [cellAt]
          split <;> simp_all
      · simp only [cellAt, ih _ r.2]
        split <;> split <;> simp_all

theorem cellAt_setCell (a b : Nat) (x : Byte) (m : List Host.Cell) (h : Memory.wf m = true) :
    cellAt a (setCell b x m) = if b = a then x else cellAt a m :=
  cellAt_setCell_aux a b 0 x m h

end Sys2Proof.Machine
end

