-- ==== Sys2Proof/Laws/State.lean ====
section
/-!
SUPPORT. Sys2Proof/Laws/State.lean: one lemma per field for each writer of a part of the state, so that no later proof unfolds a record update.
-/
namespace Sys2Proof.Machine

open Sys2Proof

@[simp] theorem State.setCore_build (s : State) (c : Nat) (x : Core) : (s.setCore c x).build = s.build := rfl
@[simp] theorem State.setCore_recovery (s : State) (c : Nat) (x : Core) : (s.setCore c x).recovery = s.recovery := rfl
@[simp] theorem State.setCore_booted (s : State) (c : Nat) (x : Core) : (s.setCore c x).booted = s.booted := rfl
@[simp] theorem State.setCore_flash (s : State) (c : Nat) (x : Core) : (s.setCore c x).flash = s.flash := rfl
@[simp] theorem State.setCore_cfg (s : State) (c : Nat) (x : Core) : (s.setCore c x).cfg = s.cfg := rfl
@[simp] theorem State.setCore_clock (s : State) (c : Nat) (x : Core) : (s.setCore c x).clock = s.clock := rfl
@[simp] theorem State.setCore_groups (s : State) (c : Nat) (x : Core) : (s.setCore c x).groups = s.groups := rfl
@[simp] theorem State.setCore_nextGroup (s : State) (c : Nat) (x : Core) : (s.setCore c x).nextGroup = s.nextGroup := rfl
@[simp] theorem State.setCore_dies (s : State) (c : Nat) (x : Core) : (s.setCore c x).dies = s.dies := rfl
@[simp] theorem State.setCore_gov (s : State) (c : Nat) (x : Core) : (s.setCore c x).gov = s.gov := rfl
@[simp] theorem State.setCore_l2 (s : State) (c : Nat) (x : Core) : (s.setCore c x).l2 = s.l2 := rfl
@[simp] theorem State.setCore_l2Ways (s : State) (c : Nat) (x : Core) : (s.setCore c x).l2Ways = s.l2Ways := rfl
@[simp] theorem State.setCore_mem (s : State) (c : Nat) (x : Core) : (s.setCore c x).mem = s.mem := rfl
@[simp] theorem State.setCore_fab (s : State) (c : Nat) (x : Core) : (s.setCore c x).fab = s.fab := rfl
@[simp] theorem State.setCore_written (s : State) (c : Nat) (x : Core) : (s.setCore c x).written = s.written := rfl
@[simp] theorem State.setCore_memPsn (s : State) (c : Nat) (x : Core) : (s.setCore c x).memPsn = s.memPsn := rfl
@[simp] theorem State.setCore_fabPsn (s : State) (c : Nat) (x : Core) : (s.setCore c x).fabPsn = s.fabPsn := rfl
@[simp] theorem State.setCore_remap (s : State) (c : Nat) (x : Core) : (s.setCore c x).remap = s.remap := rfl
@[simp] theorem State.setCore_ctxs (s : State) (c : Nat) (x : Core) : (s.setCore c x).ctxs = s.ctxs := rfl
@[simp] theorem State.setCore_vfs (s : State) (c : Nat) (x : Core) : (s.setCore c x).vfs = s.vfs := rfl
@[simp] theorem State.setCore_exts (s : State) (c : Nat) (x : Core) : (s.setCore c x).exts = s.exts := rfl
@[simp] theorem State.setCore_leaving (s : State) (c : Nat) (x : Core) : (s.setCore c x).leaving = s.leaving := rfl
@[simp] theorem State.setCore_released (s : State) (c : Nat) (x : Core) : (s.setCore c x).released = s.released := rfl
@[simp] theorem State.setCore_keyFree (s : State) (c : Nat) (x : Core) : (s.setCore c x).keyFree = s.keyFree := rfl
@[simp] theorem State.setCore_keyUsed (s : State) (c : Nat) (x : Core) : (s.setCore c x).keyUsed = s.keyUsed := rfl
@[simp] theorem State.setCore_parts (s : State) (c : Nat) (x : Core) : (s.setCore c x).parts = s.parts := rfl
@[simp] theorem State.setCore_rings (s : State) (c : Nat) (x : Core) : (s.setCore c x).rings = s.rings := rfl
@[simp] theorem State.setCore_mail (s : State) (c : Nat) (x : Core) : (s.setCore c x).mail = s.mail := rfl
@[simp] theorem State.setCore_launches (s : State) (c : Nat) (x : Core) : (s.setCore c x).launches = s.launches := rfl
@[simp] theorem State.setCore_nextLaunch (s : State) (c : Nat) (x : Core) : (s.setCore c x).nextLaunch = s.nextLaunch := rfl
@[simp] theorem State.setCore_nextOrder (s : State) (c : Nat) (x : Core) : (s.setCore c x).nextOrder = s.nextOrder := rfl
@[simp] theorem State.setCore_nextKeyGen (s : State) (c : Nat) (x : Core) : (s.setCore c x).nextKeyGen = s.nextKeyGen := rfl
@[simp] theorem State.setCore_images (s : State) (c : Nat) (x : Core) : (s.setCore c x).images = s.images := rfl
@[simp] theorem State.setCore_failures (s : State) (c : Nat) (x : Core) : (s.setCore c x).failures = s.failures := rfl
@[simp] theorem State.setCore_arrivals (s : State) (c : Nat) (x : Core) : (s.setCore c x).arrivals = s.arrivals := rfl
@[simp] theorem State.setCore_hdmSize (s : State) (c : Nat) (x : Core) : (s.setCore c x).hdmSize = s.hdmSize := rfl
@[simp] theorem State.setCore_hb (s : State) (c : Nat) (x : Core) : (s.setCore c x).hb = s.hb := rfl
@[simp] theorem State.setCore_pages (s : State) (c : Nat) (x : Core) : (s.setCore c x).pages = s.pages := rfl
@[simp] theorem State.setCore_snoops (s : State) (c : Nat) (x : Core) : (s.setCore c x).snoops = s.snoops := rfl
@[simp] theorem State.setCore_lines (s : State) (c : Nat) (x : Core) : (s.setCore c x).lines = s.lines := rfl
@[simp] theorem State.setCore_creqs (s : State) (c : Nat) (x : Core) : (s.setCore c x).creqs = s.creqs := rfl
@[simp] theorem State.setCore_flips (s : State) (c : Nat) (x : Core) : (s.setCore c x).flips = s.flips := rfl
@[simp] theorem State.setCore_reqs (s : State) (c : Nat) (x : Core) : (s.setCore c x).reqs = s.reqs := rfl
@[simp] theorem State.setCore_heldReqs (s : State) (c : Nat) (x : Core) : (s.setCore c x).heldReqs = s.heldReqs := rfl
@[simp] theorem State.setCore_gone (s : State) (c : Nat) (x : Core) : (s.setCore c x).gone = s.gone := rfl
@[simp] theorem State.setCore_via (s : State) (c : Nat) (x : Core) : (s.setCore c x).via = s.via := rfl
@[simp] theorem State.setCore_lostPkgs (s : State) (c : Nat) (x : Core) : (s.setCore c x).lostPkgs = s.lostPkgs := rfl
@[simp] theorem State.setCore_ident (s : State) (c : Nat) (x : Core) : (s.setCore c x).ident = s.ident := rfl
@[simp] theorem State.setCore_idKey (s : State) (c : Nat) (x : Core) : (s.setCore c x).idKey = s.idKey := rfl
@[simp] theorem State.setCore_binds (s : State) (c : Nat) (x : Core) : (s.setCore c x).binds = s.binds := rfl
@[simp] theorem State.setCore_pfilter (s : State) (c : Nat) (x : Core) : (s.setCore c x).pfilter = s.pfilter := rfl
@[simp] theorem State.setCore_vats (s : State) (c : Nat) (x : Core) : (s.setCore c x).vats = s.vats := rfl
@[simp] theorem State.setCore_vatPort (s : State) (c : Nat) (x : Core) : (s.setCore c x).vatPort = s.vatPort := rfl
@[simp] theorem State.setCore_vatQ (s : State) (c : Nat) (x : Core) : (s.setCore c x).vatQ = s.vatQ := rfl
@[simp] theorem State.setCore_code (s : State) (c : Nat) (x : Core) : (s.setCore c x).code = s.code := rfl
@[simp] theorem State.setCore_trusted (s : State) (c : Nat) (x : Core) : (s.setCore c x).trusted = s.trusted := rfl
@[simp] theorem State.setCore_codes (s : State) (c : Nat) (x : Core) : (s.setCore c x).codes = s.codes := rfl
@[simp] theorem State.setCore_packets (s : State) (c : Nat) (x : Core) : (s.setCore c x).packets = s.packets := rfl
@[simp] theorem State.setCore_pctxs (s : State) (c : Nat) (x : Core) : (s.setCore c x).pctxs = s.pctxs := rfl
@[simp] theorem State.setCore_allots (s : State) (c : Nat) (x : Core) : (s.setCore c x).allots = s.allots := rfl
@[simp] theorem State.setCore_tags (s : State) (c : Nat) (x : Core) : (s.setCore c x).tags = s.tags := rfl
@[simp] theorem State.setCore_regions (s : State) (c : Nat) (x : Core) : (s.setCore c x).regions = s.regions := rfl
@[simp] theorem State.setCore_lastSeq (s : State) (c : Nat) (x : Core) : (s.setCore c x).lastSeq = s.lastSeq := rfl
@[simp] theorem State.setCore_sendSeq (s : State) (c : Nat) (x : Core) : (s.setCore c x).sendSeq = s.sendSeq := rfl
@[simp] theorem State.setCore_out (s : State) (c : Nat) (x : Core) : (s.setCore c x).out = s.out := rfl
@[simp] theorem State.setCore_turns (s : State) (c : Nat) (x : Core) : (s.setCore c x).turns = s.turns := rfl
@[simp] theorem State.setCore_cur (s : State) (c : Nat) (x : Core) : (s.setCore c x).cur = s.cur := rfl
@[simp] theorem State.setCore_free (s : State) (c : Nat) (x : Core) : (s.setCore c x).free = s.free := rfl
@[simp] theorem State.setCore_cores (s : State) (c : Nat) (x : Core) : (s.setCore c x).cores = s.cores.set c x := rfl
@[simp] theorem State.setFlight_build (s : State) (c f : Nat) (x : Flight) : (s.setFlight c f x).build = s.build := rfl
@[simp] theorem State.setFlight_recovery (s : State) (c f : Nat) (x : Flight) : (s.setFlight c f x).recovery = s.recovery := rfl
@[simp] theorem State.setFlight_booted (s : State) (c f : Nat) (x : Flight) : (s.setFlight c f x).booted = s.booted := rfl
@[simp] theorem State.setFlight_flash (s : State) (c f : Nat) (x : Flight) : (s.setFlight c f x).flash = s.flash := rfl
@[simp] theorem State.setFlight_cfg (s : State) (c f : Nat) (x : Flight) : (s.setFlight c f x).cfg = s.cfg := rfl
@[simp] theorem State.setFlight_clock (s : State) (c f : Nat) (x : Flight) : (s.setFlight c f x).clock = s.clock := rfl
@[simp] theorem State.setFlight_groups (s : State) (c f : Nat) (x : Flight) : (s.setFlight c f x).groups = s.groups := rfl
@[simp] theorem State.setFlight_nextGroup (s : State) (c f : Nat) (x : Flight) : (s.setFlight c f x).nextGroup = s.nextGroup := rfl
@[simp] theorem State.setFlight_dies (s : State) (c f : Nat) (x : Flight) : (s.setFlight c f x).dies = s.dies := rfl
@[simp] theorem State.setFlight_gov (s : State) (c f : Nat) (x : Flight) : (s.setFlight c f x).gov = s.gov := rfl
@[simp] theorem State.setFlight_l2 (s : State) (c f : Nat) (x : Flight) : (s.setFlight c f x).l2 = s.l2 := rfl
@[simp] theorem State.setFlight_l2Ways (s : State) (c f : Nat) (x : Flight) : (s.setFlight c f x).l2Ways = s.l2Ways := rfl
@[simp] theorem State.setFlight_mem (s : State) (c f : Nat) (x : Flight) : (s.setFlight c f x).mem = s.mem := rfl
@[simp] theorem State.setFlight_fab (s : State) (c f : Nat) (x : Flight) : (s.setFlight c f x).fab = s.fab := rfl
@[simp] theorem State.setFlight_written (s : State) (c f : Nat) (x : Flight) : (s.setFlight c f x).written = s.written := rfl
@[simp] theorem State.setFlight_memPsn (s : State) (c f : Nat) (x : Flight) : (s.setFlight c f x).memPsn = s.memPsn := rfl
@[simp] theorem State.setFlight_fabPsn (s : State) (c f : Nat) (x : Flight) : (s.setFlight c f x).fabPsn = s.fabPsn := rfl
@[simp] theorem State.setFlight_remap (s : State) (c f : Nat) (x : Flight) : (s.setFlight c f x).remap = s.remap := rfl
@[simp] theorem State.setFlight_ctxs (s : State) (c f : Nat) (x : Flight) : (s.setFlight c f x).ctxs = s.ctxs := rfl
@[simp] theorem State.setFlight_vfs (s : State) (c f : Nat) (x : Flight) : (s.setFlight c f x).vfs = s.vfs := rfl
@[simp] theorem State.setFlight_exts (s : State) (c f : Nat) (x : Flight) : (s.setFlight c f x).exts = s.exts := rfl
@[simp] theorem State.setFlight_leaving (s : State) (c f : Nat) (x : Flight) : (s.setFlight c f x).leaving = s.leaving := rfl
@[simp] theorem State.setFlight_released (s : State) (c f : Nat) (x : Flight) : (s.setFlight c f x).released = s.released := rfl
@[simp] theorem State.setFlight_keyFree (s : State) (c f : Nat) (x : Flight) : (s.setFlight c f x).keyFree = s.keyFree := rfl
@[simp] theorem State.setFlight_keyUsed (s : State) (c f : Nat) (x : Flight) : (s.setFlight c f x).keyUsed = s.keyUsed := rfl
@[simp] theorem State.setFlight_parts (s : State) (c f : Nat) (x : Flight) : (s.setFlight c f x).parts = s.parts := rfl
@[simp] theorem State.setFlight_rings (s : State) (c f : Nat) (x : Flight) : (s.setFlight c f x).rings = s.rings := rfl
@[simp] theorem State.setFlight_mail (s : State) (c f : Nat) (x : Flight) : (s.setFlight c f x).mail = s.mail := rfl
@[simp] theorem State.setFlight_launches (s : State) (c f : Nat) (x : Flight) : (s.setFlight c f x).launches = s.launches := rfl
@[simp] theorem State.setFlight_nextLaunch (s : State) (c f : Nat) (x : Flight) : (s.setFlight c f x).nextLaunch = s.nextLaunch := rfl
@[simp] theorem State.setFlight_nextOrder (s : State) (c f : Nat) (x : Flight) : (s.setFlight c f x).nextOrder = s.nextOrder := rfl
@[simp] theorem State.setFlight_nextKeyGen (s : State) (c f : Nat) (x : Flight) : (s.setFlight c f x).nextKeyGen = s.nextKeyGen := rfl
@[simp] theorem State.setFlight_images (s : State) (c f : Nat) (x : Flight) : (s.setFlight c f x).images = s.images := rfl
@[simp] theorem State.setFlight_failures (s : State) (c f : Nat) (x : Flight) : (s.setFlight c f x).failures = s.failures := rfl
@[simp] theorem State.setFlight_arrivals (s : State) (c f : Nat) (x : Flight) : (s.setFlight c f x).arrivals = s.arrivals := rfl
@[simp] theorem State.setFlight_hdmSize (s : State) (c f : Nat) (x : Flight) : (s.setFlight c f x).hdmSize = s.hdmSize := rfl
@[simp] theorem State.setFlight_hb (s : State) (c f : Nat) (x : Flight) : (s.setFlight c f x).hb = s.hb := rfl
@[simp] theorem State.setFlight_pages (s : State) (c f : Nat) (x : Flight) : (s.setFlight c f x).pages = s.pages := rfl
@[simp] theorem State.setFlight_snoops (s : State) (c f : Nat) (x : Flight) : (s.setFlight c f x).snoops = s.snoops := rfl
@[simp] theorem State.setFlight_lines (s : State) (c f : Nat) (x : Flight) : (s.setFlight c f x).lines = s.lines := rfl
@[simp] theorem State.setFlight_creqs (s : State) (c f : Nat) (x : Flight) : (s.setFlight c f x).creqs = s.creqs := rfl
@[simp] theorem State.setFlight_flips (s : State) (c f : Nat) (x : Flight) : (s.setFlight c f x).flips = s.flips := rfl
@[simp] theorem State.setFlight_reqs (s : State) (c f : Nat) (x : Flight) : (s.setFlight c f x).reqs = s.reqs := rfl
@[simp] theorem State.setFlight_heldReqs (s : State) (c f : Nat) (x : Flight) : (s.setFlight c f x).heldReqs = s.heldReqs := rfl
@[simp] theorem State.setFlight_gone (s : State) (c f : Nat) (x : Flight) : (s.setFlight c f x).gone = s.gone := rfl
@[simp] theorem State.setFlight_via (s : State) (c f : Nat) (x : Flight) : (s.setFlight c f x).via = s.via := rfl
@[simp] theorem State.setFlight_lostPkgs (s : State) (c f : Nat) (x : Flight) : (s.setFlight c f x).lostPkgs = s.lostPkgs := rfl
@[simp] theorem State.setFlight_ident (s : State) (c f : Nat) (x : Flight) : (s.setFlight c f x).ident = s.ident := rfl
@[simp] theorem State.setFlight_idKey (s : State) (c f : Nat) (x : Flight) : (s.setFlight c f x).idKey = s.idKey := rfl
@[simp] theorem State.setFlight_binds (s : State) (c f : Nat) (x : Flight) : (s.setFlight c f x).binds = s.binds := rfl
@[simp] theorem State.setFlight_pfilter (s : State) (c f : Nat) (x : Flight) : (s.setFlight c f x).pfilter = s.pfilter := rfl
@[simp] theorem State.setFlight_vats (s : State) (c f : Nat) (x : Flight) : (s.setFlight c f x).vats = s.vats := rfl
@[simp] theorem State.setFlight_vatPort (s : State) (c f : Nat) (x : Flight) : (s.setFlight c f x).vatPort = s.vatPort := rfl
@[simp] theorem State.setFlight_vatQ (s : State) (c f : Nat) (x : Flight) : (s.setFlight c f x).vatQ = s.vatQ := rfl
@[simp] theorem State.setFlight_code (s : State) (c f : Nat) (x : Flight) : (s.setFlight c f x).code = s.code := rfl
@[simp] theorem State.setFlight_trusted (s : State) (c f : Nat) (x : Flight) : (s.setFlight c f x).trusted = s.trusted := rfl
@[simp] theorem State.setFlight_codes (s : State) (c f : Nat) (x : Flight) : (s.setFlight c f x).codes = s.codes := rfl
@[simp] theorem State.setFlight_packets (s : State) (c f : Nat) (x : Flight) : (s.setFlight c f x).packets = s.packets := rfl
@[simp] theorem State.setFlight_pctxs (s : State) (c f : Nat) (x : Flight) : (s.setFlight c f x).pctxs = s.pctxs := rfl
@[simp] theorem State.setFlight_allots (s : State) (c f : Nat) (x : Flight) : (s.setFlight c f x).allots = s.allots := rfl
@[simp] theorem State.setFlight_tags (s : State) (c f : Nat) (x : Flight) : (s.setFlight c f x).tags = s.tags := rfl
@[simp] theorem State.setFlight_regions (s : State) (c f : Nat) (x : Flight) : (s.setFlight c f x).regions = s.regions := rfl
@[simp] theorem State.setFlight_lastSeq (s : State) (c f : Nat) (x : Flight) : (s.setFlight c f x).lastSeq = s.lastSeq := rfl
@[simp] theorem State.setFlight_sendSeq (s : State) (c f : Nat) (x : Flight) : (s.setFlight c f x).sendSeq = s.sendSeq := rfl
@[simp] theorem State.setFlight_out (s : State) (c f : Nat) (x : Flight) : (s.setFlight c f x).out = s.out := rfl
@[simp] theorem State.setFlight_turns (s : State) (c f : Nat) (x : Flight) : (s.setFlight c f x).turns = s.turns := rfl
@[simp] theorem State.setFlight_cur (s : State) (c f : Nat) (x : Flight) : (s.setFlight c f x).cur = s.cur := rfl
@[simp] theorem State.setFlight_free (s : State) (c f : Nat) (x : Flight) : (s.setFlight c f x).free = s.free := rfl
@[simp] theorem State.setEng_build (s : State) (c e : Nat) (x : Eng) : (s.setEng c e x).build = s.build := rfl
@[simp] theorem State.setEng_recovery (s : State) (c e : Nat) (x : Eng) : (s.setEng c e x).recovery = s.recovery := rfl
@[simp] theorem State.setEng_booted (s : State) (c e : Nat) (x : Eng) : (s.setEng c e x).booted = s.booted := rfl
@[simp] theorem State.setEng_flash (s : State) (c e : Nat) (x : Eng) : (s.setEng c e x).flash = s.flash := rfl
@[simp] theorem State.setEng_cfg (s : State) (c e : Nat) (x : Eng) : (s.setEng c e x).cfg = s.cfg := rfl
@[simp] theorem State.setEng_clock (s : State) (c e : Nat) (x : Eng) : (s.setEng c e x).clock = s.clock := rfl
@[simp] theorem State.setEng_groups (s : State) (c e : Nat) (x : Eng) : (s.setEng c e x).groups = s.groups := rfl
@[simp] theorem State.setEng_nextGroup (s : State) (c e : Nat) (x : Eng) : (s.setEng c e x).nextGroup = s.nextGroup := rfl
@[simp] theorem State.setEng_dies (s : State) (c e : Nat) (x : Eng) : (s.setEng c e x).dies = s.dies := rfl
@[simp] theorem State.setEng_gov (s : State) (c e : Nat) (x : Eng) : (s.setEng c e x).gov = s.gov := rfl
@[simp] theorem State.setEng_l2 (s : State) (c e : Nat) (x : Eng) : (s.setEng c e x).l2 = s.l2 := rfl
@[simp] theorem State.setEng_l2Ways (s : State) (c e : Nat) (x : Eng) : (s.setEng c e x).l2Ways = s.l2Ways := rfl
@[simp] theorem State.setEng_mem (s : State) (c e : Nat) (x : Eng) : (s.setEng c e x).mem = s.mem := rfl
@[simp] theorem State.setEng_fab (s : State) (c e : Nat) (x : Eng) : (s.setEng c e x).fab = s.fab := rfl
@[simp] theorem State.setEng_written (s : State) (c e : Nat) (x : Eng) : (s.setEng c e x).written = s.written := rfl
@[simp] theorem State.setEng_memPsn (s : State) (c e : Nat) (x : Eng) : (s.setEng c e x).memPsn = s.memPsn := rfl
@[simp] theorem State.setEng_fabPsn (s : State) (c e : Nat) (x : Eng) : (s.setEng c e x).fabPsn = s.fabPsn := rfl
@[simp] theorem State.setEng_remap (s : State) (c e : Nat) (x : Eng) : (s.setEng c e x).remap = s.remap := rfl
@[simp] theorem State.setEng_ctxs (s : State) (c e : Nat) (x : Eng) : (s.setEng c e x).ctxs = s.ctxs := rfl
@[simp] theorem State.setEng_vfs (s : State) (c e : Nat) (x : Eng) : (s.setEng c e x).vfs = s.vfs := rfl
@[simp] theorem State.setEng_exts (s : State) (c e : Nat) (x : Eng) : (s.setEng c e x).exts = s.exts := rfl
@[simp] theorem State.setEng_leaving (s : State) (c e : Nat) (x : Eng) : (s.setEng c e x).leaving = s.leaving := rfl
@[simp] theorem State.setEng_released (s : State) (c e : Nat) (x : Eng) : (s.setEng c e x).released = s.released := rfl
@[simp] theorem State.setEng_keyFree (s : State) (c e : Nat) (x : Eng) : (s.setEng c e x).keyFree = s.keyFree := rfl
@[simp] theorem State.setEng_keyUsed (s : State) (c e : Nat) (x : Eng) : (s.setEng c e x).keyUsed = s.keyUsed := rfl
@[simp] theorem State.setEng_parts (s : State) (c e : Nat) (x : Eng) : (s.setEng c e x).parts = s.parts := rfl
@[simp] theorem State.setEng_rings (s : State) (c e : Nat) (x : Eng) : (s.setEng c e x).rings = s.rings := rfl
@[simp] theorem State.setEng_mail (s : State) (c e : Nat) (x : Eng) : (s.setEng c e x).mail = s.mail := rfl
@[simp] theorem State.setEng_launches (s : State) (c e : Nat) (x : Eng) : (s.setEng c e x).launches = s.launches := rfl
@[simp] theorem State.setEng_nextLaunch (s : State) (c e : Nat) (x : Eng) : (s.setEng c e x).nextLaunch = s.nextLaunch := rfl
@[simp] theorem State.setEng_nextOrder (s : State) (c e : Nat) (x : Eng) : (s.setEng c e x).nextOrder = s.nextOrder := rfl
@[simp] theorem State.setEng_nextKeyGen (s : State) (c e : Nat) (x : Eng) : (s.setEng c e x).nextKeyGen = s.nextKeyGen := rfl
@[simp] theorem State.setEng_images (s : State) (c e : Nat) (x : Eng) : (s.setEng c e x).images = s.images := rfl
@[simp] theorem State.setEng_failures (s : State) (c e : Nat) (x : Eng) : (s.setEng c e x).failures = s.failures := rfl
@[simp] theorem State.setEng_arrivals (s : State) (c e : Nat) (x : Eng) : (s.setEng c e x).arrivals = s.arrivals := rfl
@[simp] theorem State.setEng_hdmSize (s : State) (c e : Nat) (x : Eng) : (s.setEng c e x).hdmSize = s.hdmSize := rfl
@[simp] theorem State.setEng_hb (s : State) (c e : Nat) (x : Eng) : (s.setEng c e x).hb = s.hb := rfl
@[simp] theorem State.setEng_pages (s : State) (c e : Nat) (x : Eng) : (s.setEng c e x).pages = s.pages := rfl
@[simp] theorem State.setEng_snoops (s : State) (c e : Nat) (x : Eng) : (s.setEng c e x).snoops = s.snoops := rfl
@[simp] theorem State.setEng_lines (s : State) (c e : Nat) (x : Eng) : (s.setEng c e x).lines = s.lines := rfl
@[simp] theorem State.setEng_creqs (s : State) (c e : Nat) (x : Eng) : (s.setEng c e x).creqs = s.creqs := rfl
@[simp] theorem State.setEng_flips (s : State) (c e : Nat) (x : Eng) : (s.setEng c e x).flips = s.flips := rfl
@[simp] theorem State.setEng_reqs (s : State) (c e : Nat) (x : Eng) : (s.setEng c e x).reqs = s.reqs := rfl
@[simp] theorem State.setEng_heldReqs (s : State) (c e : Nat) (x : Eng) : (s.setEng c e x).heldReqs = s.heldReqs := rfl
@[simp] theorem State.setEng_gone (s : State) (c e : Nat) (x : Eng) : (s.setEng c e x).gone = s.gone := rfl
@[simp] theorem State.setEng_via (s : State) (c e : Nat) (x : Eng) : (s.setEng c e x).via = s.via := rfl
@[simp] theorem State.setEng_lostPkgs (s : State) (c e : Nat) (x : Eng) : (s.setEng c e x).lostPkgs = s.lostPkgs := rfl
@[simp] theorem State.setEng_ident (s : State) (c e : Nat) (x : Eng) : (s.setEng c e x).ident = s.ident := rfl
@[simp] theorem State.setEng_idKey (s : State) (c e : Nat) (x : Eng) : (s.setEng c e x).idKey = s.idKey := rfl
@[simp] theorem State.setEng_binds (s : State) (c e : Nat) (x : Eng) : (s.setEng c e x).binds = s.binds := rfl
@[simp] theorem State.setEng_pfilter (s : State) (c e : Nat) (x : Eng) : (s.setEng c e x).pfilter = s.pfilter := rfl
@[simp] theorem State.setEng_vats (s : State) (c e : Nat) (x : Eng) : (s.setEng c e x).vats = s.vats := rfl
@[simp] theorem State.setEng_vatPort (s : State) (c e : Nat) (x : Eng) : (s.setEng c e x).vatPort = s.vatPort := rfl
@[simp] theorem State.setEng_vatQ (s : State) (c e : Nat) (x : Eng) : (s.setEng c e x).vatQ = s.vatQ := rfl
@[simp] theorem State.setEng_code (s : State) (c e : Nat) (x : Eng) : (s.setEng c e x).code = s.code := rfl
@[simp] theorem State.setEng_trusted (s : State) (c e : Nat) (x : Eng) : (s.setEng c e x).trusted = s.trusted := rfl
@[simp] theorem State.setEng_codes (s : State) (c e : Nat) (x : Eng) : (s.setEng c e x).codes = s.codes := rfl
@[simp] theorem State.setEng_packets (s : State) (c e : Nat) (x : Eng) : (s.setEng c e x).packets = s.packets := rfl
@[simp] theorem State.setEng_pctxs (s : State) (c e : Nat) (x : Eng) : (s.setEng c e x).pctxs = s.pctxs := rfl
@[simp] theorem State.setEng_allots (s : State) (c e : Nat) (x : Eng) : (s.setEng c e x).allots = s.allots := rfl
@[simp] theorem State.setEng_tags (s : State) (c e : Nat) (x : Eng) : (s.setEng c e x).tags = s.tags := rfl
@[simp] theorem State.setEng_regions (s : State) (c e : Nat) (x : Eng) : (s.setEng c e x).regions = s.regions := rfl
@[simp] theorem State.setEng_lastSeq (s : State) (c e : Nat) (x : Eng) : (s.setEng c e x).lastSeq = s.lastSeq := rfl
@[simp] theorem State.setEng_sendSeq (s : State) (c e : Nat) (x : Eng) : (s.setEng c e x).sendSeq = s.sendSeq := rfl
@[simp] theorem State.setEng_out (s : State) (c e : Nat) (x : Eng) : (s.setEng c e x).out = s.out := rfl
@[simp] theorem State.setEng_turns (s : State) (c e : Nat) (x : Eng) : (s.setEng c e x).turns = s.turns := rfl
@[simp] theorem State.setEng_cur (s : State) (c e : Nat) (x : Eng) : (s.setEng c e x).cur = s.cur := rfl
@[simp] theorem State.setEng_free (s : State) (c e : Nat) (x : Eng) : (s.setEng c e x).free = s.free := rfl
@[simp] theorem State.setBlock_build (s : State) (c b : Nat) (x : Block) : (s.setBlock c b x).build = s.build := rfl
@[simp] theorem State.setBlock_recovery (s : State) (c b : Nat) (x : Block) : (s.setBlock c b x).recovery = s.recovery := rfl
@[simp] theorem State.setBlock_booted (s : State) (c b : Nat) (x : Block) : (s.setBlock c b x).booted = s.booted := rfl
@[simp] theorem State.setBlock_flash (s : State) (c b : Nat) (x : Block) : (s.setBlock c b x).flash = s.flash := rfl
@[simp] theorem State.setBlock_cfg (s : State) (c b : Nat) (x : Block) : (s.setBlock c b x).cfg = s.cfg := rfl
@[simp] theorem State.setBlock_clock (s : State) (c b : Nat) (x : Block) : (s.setBlock c b x).clock = s.clock := rfl
@[simp] theorem State.setBlock_groups (s : State) (c b : Nat) (x : Block) : (s.setBlock c b x).groups = s.groups := rfl
@[simp] theorem State.setBlock_nextGroup (s : State) (c b : Nat) (x : Block) : (s.setBlock c b x).nextGroup = s.nextGroup := rfl
@[simp] theorem State.setBlock_dies (s : State) (c b : Nat) (x : Block) : (s.setBlock c b x).dies = s.dies := rfl
@[simp] theorem State.setBlock_gov (s : State) (c b : Nat) (x : Block) : (s.setBlock c b x).gov = s.gov := rfl
@[simp] theorem State.setBlock_l2 (s : State) (c b : Nat) (x : Block) : (s.setBlock c b x).l2 = s.l2 := rfl
@[simp] theorem State.setBlock_l2Ways (s : State) (c b : Nat) (x : Block) : (s.setBlock c b x).l2Ways = s.l2Ways := rfl
@[simp] theorem State.setBlock_mem (s : State) (c b : Nat) (x : Block) : (s.setBlock c b x).mem = s.mem := rfl
@[simp] theorem State.setBlock_fab (s : State) (c b : Nat) (x : Block) : (s.setBlock c b x).fab = s.fab := rfl
@[simp] theorem State.setBlock_written (s : State) (c b : Nat) (x : Block) : (s.setBlock c b x).written = s.written := rfl
@[simp] theorem State.setBlock_memPsn (s : State) (c b : Nat) (x : Block) : (s.setBlock c b x).memPsn = s.memPsn := rfl
@[simp] theorem State.setBlock_fabPsn (s : State) (c b : Nat) (x : Block) : (s.setBlock c b x).fabPsn = s.fabPsn := rfl
@[simp] theorem State.setBlock_remap (s : State) (c b : Nat) (x : Block) : (s.setBlock c b x).remap = s.remap := rfl
@[simp] theorem State.setBlock_ctxs (s : State) (c b : Nat) (x : Block) : (s.setBlock c b x).ctxs = s.ctxs := rfl
@[simp] theorem State.setBlock_vfs (s : State) (c b : Nat) (x : Block) : (s.setBlock c b x).vfs = s.vfs := rfl
@[simp] theorem State.setBlock_exts (s : State) (c b : Nat) (x : Block) : (s.setBlock c b x).exts = s.exts := rfl
@[simp] theorem State.setBlock_leaving (s : State) (c b : Nat) (x : Block) : (s.setBlock c b x).leaving = s.leaving := rfl
@[simp] theorem State.setBlock_released (s : State) (c b : Nat) (x : Block) : (s.setBlock c b x).released = s.released := rfl
@[simp] theorem State.setBlock_keyFree (s : State) (c b : Nat) (x : Block) : (s.setBlock c b x).keyFree = s.keyFree := rfl
@[simp] theorem State.setBlock_keyUsed (s : State) (c b : Nat) (x : Block) : (s.setBlock c b x).keyUsed = s.keyUsed := rfl
@[simp] theorem State.setBlock_parts (s : State) (c b : Nat) (x : Block) : (s.setBlock c b x).parts = s.parts := rfl
@[simp] theorem State.setBlock_rings (s : State) (c b : Nat) (x : Block) : (s.setBlock c b x).rings = s.rings := rfl
@[simp] theorem State.setBlock_mail (s : State) (c b : Nat) (x : Block) : (s.setBlock c b x).mail = s.mail := rfl
@[simp] theorem State.setBlock_launches (s : State) (c b : Nat) (x : Block) : (s.setBlock c b x).launches = s.launches := rfl
@[simp] theorem State.setBlock_nextLaunch (s : State) (c b : Nat) (x : Block) : (s.setBlock c b x).nextLaunch = s.nextLaunch := rfl
@[simp] theorem State.setBlock_nextOrder (s : State) (c b : Nat) (x : Block) : (s.setBlock c b x).nextOrder = s.nextOrder := rfl
@[simp] theorem State.setBlock_nextKeyGen (s : State) (c b : Nat) (x : Block) : (s.setBlock c b x).nextKeyGen = s.nextKeyGen := rfl
@[simp] theorem State.setBlock_images (s : State) (c b : Nat) (x : Block) : (s.setBlock c b x).images = s.images := rfl
@[simp] theorem State.setBlock_failures (s : State) (c b : Nat) (x : Block) : (s.setBlock c b x).failures = s.failures := rfl
@[simp] theorem State.setBlock_arrivals (s : State) (c b : Nat) (x : Block) : (s.setBlock c b x).arrivals = s.arrivals := rfl
@[simp] theorem State.setBlock_hdmSize (s : State) (c b : Nat) (x : Block) : (s.setBlock c b x).hdmSize = s.hdmSize := rfl
@[simp] theorem State.setBlock_hb (s : State) (c b : Nat) (x : Block) : (s.setBlock c b x).hb = s.hb := rfl
@[simp] theorem State.setBlock_pages (s : State) (c b : Nat) (x : Block) : (s.setBlock c b x).pages = s.pages := rfl
@[simp] theorem State.setBlock_snoops (s : State) (c b : Nat) (x : Block) : (s.setBlock c b x).snoops = s.snoops := rfl
@[simp] theorem State.setBlock_lines (s : State) (c b : Nat) (x : Block) : (s.setBlock c b x).lines = s.lines := rfl
@[simp] theorem State.setBlock_creqs (s : State) (c b : Nat) (x : Block) : (s.setBlock c b x).creqs = s.creqs := rfl
@[simp] theorem State.setBlock_flips (s : State) (c b : Nat) (x : Block) : (s.setBlock c b x).flips = s.flips := rfl
@[simp] theorem State.setBlock_reqs (s : State) (c b : Nat) (x : Block) : (s.setBlock c b x).reqs = s.reqs := rfl
@[simp] theorem State.setBlock_heldReqs (s : State) (c b : Nat) (x : Block) : (s.setBlock c b x).heldReqs = s.heldReqs := rfl
@[simp] theorem State.setBlock_gone (s : State) (c b : Nat) (x : Block) : (s.setBlock c b x).gone = s.gone := rfl
@[simp] theorem State.setBlock_via (s : State) (c b : Nat) (x : Block) : (s.setBlock c b x).via = s.via := rfl
@[simp] theorem State.setBlock_lostPkgs (s : State) (c b : Nat) (x : Block) : (s.setBlock c b x).lostPkgs = s.lostPkgs := rfl
@[simp] theorem State.setBlock_ident (s : State) (c b : Nat) (x : Block) : (s.setBlock c b x).ident = s.ident := rfl
@[simp] theorem State.setBlock_idKey (s : State) (c b : Nat) (x : Block) : (s.setBlock c b x).idKey = s.idKey := rfl
@[simp] theorem State.setBlock_binds (s : State) (c b : Nat) (x : Block) : (s.setBlock c b x).binds = s.binds := rfl
@[simp] theorem State.setBlock_pfilter (s : State) (c b : Nat) (x : Block) : (s.setBlock c b x).pfilter = s.pfilter := rfl
@[simp] theorem State.setBlock_vats (s : State) (c b : Nat) (x : Block) : (s.setBlock c b x).vats = s.vats := rfl
@[simp] theorem State.setBlock_vatPort (s : State) (c b : Nat) (x : Block) : (s.setBlock c b x).vatPort = s.vatPort := rfl
@[simp] theorem State.setBlock_vatQ (s : State) (c b : Nat) (x : Block) : (s.setBlock c b x).vatQ = s.vatQ := rfl
@[simp] theorem State.setBlock_code (s : State) (c b : Nat) (x : Block) : (s.setBlock c b x).code = s.code := rfl
@[simp] theorem State.setBlock_trusted (s : State) (c b : Nat) (x : Block) : (s.setBlock c b x).trusted = s.trusted := rfl
@[simp] theorem State.setBlock_codes (s : State) (c b : Nat) (x : Block) : (s.setBlock c b x).codes = s.codes := rfl
@[simp] theorem State.setBlock_packets (s : State) (c b : Nat) (x : Block) : (s.setBlock c b x).packets = s.packets := rfl
@[simp] theorem State.setBlock_pctxs (s : State) (c b : Nat) (x : Block) : (s.setBlock c b x).pctxs = s.pctxs := rfl
@[simp] theorem State.setBlock_allots (s : State) (c b : Nat) (x : Block) : (s.setBlock c b x).allots = s.allots := rfl
@[simp] theorem State.setBlock_tags (s : State) (c b : Nat) (x : Block) : (s.setBlock c b x).tags = s.tags := rfl
@[simp] theorem State.setBlock_regions (s : State) (c b : Nat) (x : Block) : (s.setBlock c b x).regions = s.regions := rfl
@[simp] theorem State.setBlock_lastSeq (s : State) (c b : Nat) (x : Block) : (s.setBlock c b x).lastSeq = s.lastSeq := rfl
@[simp] theorem State.setBlock_sendSeq (s : State) (c b : Nat) (x : Block) : (s.setBlock c b x).sendSeq = s.sendSeq := rfl
@[simp] theorem State.setBlock_out (s : State) (c b : Nat) (x : Block) : (s.setBlock c b x).out = s.out := rfl
@[simp] theorem State.setBlock_turns (s : State) (c b : Nat) (x : Block) : (s.setBlock c b x).turns = s.turns := rfl
@[simp] theorem State.setBlock_cur (s : State) (c b : Nat) (x : Block) : (s.setBlock c b x).cur = s.cur := rfl
@[simp] theorem State.setBlock_free (s : State) (c b : Nat) (x : Block) : (s.setBlock c b x).free = s.free := rfl
@[simp] theorem State.setCb_build (s : State) (c b : Nat) (x : CBar) : (s.setCb c b x).build = s.build := rfl
@[simp] theorem State.setCb_recovery (s : State) (c b : Nat) (x : CBar) : (s.setCb c b x).recovery = s.recovery := rfl
@[simp] theorem State.setCb_booted (s : State) (c b : Nat) (x : CBar) : (s.setCb c b x).booted = s.booted := rfl
@[simp] theorem State.setCb_flash (s : State) (c b : Nat) (x : CBar) : (s.setCb c b x).flash = s.flash := rfl
@[simp] theorem State.setCb_cfg (s : State) (c b : Nat) (x : CBar) : (s.setCb c b x).cfg = s.cfg := rfl
@[simp] theorem State.setCb_clock (s : State) (c b : Nat) (x : CBar) : (s.setCb c b x).clock = s.clock := rfl
@[simp] theorem State.setCb_groups (s : State) (c b : Nat) (x : CBar) : (s.setCb c b x).groups = s.groups := rfl
@[simp] theorem State.setCb_nextGroup (s : State) (c b : Nat) (x : CBar) : (s.setCb c b x).nextGroup = s.nextGroup := rfl
@[simp] theorem State.setCb_dies (s : State) (c b : Nat) (x : CBar) : (s.setCb c b x).dies = s.dies := rfl
@[simp] theorem State.setCb_gov (s : State) (c b : Nat) (x : CBar) : (s.setCb c b x).gov = s.gov := rfl
@[simp] theorem State.setCb_l2 (s : State) (c b : Nat) (x : CBar) : (s.setCb c b x).l2 = s.l2 := rfl
@[simp] theorem State.setCb_l2Ways (s : State) (c b : Nat) (x : CBar) : (s.setCb c b x).l2Ways = s.l2Ways := rfl
@[simp] theorem State.setCb_mem (s : State) (c b : Nat) (x : CBar) : (s.setCb c b x).mem = s.mem := rfl
@[simp] theorem State.setCb_fab (s : State) (c b : Nat) (x : CBar) : (s.setCb c b x).fab = s.fab := rfl
@[simp] theorem State.setCb_written (s : State) (c b : Nat) (x : CBar) : (s.setCb c b x).written = s.written := rfl
@[simp] theorem State.setCb_memPsn (s : State) (c b : Nat) (x : CBar) : (s.setCb c b x).memPsn = s.memPsn := rfl
@[simp] theorem State.setCb_fabPsn (s : State) (c b : Nat) (x : CBar) : (s.setCb c b x).fabPsn = s.fabPsn := rfl
@[simp] theorem State.setCb_remap (s : State) (c b : Nat) (x : CBar) : (s.setCb c b x).remap = s.remap := rfl
@[simp] theorem State.setCb_ctxs (s : State) (c b : Nat) (x : CBar) : (s.setCb c b x).ctxs = s.ctxs := rfl
@[simp] theorem State.setCb_vfs (s : State) (c b : Nat) (x : CBar) : (s.setCb c b x).vfs = s.vfs := rfl
@[simp] theorem State.setCb_exts (s : State) (c b : Nat) (x : CBar) : (s.setCb c b x).exts = s.exts := rfl
@[simp] theorem State.setCb_leaving (s : State) (c b : Nat) (x : CBar) : (s.setCb c b x).leaving = s.leaving := rfl
@[simp] theorem State.setCb_released (s : State) (c b : Nat) (x : CBar) : (s.setCb c b x).released = s.released := rfl
@[simp] theorem State.setCb_keyFree (s : State) (c b : Nat) (x : CBar) : (s.setCb c b x).keyFree = s.keyFree := rfl
@[simp] theorem State.setCb_keyUsed (s : State) (c b : Nat) (x : CBar) : (s.setCb c b x).keyUsed = s.keyUsed := rfl
@[simp] theorem State.setCb_parts (s : State) (c b : Nat) (x : CBar) : (s.setCb c b x).parts = s.parts := rfl
@[simp] theorem State.setCb_rings (s : State) (c b : Nat) (x : CBar) : (s.setCb c b x).rings = s.rings := rfl
@[simp] theorem State.setCb_mail (s : State) (c b : Nat) (x : CBar) : (s.setCb c b x).mail = s.mail := rfl
@[simp] theorem State.setCb_launches (s : State) (c b : Nat) (x : CBar) : (s.setCb c b x).launches = s.launches := rfl
@[simp] theorem State.setCb_nextLaunch (s : State) (c b : Nat) (x : CBar) : (s.setCb c b x).nextLaunch = s.nextLaunch := rfl
@[simp] theorem State.setCb_nextOrder (s : State) (c b : Nat) (x : CBar) : (s.setCb c b x).nextOrder = s.nextOrder := rfl
@[simp] theorem State.setCb_nextKeyGen (s : State) (c b : Nat) (x : CBar) : (s.setCb c b x).nextKeyGen = s.nextKeyGen := rfl
@[simp] theorem State.setCb_images (s : State) (c b : Nat) (x : CBar) : (s.setCb c b x).images = s.images := rfl
@[simp] theorem State.setCb_failures (s : State) (c b : Nat) (x : CBar) : (s.setCb c b x).failures = s.failures := rfl
@[simp] theorem State.setCb_arrivals (s : State) (c b : Nat) (x : CBar) : (s.setCb c b x).arrivals = s.arrivals := rfl
@[simp] theorem State.setCb_hdmSize (s : State) (c b : Nat) (x : CBar) : (s.setCb c b x).hdmSize = s.hdmSize := rfl
@[simp] theorem State.setCb_hb (s : State) (c b : Nat) (x : CBar) : (s.setCb c b x).hb = s.hb := rfl
@[simp] theorem State.setCb_pages (s : State) (c b : Nat) (x : CBar) : (s.setCb c b x).pages = s.pages := rfl
@[simp] theorem State.setCb_snoops (s : State) (c b : Nat) (x : CBar) : (s.setCb c b x).snoops = s.snoops := rfl
@[simp] theorem State.setCb_lines (s : State) (c b : Nat) (x : CBar) : (s.setCb c b x).lines = s.lines := rfl
@[simp] theorem State.setCb_creqs (s : State) (c b : Nat) (x : CBar) : (s.setCb c b x).creqs = s.creqs := rfl
@[simp] theorem State.setCb_flips (s : State) (c b : Nat) (x : CBar) : (s.setCb c b x).flips = s.flips := rfl
@[simp] theorem State.setCb_reqs (s : State) (c b : Nat) (x : CBar) : (s.setCb c b x).reqs = s.reqs := rfl
@[simp] theorem State.setCb_heldReqs (s : State) (c b : Nat) (x : CBar) : (s.setCb c b x).heldReqs = s.heldReqs := rfl
@[simp] theorem State.setCb_gone (s : State) (c b : Nat) (x : CBar) : (s.setCb c b x).gone = s.gone := rfl
@[simp] theorem State.setCb_via (s : State) (c b : Nat) (x : CBar) : (s.setCb c b x).via = s.via := rfl
@[simp] theorem State.setCb_lostPkgs (s : State) (c b : Nat) (x : CBar) : (s.setCb c b x).lostPkgs = s.lostPkgs := rfl
@[simp] theorem State.setCb_ident (s : State) (c b : Nat) (x : CBar) : (s.setCb c b x).ident = s.ident := rfl
@[simp] theorem State.setCb_idKey (s : State) (c b : Nat) (x : CBar) : (s.setCb c b x).idKey = s.idKey := rfl
@[simp] theorem State.setCb_binds (s : State) (c b : Nat) (x : CBar) : (s.setCb c b x).binds = s.binds := rfl
@[simp] theorem State.setCb_pfilter (s : State) (c b : Nat) (x : CBar) : (s.setCb c b x).pfilter = s.pfilter := rfl
@[simp] theorem State.setCb_vats (s : State) (c b : Nat) (x : CBar) : (s.setCb c b x).vats = s.vats := rfl
@[simp] theorem State.setCb_vatPort (s : State) (c b : Nat) (x : CBar) : (s.setCb c b x).vatPort = s.vatPort := rfl
@[simp] theorem State.setCb_vatQ (s : State) (c b : Nat) (x : CBar) : (s.setCb c b x).vatQ = s.vatQ := rfl
@[simp] theorem State.setCb_code (s : State) (c b : Nat) (x : CBar) : (s.setCb c b x).code = s.code := rfl
@[simp] theorem State.setCb_trusted (s : State) (c b : Nat) (x : CBar) : (s.setCb c b x).trusted = s.trusted := rfl
@[simp] theorem State.setCb_codes (s : State) (c b : Nat) (x : CBar) : (s.setCb c b x).codes = s.codes := rfl
@[simp] theorem State.setCb_packets (s : State) (c b : Nat) (x : CBar) : (s.setCb c b x).packets = s.packets := rfl
@[simp] theorem State.setCb_pctxs (s : State) (c b : Nat) (x : CBar) : (s.setCb c b x).pctxs = s.pctxs := rfl
@[simp] theorem State.setCb_allots (s : State) (c b : Nat) (x : CBar) : (s.setCb c b x).allots = s.allots := rfl
@[simp] theorem State.setCb_tags (s : State) (c b : Nat) (x : CBar) : (s.setCb c b x).tags = s.tags := rfl
@[simp] theorem State.setCb_regions (s : State) (c b : Nat) (x : CBar) : (s.setCb c b x).regions = s.regions := rfl
@[simp] theorem State.setCb_lastSeq (s : State) (c b : Nat) (x : CBar) : (s.setCb c b x).lastSeq = s.lastSeq := rfl
@[simp] theorem State.setCb_sendSeq (s : State) (c b : Nat) (x : CBar) : (s.setCb c b x).sendSeq = s.sendSeq := rfl
@[simp] theorem State.setCb_out (s : State) (c b : Nat) (x : CBar) : (s.setCb c b x).out = s.out := rfl
@[simp] theorem State.setCb_turns (s : State) (c b : Nat) (x : CBar) : (s.setCb c b x).turns = s.turns := rfl
@[simp] theorem State.setCb_cur (s : State) (c b : Nat) (x : CBar) : (s.setCb c b x).cur = s.cur := rfl
@[simp] theorem State.setCb_free (s : State) (c b : Nat) (x : CBar) : (s.setCb c b x).free = s.free := rfl
@[simp] theorem State.setPress_build (s : State) (c : Nat) (x : Press) : (s.setPress c x).build = s.build := rfl
@[simp] theorem State.setPress_recovery (s : State) (c : Nat) (x : Press) : (s.setPress c x).recovery = s.recovery := rfl
@[simp] theorem State.setPress_booted (s : State) (c : Nat) (x : Press) : (s.setPress c x).booted = s.booted := rfl
@[simp] theorem State.setPress_flash (s : State) (c : Nat) (x : Press) : (s.setPress c x).flash = s.flash := rfl
@[simp] theorem State.setPress_cfg (s : State) (c : Nat) (x : Press) : (s.setPress c x).cfg = s.cfg := rfl
@[simp] theorem State.setPress_clock (s : State) (c : Nat) (x : Press) : (s.setPress c x).clock = s.clock := rfl
@[simp] theorem State.setPress_groups (s : State) (c : Nat) (x : Press) : (s.setPress c x).groups = s.groups := rfl
@[simp] theorem State.setPress_nextGroup (s : State) (c : Nat) (x : Press) : (s.setPress c x).nextGroup = s.nextGroup := rfl
@[simp] theorem State.setPress_dies (s : State) (c : Nat) (x : Press) : (s.setPress c x).dies = s.dies := rfl
@[simp] theorem State.setPress_gov (s : State) (c : Nat) (x : Press) : (s.setPress c x).gov = s.gov := rfl
@[simp] theorem State.setPress_l2 (s : State) (c : Nat) (x : Press) : (s.setPress c x).l2 = s.l2 := rfl
@[simp] theorem State.setPress_l2Ways (s : State) (c : Nat) (x : Press) : (s.setPress c x).l2Ways = s.l2Ways := rfl
@[simp] theorem State.setPress_mem (s : State) (c : Nat) (x : Press) : (s.setPress c x).mem = s.mem := rfl
@[simp] theorem State.setPress_fab (s : State) (c : Nat) (x : Press) : (s.setPress c x).fab = s.fab := rfl
@[simp] theorem State.setPress_written (s : State) (c : Nat) (x : Press) : (s.setPress c x).written = s.written := rfl
@[simp] theorem State.setPress_memPsn (s : State) (c : Nat) (x : Press) : (s.setPress c x).memPsn = s.memPsn := rfl
@[simp] theorem State.setPress_fabPsn (s : State) (c : Nat) (x : Press) : (s.setPress c x).fabPsn = s.fabPsn := rfl
@[simp] theorem State.setPress_remap (s : State) (c : Nat) (x : Press) : (s.setPress c x).remap = s.remap := rfl
@[simp] theorem State.setPress_ctxs (s : State) (c : Nat) (x : Press) : (s.setPress c x).ctxs = s.ctxs := rfl
@[simp] theorem State.setPress_vfs (s : State) (c : Nat) (x : Press) : (s.setPress c x).vfs = s.vfs := rfl
@[simp] theorem State.setPress_exts (s : State) (c : Nat) (x : Press) : (s.setPress c x).exts = s.exts := rfl
@[simp] theorem State.setPress_leaving (s : State) (c : Nat) (x : Press) : (s.setPress c x).leaving = s.leaving := rfl
@[simp] theorem State.setPress_released (s : State) (c : Nat) (x : Press) : (s.setPress c x).released = s.released := rfl
@[simp] theorem State.setPress_keyFree (s : State) (c : Nat) (x : Press) : (s.setPress c x).keyFree = s.keyFree := rfl
@[simp] theorem State.setPress_keyUsed (s : State) (c : Nat) (x : Press) : (s.setPress c x).keyUsed = s.keyUsed := rfl
@[simp] theorem State.setPress_parts (s : State) (c : Nat) (x : Press) : (s.setPress c x).parts = s.parts := rfl
@[simp] theorem State.setPress_rings (s : State) (c : Nat) (x : Press) : (s.setPress c x).rings = s.rings := rfl
@[simp] theorem State.setPress_mail (s : State) (c : Nat) (x : Press) : (s.setPress c x).mail = s.mail := rfl
@[simp] theorem State.setPress_launches (s : State) (c : Nat) (x : Press) : (s.setPress c x).launches = s.launches := rfl
@[simp] theorem State.setPress_nextLaunch (s : State) (c : Nat) (x : Press) : (s.setPress c x).nextLaunch = s.nextLaunch := rfl
@[simp] theorem State.setPress_nextOrder (s : State) (c : Nat) (x : Press) : (s.setPress c x).nextOrder = s.nextOrder := rfl
@[simp] theorem State.setPress_nextKeyGen (s : State) (c : Nat) (x : Press) : (s.setPress c x).nextKeyGen = s.nextKeyGen := rfl
@[simp] theorem State.setPress_images (s : State) (c : Nat) (x : Press) : (s.setPress c x).images = s.images := rfl
@[simp] theorem State.setPress_failures (s : State) (c : Nat) (x : Press) : (s.setPress c x).failures = s.failures := rfl
@[simp] theorem State.setPress_arrivals (s : State) (c : Nat) (x : Press) : (s.setPress c x).arrivals = s.arrivals := rfl
@[simp] theorem State.setPress_hdmSize (s : State) (c : Nat) (x : Press) : (s.setPress c x).hdmSize = s.hdmSize := rfl
@[simp] theorem State.setPress_hb (s : State) (c : Nat) (x : Press) : (s.setPress c x).hb = s.hb := rfl
@[simp] theorem State.setPress_pages (s : State) (c : Nat) (x : Press) : (s.setPress c x).pages = s.pages := rfl
@[simp] theorem State.setPress_snoops (s : State) (c : Nat) (x : Press) : (s.setPress c x).snoops = s.snoops := rfl
@[simp] theorem State.setPress_lines (s : State) (c : Nat) (x : Press) : (s.setPress c x).lines = s.lines := rfl
@[simp] theorem State.setPress_creqs (s : State) (c : Nat) (x : Press) : (s.setPress c x).creqs = s.creqs := rfl
@[simp] theorem State.setPress_flips (s : State) (c : Nat) (x : Press) : (s.setPress c x).flips = s.flips := rfl
@[simp] theorem State.setPress_reqs (s : State) (c : Nat) (x : Press) : (s.setPress c x).reqs = s.reqs := rfl
@[simp] theorem State.setPress_heldReqs (s : State) (c : Nat) (x : Press) : (s.setPress c x).heldReqs = s.heldReqs := rfl
@[simp] theorem State.setPress_gone (s : State) (c : Nat) (x : Press) : (s.setPress c x).gone = s.gone := rfl
@[simp] theorem State.setPress_via (s : State) (c : Nat) (x : Press) : (s.setPress c x).via = s.via := rfl
@[simp] theorem State.setPress_lostPkgs (s : State) (c : Nat) (x : Press) : (s.setPress c x).lostPkgs = s.lostPkgs := rfl
@[simp] theorem State.setPress_ident (s : State) (c : Nat) (x : Press) : (s.setPress c x).ident = s.ident := rfl
@[simp] theorem State.setPress_idKey (s : State) (c : Nat) (x : Press) : (s.setPress c x).idKey = s.idKey := rfl
@[simp] theorem State.setPress_binds (s : State) (c : Nat) (x : Press) : (s.setPress c x).binds = s.binds := rfl
@[simp] theorem State.setPress_pfilter (s : State) (c : Nat) (x : Press) : (s.setPress c x).pfilter = s.pfilter := rfl
@[simp] theorem State.setPress_vats (s : State) (c : Nat) (x : Press) : (s.setPress c x).vats = s.vats := rfl
@[simp] theorem State.setPress_vatPort (s : State) (c : Nat) (x : Press) : (s.setPress c x).vatPort = s.vatPort := rfl
@[simp] theorem State.setPress_vatQ (s : State) (c : Nat) (x : Press) : (s.setPress c x).vatQ = s.vatQ := rfl
@[simp] theorem State.setPress_code (s : State) (c : Nat) (x : Press) : (s.setPress c x).code = s.code := rfl
@[simp] theorem State.setPress_trusted (s : State) (c : Nat) (x : Press) : (s.setPress c x).trusted = s.trusted := rfl
@[simp] theorem State.setPress_codes (s : State) (c : Nat) (x : Press) : (s.setPress c x).codes = s.codes := rfl
@[simp] theorem State.setPress_packets (s : State) (c : Nat) (x : Press) : (s.setPress c x).packets = s.packets := rfl
@[simp] theorem State.setPress_pctxs (s : State) (c : Nat) (x : Press) : (s.setPress c x).pctxs = s.pctxs := rfl
@[simp] theorem State.setPress_allots (s : State) (c : Nat) (x : Press) : (s.setPress c x).allots = s.allots := rfl
@[simp] theorem State.setPress_tags (s : State) (c : Nat) (x : Press) : (s.setPress c x).tags = s.tags := rfl
@[simp] theorem State.setPress_regions (s : State) (c : Nat) (x : Press) : (s.setPress c x).regions = s.regions := rfl
@[simp] theorem State.setPress_lastSeq (s : State) (c : Nat) (x : Press) : (s.setPress c x).lastSeq = s.lastSeq := rfl
@[simp] theorem State.setPress_sendSeq (s : State) (c : Nat) (x : Press) : (s.setPress c x).sendSeq = s.sendSeq := rfl
@[simp] theorem State.setPress_out (s : State) (c : Nat) (x : Press) : (s.setPress c x).out = s.out := rfl
@[simp] theorem State.setPress_turns (s : State) (c : Nat) (x : Press) : (s.setPress c x).turns = s.turns := rfl
@[simp] theorem State.setPress_cur (s : State) (c : Nat) (x : Press) : (s.setPress c x).cur = s.cur := rfl
@[simp] theorem State.setPress_free (s : State) (c : Nat) (x : Press) : (s.setPress c x).free = s.free := rfl
@[simp] theorem State.setCtx_build (s : State) (c : Nat) (x : Ctx) : (s.setCtx c x).build = s.build := rfl
@[simp] theorem State.setCtx_recovery (s : State) (c : Nat) (x : Ctx) : (s.setCtx c x).recovery = s.recovery := rfl
@[simp] theorem State.setCtx_booted (s : State) (c : Nat) (x : Ctx) : (s.setCtx c x).booted = s.booted := rfl
@[simp] theorem State.setCtx_flash (s : State) (c : Nat) (x : Ctx) : (s.setCtx c x).flash = s.flash := rfl
@[simp] theorem State.setCtx_cfg (s : State) (c : Nat) (x : Ctx) : (s.setCtx c x).cfg = s.cfg := rfl
@[simp] theorem State.setCtx_clock (s : State) (c : Nat) (x : Ctx) : (s.setCtx c x).clock = s.clock := rfl
@[simp] theorem State.setCtx_cores (s : State) (c : Nat) (x : Ctx) : (s.setCtx c x).cores = s.cores := rfl
@[simp] theorem State.setCtx_groups (s : State) (c : Nat) (x : Ctx) : (s.setCtx c x).groups = s.groups := rfl
@[simp] theorem State.setCtx_nextGroup (s : State) (c : Nat) (x : Ctx) : (s.setCtx c x).nextGroup = s.nextGroup := rfl
@[simp] theorem State.setCtx_dies (s : State) (c : Nat) (x : Ctx) : (s.setCtx c x).dies = s.dies := rfl
@[simp] theorem State.setCtx_gov (s : State) (c : Nat) (x : Ctx) : (s.setCtx c x).gov = s.gov := rfl
@[simp] theorem State.setCtx_l2 (s : State) (c : Nat) (x : Ctx) : (s.setCtx c x).l2 = s.l2 := rfl
@[simp] theorem State.setCtx_l2Ways (s : State) (c : Nat) (x : Ctx) : (s.setCtx c x).l2Ways = s.l2Ways := rfl
@[simp] theorem State.setCtx_mem (s : State) (c : Nat) (x : Ctx) : (s.setCtx c x).mem = s.mem := rfl
@[simp] theorem State.setCtx_fab (s : State) (c : Nat) (x : Ctx) : (s.setCtx c x).fab = s.fab := rfl
@[simp] theorem State.setCtx_written (s : State) (c : Nat) (x : Ctx) : (s.setCtx c x).written = s.written := rfl
@[simp] theorem State.setCtx_memPsn (s : State) (c : Nat) (x : Ctx) : (s.setCtx c x).memPsn = s.memPsn := rfl
@[simp] theorem State.setCtx_fabPsn (s : State) (c : Nat) (x : Ctx) : (s.setCtx c x).fabPsn = s.fabPsn := rfl
@[simp] theorem State.setCtx_remap (s : State) (c : Nat) (x : Ctx) : (s.setCtx c x).remap = s.remap := rfl
@[simp] theorem State.setCtx_vfs (s : State) (c : Nat) (x : Ctx) : (s.setCtx c x).vfs = s.vfs := rfl
@[simp] theorem State.setCtx_exts (s : State) (c : Nat) (x : Ctx) : (s.setCtx c x).exts = s.exts := rfl
@[simp] theorem State.setCtx_leaving (s : State) (c : Nat) (x : Ctx) : (s.setCtx c x).leaving = s.leaving := rfl
@[simp] theorem State.setCtx_released (s : State) (c : Nat) (x : Ctx) : (s.setCtx c x).released = s.released := rfl
@[simp] theorem State.setCtx_keyFree (s : State) (c : Nat) (x : Ctx) : (s.setCtx c x).keyFree = s.keyFree := rfl
@[simp] theorem State.setCtx_keyUsed (s : State) (c : Nat) (x : Ctx) : (s.setCtx c x).keyUsed = s.keyUsed := rfl
@[simp] theorem State.setCtx_parts (s : State) (c : Nat) (x : Ctx) : (s.setCtx c x).parts = s.parts := rfl
@[simp] theorem State.setCtx_rings (s : State) (c : Nat) (x : Ctx) : (s.setCtx c x).rings = s.rings := rfl
@[simp] theorem State.setCtx_mail (s : State) (c : Nat) (x : Ctx) : (s.setCtx c x).mail = s.mail := rfl
@[simp] theorem State.setCtx_launches (s : State) (c : Nat) (x : Ctx) : (s.setCtx c x).launches = s.launches := rfl
@[simp] theorem State.setCtx_nextLaunch (s : State) (c : Nat) (x : Ctx) : (s.setCtx c x).nextLaunch = s.nextLaunch := rfl
@[simp] theorem State.setCtx_nextOrder (s : State) (c : Nat) (x : Ctx) : (s.setCtx c x).nextOrder = s.nextOrder := rfl
@[simp] theorem State.setCtx_nextKeyGen (s : State) (c : Nat) (x : Ctx) : (s.setCtx c x).nextKeyGen = s.nextKeyGen := rfl
@[simp] theorem State.setCtx_images (s : State) (c : Nat) (x : Ctx) : (s.setCtx c x).images = s.images := rfl
@[simp] theorem State.setCtx_failures (s : State) (c : Nat) (x : Ctx) : (s.setCtx c x).failures = s.failures := rfl
@[simp] theorem State.setCtx_arrivals (s : State) (c : Nat) (x : Ctx) : (s.setCtx c x).arrivals = s.arrivals := rfl
@[simp] theorem State.setCtx_hdmSize (s : State) (c : Nat) (x : Ctx) : (s.setCtx c x).hdmSize = s.hdmSize := rfl
@[simp] theorem State.setCtx_hb (s : State) (c : Nat) (x : Ctx) : (s.setCtx c x).hb = s.hb := rfl
@[simp] theorem State.setCtx_pages (s : State) (c : Nat) (x : Ctx) : (s.setCtx c x).pages = s.pages := rfl
@[simp] theorem State.setCtx_snoops (s : State) (c : Nat) (x : Ctx) : (s.setCtx c x).snoops = s.snoops := rfl
@[simp] theorem State.setCtx_lines (s : State) (c : Nat) (x : Ctx) : (s.setCtx c x).lines = s.lines := rfl
@[simp] theorem State.setCtx_creqs (s : State) (c : Nat) (x : Ctx) : (s.setCtx c x).creqs = s.creqs := rfl
@[simp] theorem State.setCtx_flips (s : State) (c : Nat) (x : Ctx) : (s.setCtx c x).flips = s.flips := rfl
@[simp] theorem State.setCtx_reqs (s : State) (c : Nat) (x : Ctx) : (s.setCtx c x).reqs = s.reqs := rfl
@[simp] theorem State.setCtx_heldReqs (s : State) (c : Nat) (x : Ctx) : (s.setCtx c x).heldReqs = s.heldReqs := rfl
@[simp] theorem State.setCtx_gone (s : State) (c : Nat) (x : Ctx) : (s.setCtx c x).gone = s.gone := rfl
@[simp] theorem State.setCtx_via (s : State) (c : Nat) (x : Ctx) : (s.setCtx c x).via = s.via := rfl
@[simp] theorem State.setCtx_lostPkgs (s : State) (c : Nat) (x : Ctx) : (s.setCtx c x).lostPkgs = s.lostPkgs := rfl
@[simp] theorem State.setCtx_ident (s : State) (c : Nat) (x : Ctx) : (s.setCtx c x).ident = s.ident := rfl
@[simp] theorem State.setCtx_idKey (s : State) (c : Nat) (x : Ctx) : (s.setCtx c x).idKey = s.idKey := rfl
@[simp] theorem State.setCtx_binds (s : State) (c : Nat) (x : Ctx) : (s.setCtx c x).binds = s.binds := rfl
@[simp] theorem State.setCtx_pfilter (s : State) (c : Nat) (x : Ctx) : (s.setCtx c x).pfilter = s.pfilter := rfl
@[simp] theorem State.setCtx_vats (s : State) (c : Nat) (x : Ctx) : (s.setCtx c x).vats = s.vats := rfl
@[simp] theorem State.setCtx_vatPort (s : State) (c : Nat) (x : Ctx) : (s.setCtx c x).vatPort = s.vatPort := rfl
@[simp] theorem State.setCtx_vatQ (s : State) (c : Nat) (x : Ctx) : (s.setCtx c x).vatQ = s.vatQ := rfl
@[simp] theorem State.setCtx_code (s : State) (c : Nat) (x : Ctx) : (s.setCtx c x).code = s.code := rfl
@[simp] theorem State.setCtx_trusted (s : State) (c : Nat) (x : Ctx) : (s.setCtx c x).trusted = s.trusted := rfl
@[simp] theorem State.setCtx_codes (s : State) (c : Nat) (x : Ctx) : (s.setCtx c x).codes = s.codes := rfl
@[simp] theorem State.setCtx_packets (s : State) (c : Nat) (x : Ctx) : (s.setCtx c x).packets = s.packets := rfl
@[simp] theorem State.setCtx_pctxs (s : State) (c : Nat) (x : Ctx) : (s.setCtx c x).pctxs = s.pctxs := rfl
@[simp] theorem State.setCtx_allots (s : State) (c : Nat) (x : Ctx) : (s.setCtx c x).allots = s.allots := rfl
@[simp] theorem State.setCtx_tags (s : State) (c : Nat) (x : Ctx) : (s.setCtx c x).tags = s.tags := rfl
@[simp] theorem State.setCtx_regions (s : State) (c : Nat) (x : Ctx) : (s.setCtx c x).regions = s.regions := rfl
@[simp] theorem State.setCtx_lastSeq (s : State) (c : Nat) (x : Ctx) : (s.setCtx c x).lastSeq = s.lastSeq := rfl
@[simp] theorem State.setCtx_sendSeq (s : State) (c : Nat) (x : Ctx) : (s.setCtx c x).sendSeq = s.sendSeq := rfl
@[simp] theorem State.setCtx_out (s : State) (c : Nat) (x : Ctx) : (s.setCtx c x).out = s.out := rfl
@[simp] theorem State.setCtx_turns (s : State) (c : Nat) (x : Ctx) : (s.setCtx c x).turns = s.turns := rfl
@[simp] theorem State.setCtx_cur (s : State) (c : Nat) (x : Ctx) : (s.setCtx c x).cur = s.cur := rfl
@[simp] theorem State.setCtx_free (s : State) (c : Nat) (x : Ctx) : (s.setCtx c x).free = s.free := rfl
@[simp] theorem State.setVf_build (s : State) (c : Nat) (x : Vf) : (s.setVf c x).build = s.build := rfl
@[simp] theorem State.setVf_recovery (s : State) (c : Nat) (x : Vf) : (s.setVf c x).recovery = s.recovery := rfl
@[simp] theorem State.setVf_booted (s : State) (c : Nat) (x : Vf) : (s.setVf c x).booted = s.booted := rfl
@[simp] theorem State.setVf_flash (s : State) (c : Nat) (x : Vf) : (s.setVf c x).flash = s.flash := rfl
@[simp] theorem State.setVf_cfg (s : State) (c : Nat) (x : Vf) : (s.setVf c x).cfg = s.cfg := rfl
@[simp] theorem State.setVf_clock (s : State) (c : Nat) (x : Vf) : (s.setVf c x).clock = s.clock := rfl
@[simp] theorem State.setVf_cores (s : State) (c : Nat) (x : Vf) : (s.setVf c x).cores = s.cores := rfl
@[simp] theorem State.setVf_groups (s : State) (c : Nat) (x : Vf) : (s.setVf c x).groups = s.groups := rfl
@[simp] theorem State.setVf_nextGroup (s : State) (c : Nat) (x : Vf) : (s.setVf c x).nextGroup = s.nextGroup := rfl
@[simp] theorem State.setVf_dies (s : State) (c : Nat) (x : Vf) : (s.setVf c x).dies = s.dies := rfl
@[simp] theorem State.setVf_gov (s : State) (c : Nat) (x : Vf) : (s.setVf c x).gov = s.gov := rfl
@[simp] theorem State.setVf_l2 (s : State) (c : Nat) (x : Vf) : (s.setVf c x).l2 = s.l2 := rfl
@[simp] theorem State.setVf_l2Ways (s : State) (c : Nat) (x : Vf) : (s.setVf c x).l2Ways = s.l2Ways := rfl
@[simp] theorem State.setVf_mem (s : State) (c : Nat) (x : Vf) : (s.setVf c x).mem = s.mem := rfl
@[simp] theorem State.setVf_fab (s : State) (c : Nat) (x : Vf) : (s.setVf c x).fab = s.fab := rfl
@[simp] theorem State.setVf_written (s : State) (c : Nat) (x : Vf) : (s.setVf c x).written = s.written := rfl
@[simp] theorem State.setVf_memPsn (s : State) (c : Nat) (x : Vf) : (s.setVf c x).memPsn = s.memPsn := rfl
@[simp] theorem State.setVf_fabPsn (s : State) (c : Nat) (x : Vf) : (s.setVf c x).fabPsn = s.fabPsn := rfl
@[simp] theorem State.setVf_remap (s : State) (c : Nat) (x : Vf) : (s.setVf c x).remap = s.remap := rfl
@[simp] theorem State.setVf_ctxs (s : State) (c : Nat) (x : Vf) : (s.setVf c x).ctxs = s.ctxs := rfl
@[simp] theorem State.setVf_exts (s : State) (c : Nat) (x : Vf) : (s.setVf c x).exts = s.exts := rfl
@[simp] theorem State.setVf_leaving (s : State) (c : Nat) (x : Vf) : (s.setVf c x).leaving = s.leaving := rfl
@[simp] theorem State.setVf_released (s : State) (c : Nat) (x : Vf) : (s.setVf c x).released = s.released := rfl
@[simp] theorem State.setVf_keyFree (s : State) (c : Nat) (x : Vf) : (s.setVf c x).keyFree = s.keyFree := rfl
@[simp] theorem State.setVf_keyUsed (s : State) (c : Nat) (x : Vf) : (s.setVf c x).keyUsed = s.keyUsed := rfl
@[simp] theorem State.setVf_parts (s : State) (c : Nat) (x : Vf) : (s.setVf c x).parts = s.parts := rfl
@[simp] theorem State.setVf_rings (s : State) (c : Nat) (x : Vf) : (s.setVf c x).rings = s.rings := rfl
@[simp] theorem State.setVf_mail (s : State) (c : Nat) (x : Vf) : (s.setVf c x).mail = s.mail := rfl
@[simp] theorem State.setVf_launches (s : State) (c : Nat) (x : Vf) : (s.setVf c x).launches = s.launches := rfl
@[simp] theorem State.setVf_nextLaunch (s : State) (c : Nat) (x : Vf) : (s.setVf c x).nextLaunch = s.nextLaunch := rfl
@[simp] theorem State.setVf_nextOrder (s : State) (c : Nat) (x : Vf) : (s.setVf c x).nextOrder = s.nextOrder := rfl
@[simp] theorem State.setVf_nextKeyGen (s : State) (c : Nat) (x : Vf) : (s.setVf c x).nextKeyGen = s.nextKeyGen := rfl
@[simp] theorem State.setVf_images (s : State) (c : Nat) (x : Vf) : (s.setVf c x).images = s.images := rfl
@[simp] theorem State.setVf_failures (s : State) (c : Nat) (x : Vf) : (s.setVf c x).failures = s.failures := rfl
@[simp] theorem State.setVf_arrivals (s : State) (c : Nat) (x : Vf) : (s.setVf c x).arrivals = s.arrivals := rfl
@[simp] theorem State.setVf_hdmSize (s : State) (c : Nat) (x : Vf) : (s.setVf c x).hdmSize = s.hdmSize := rfl
@[simp] theorem State.setVf_hb (s : State) (c : Nat) (x : Vf) : (s.setVf c x).hb = s.hb := rfl
@[simp] theorem State.setVf_pages (s : State) (c : Nat) (x : Vf) : (s.setVf c x).pages = s.pages := rfl
@[simp] theorem State.setVf_snoops (s : State) (c : Nat) (x : Vf) : (s.setVf c x).snoops = s.snoops := rfl
@[simp] theorem State.setVf_lines (s : State) (c : Nat) (x : Vf) : (s.setVf c x).lines = s.lines := rfl
@[simp] theorem State.setVf_creqs (s : State) (c : Nat) (x : Vf) : (s.setVf c x).creqs = s.creqs := rfl
@[simp] theorem State.setVf_flips (s : State) (c : Nat) (x : Vf) : (s.setVf c x).flips = s.flips := rfl
@[simp] theorem State.setVf_reqs (s : State) (c : Nat) (x : Vf) : (s.setVf c x).reqs = s.reqs := rfl
@[simp] theorem State.setVf_heldReqs (s : State) (c : Nat) (x : Vf) : (s.setVf c x).heldReqs = s.heldReqs := rfl
@[simp] theorem State.setVf_gone (s : State) (c : Nat) (x : Vf) : (s.setVf c x).gone = s.gone := rfl
@[simp] theorem State.setVf_via (s : State) (c : Nat) (x : Vf) : (s.setVf c x).via = s.via := rfl
@[simp] theorem State.setVf_lostPkgs (s : State) (c : Nat) (x : Vf) : (s.setVf c x).lostPkgs = s.lostPkgs := rfl
@[simp] theorem State.setVf_ident (s : State) (c : Nat) (x : Vf) : (s.setVf c x).ident = s.ident := rfl
@[simp] theorem State.setVf_idKey (s : State) (c : Nat) (x : Vf) : (s.setVf c x).idKey = s.idKey := rfl
@[simp] theorem State.setVf_binds (s : State) (c : Nat) (x : Vf) : (s.setVf c x).binds = s.binds := rfl
@[simp] theorem State.setVf_pfilter (s : State) (c : Nat) (x : Vf) : (s.setVf c x).pfilter = s.pfilter := rfl
@[simp] theorem State.setVf_vats (s : State) (c : Nat) (x : Vf) : (s.setVf c x).vats = s.vats := rfl
@[simp] theorem State.setVf_vatPort (s : State) (c : Nat) (x : Vf) : (s.setVf c x).vatPort = s.vatPort := rfl
@[simp] theorem State.setVf_vatQ (s : State) (c : Nat) (x : Vf) : (s.setVf c x).vatQ = s.vatQ := rfl
@[simp] theorem State.setVf_code (s : State) (c : Nat) (x : Vf) : (s.setVf c x).code = s.code := rfl
@[simp] theorem State.setVf_trusted (s : State) (c : Nat) (x : Vf) : (s.setVf c x).trusted = s.trusted := rfl
@[simp] theorem State.setVf_codes (s : State) (c : Nat) (x : Vf) : (s.setVf c x).codes = s.codes := rfl
@[simp] theorem State.setVf_packets (s : State) (c : Nat) (x : Vf) : (s.setVf c x).packets = s.packets := rfl
@[simp] theorem State.setVf_pctxs (s : State) (c : Nat) (x : Vf) : (s.setVf c x).pctxs = s.pctxs := rfl
@[simp] theorem State.setVf_allots (s : State) (c : Nat) (x : Vf) : (s.setVf c x).allots = s.allots := rfl
@[simp] theorem State.setVf_tags (s : State) (c : Nat) (x : Vf) : (s.setVf c x).tags = s.tags := rfl
@[simp] theorem State.setVf_regions (s : State) (c : Nat) (x : Vf) : (s.setVf c x).regions = s.regions := rfl
@[simp] theorem State.setVf_lastSeq (s : State) (c : Nat) (x : Vf) : (s.setVf c x).lastSeq = s.lastSeq := rfl
@[simp] theorem State.setVf_sendSeq (s : State) (c : Nat) (x : Vf) : (s.setVf c x).sendSeq = s.sendSeq := rfl
@[simp] theorem State.setVf_out (s : State) (c : Nat) (x : Vf) : (s.setVf c x).out = s.out := rfl
@[simp] theorem State.setVf_turns (s : State) (c : Nat) (x : Vf) : (s.setVf c x).turns = s.turns := rfl
@[simp] theorem State.setVf_cur (s : State) (c : Nat) (x : Vf) : (s.setVf c x).cur = s.cur := rfl
@[simp] theorem State.setVf_free (s : State) (c : Nat) (x : Vf) : (s.setVf c x).free = s.free := rfl
@[simp] theorem State.setPart_build (s : State) (c : Nat) (x : Part) : (s.setPart c x).build = s.build := rfl
@[simp] theorem State.setPart_recovery (s : State) (c : Nat) (x : Part) : (s.setPart c x).recovery = s.recovery := rfl
@[simp] theorem State.setPart_booted (s : State) (c : Nat) (x : Part) : (s.setPart c x).booted = s.booted := rfl
@[simp] theorem State.setPart_flash (s : State) (c : Nat) (x : Part) : (s.setPart c x).flash = s.flash := rfl
@[simp] theorem State.setPart_cfg (s : State) (c : Nat) (x : Part) : (s.setPart c x).cfg = s.cfg := rfl
@[simp] theorem State.setPart_clock (s : State) (c : Nat) (x : Part) : (s.setPart c x).clock = s.clock := rfl
@[simp] theorem State.setPart_cores (s : State) (c : Nat) (x : Part) : (s.setPart c x).cores = s.cores := rfl
@[simp] theorem State.setPart_groups (s : State) (c : Nat) (x : Part) : (s.setPart c x).groups = s.groups := rfl
@[simp] theorem State.setPart_nextGroup (s : State) (c : Nat) (x : Part) : (s.setPart c x).nextGroup = s.nextGroup := rfl
@[simp] theorem State.setPart_dies (s : State) (c : Nat) (x : Part) : (s.setPart c x).dies = s.dies := rfl
@[simp] theorem State.setPart_gov (s : State) (c : Nat) (x : Part) : (s.setPart c x).gov = s.gov := rfl
@[simp] theorem State.setPart_l2 (s : State) (c : Nat) (x : Part) : (s.setPart c x).l2 = s.l2 := rfl
@[simp] theorem State.setPart_l2Ways (s : State) (c : Nat) (x : Part) : (s.setPart c x).l2Ways = s.l2Ways := rfl
@[simp] theorem State.setPart_mem (s : State) (c : Nat) (x : Part) : (s.setPart c x).mem = s.mem := rfl
@[simp] theorem State.setPart_fab (s : State) (c : Nat) (x : Part) : (s.setPart c x).fab = s.fab := rfl
@[simp] theorem State.setPart_written (s : State) (c : Nat) (x : Part) : (s.setPart c x).written = s.written := rfl
@[simp] theorem State.setPart_memPsn (s : State) (c : Nat) (x : Part) : (s.setPart c x).memPsn = s.memPsn := rfl
@[simp] theorem State.setPart_fabPsn (s : State) (c : Nat) (x : Part) : (s.setPart c x).fabPsn = s.fabPsn := rfl
@[simp] theorem State.setPart_remap (s : State) (c : Nat) (x : Part) : (s.setPart c x).remap = s.remap := rfl
@[simp] theorem State.setPart_ctxs (s : State) (c : Nat) (x : Part) : (s.setPart c x).ctxs = s.ctxs := rfl
@[simp] theorem State.setPart_vfs (s : State) (c : Nat) (x : Part) : (s.setPart c x).vfs = s.vfs := rfl
@[simp] theorem State.setPart_exts (s : State) (c : Nat) (x : Part) : (s.setPart c x).exts = s.exts := rfl
@[simp] theorem State.setPart_leaving (s : State) (c : Nat) (x : Part) : (s.setPart c x).leaving = s.leaving := rfl
@[simp] theorem State.setPart_released (s : State) (c : Nat) (x : Part) : (s.setPart c x).released = s.released := rfl
@[simp] theorem State.setPart_keyFree (s : State) (c : Nat) (x : Part) : (s.setPart c x).keyFree = s.keyFree := rfl
@[simp] theorem State.setPart_keyUsed (s : State) (c : Nat) (x : Part) : (s.setPart c x).keyUsed = s.keyUsed := rfl
@[simp] theorem State.setPart_rings (s : State) (c : Nat) (x : Part) : (s.setPart c x).rings = s.rings := rfl
@[simp] theorem State.setPart_mail (s : State) (c : Nat) (x : Part) : (s.setPart c x).mail = s.mail := rfl
@[simp] theorem State.setPart_launches (s : State) (c : Nat) (x : Part) : (s.setPart c x).launches = s.launches := rfl
@[simp] theorem State.setPart_nextLaunch (s : State) (c : Nat) (x : Part) : (s.setPart c x).nextLaunch = s.nextLaunch := rfl
@[simp] theorem State.setPart_nextOrder (s : State) (c : Nat) (x : Part) : (s.setPart c x).nextOrder = s.nextOrder := rfl
@[simp] theorem State.setPart_nextKeyGen (s : State) (c : Nat) (x : Part) : (s.setPart c x).nextKeyGen = s.nextKeyGen := rfl
@[simp] theorem State.setPart_images (s : State) (c : Nat) (x : Part) : (s.setPart c x).images = s.images := rfl
@[simp] theorem State.setPart_failures (s : State) (c : Nat) (x : Part) : (s.setPart c x).failures = s.failures := rfl
@[simp] theorem State.setPart_arrivals (s : State) (c : Nat) (x : Part) : (s.setPart c x).arrivals = s.arrivals := rfl
@[simp] theorem State.setPart_hdmSize (s : State) (c : Nat) (x : Part) : (s.setPart c x).hdmSize = s.hdmSize := rfl
@[simp] theorem State.setPart_hb (s : State) (c : Nat) (x : Part) : (s.setPart c x).hb = s.hb := rfl
@[simp] theorem State.setPart_pages (s : State) (c : Nat) (x : Part) : (s.setPart c x).pages = s.pages := rfl
@[simp] theorem State.setPart_snoops (s : State) (c : Nat) (x : Part) : (s.setPart c x).snoops = s.snoops := rfl
@[simp] theorem State.setPart_lines (s : State) (c : Nat) (x : Part) : (s.setPart c x).lines = s.lines := rfl
@[simp] theorem State.setPart_creqs (s : State) (c : Nat) (x : Part) : (s.setPart c x).creqs = s.creqs := rfl
@[simp] theorem State.setPart_flips (s : State) (c : Nat) (x : Part) : (s.setPart c x).flips = s.flips := rfl
@[simp] theorem State.setPart_reqs (s : State) (c : Nat) (x : Part) : (s.setPart c x).reqs = s.reqs := rfl
@[simp] theorem State.setPart_heldReqs (s : State) (c : Nat) (x : Part) : (s.setPart c x).heldReqs = s.heldReqs := rfl
@[simp] theorem State.setPart_gone (s : State) (c : Nat) (x : Part) : (s.setPart c x).gone = s.gone := rfl
@[simp] theorem State.setPart_via (s : State) (c : Nat) (x : Part) : (s.setPart c x).via = s.via := rfl
@[simp] theorem State.setPart_lostPkgs (s : State) (c : Nat) (x : Part) : (s.setPart c x).lostPkgs = s.lostPkgs := rfl
@[simp] theorem State.setPart_ident (s : State) (c : Nat) (x : Part) : (s.setPart c x).ident = s.ident := rfl
@[simp] theorem State.setPart_idKey (s : State) (c : Nat) (x : Part) : (s.setPart c x).idKey = s.idKey := rfl
@[simp] theorem State.setPart_binds (s : State) (c : Nat) (x : Part) : (s.setPart c x).binds = s.binds := rfl
@[simp] theorem State.setPart_pfilter (s : State) (c : Nat) (x : Part) : (s.setPart c x).pfilter = s.pfilter := rfl
@[simp] theorem State.setPart_vats (s : State) (c : Nat) (x : Part) : (s.setPart c x).vats = s.vats := rfl
@[simp] theorem State.setPart_vatPort (s : State) (c : Nat) (x : Part) : (s.setPart c x).vatPort = s.vatPort := rfl
@[simp] theorem State.setPart_vatQ (s : State) (c : Nat) (x : Part) : (s.setPart c x).vatQ = s.vatQ := rfl
@[simp] theorem State.setPart_code (s : State) (c : Nat) (x : Part) : (s.setPart c x).code = s.code := rfl
@[simp] theorem State.setPart_trusted (s : State) (c : Nat) (x : Part) : (s.setPart c x).trusted = s.trusted := rfl
@[simp] theorem State.setPart_codes (s : State) (c : Nat) (x : Part) : (s.setPart c x).codes = s.codes := rfl
@[simp] theorem State.setPart_packets (s : State) (c : Nat) (x : Part) : (s.setPart c x).packets = s.packets := rfl
@[simp] theorem State.setPart_pctxs (s : State) (c : Nat) (x : Part) : (s.setPart c x).pctxs = s.pctxs := rfl
@[simp] theorem State.setPart_allots (s : State) (c : Nat) (x : Part) : (s.setPart c x).allots = s.allots := rfl
@[simp] theorem State.setPart_tags (s : State) (c : Nat) (x : Part) : (s.setPart c x).tags = s.tags := rfl
@[simp] theorem State.setPart_regions (s : State) (c : Nat) (x : Part) : (s.setPart c x).regions = s.regions := rfl
@[simp] theorem State.setPart_lastSeq (s : State) (c : Nat) (x : Part) : (s.setPart c x).lastSeq = s.lastSeq := rfl
@[simp] theorem State.setPart_sendSeq (s : State) (c : Nat) (x : Part) : (s.setPart c x).sendSeq = s.sendSeq := rfl
@[simp] theorem State.setPart_out (s : State) (c : Nat) (x : Part) : (s.setPart c x).out = s.out := rfl
@[simp] theorem State.setPart_turns (s : State) (c : Nat) (x : Part) : (s.setPart c x).turns = s.turns := rfl
@[simp] theorem State.setPart_cur (s : State) (c : Nat) (x : Part) : (s.setPart c x).cur = s.cur := rfl
@[simp] theorem State.setPart_free (s : State) (c : Nat) (x : Part) : (s.setPart c x).free = s.free := rfl
@[simp] theorem State.setRing_build (s : State) (c : Nat) (x : Ring) : (s.setRing c x).build = s.build := rfl
@[simp] theorem State.setRing_recovery (s : State) (c : Nat) (x : Ring) : (s.setRing c x).recovery = s.recovery := rfl
@[simp] theorem State.setRing_booted (s : State) (c : Nat) (x : Ring) : (s.setRing c x).booted = s.booted := rfl
@[simp] theorem State.setRing_flash (s : State) (c : Nat) (x : Ring) : (s.setRing c x).flash = s.flash := rfl
@[simp] theorem State.setRing_cfg (s : State) (c : Nat) (x : Ring) : (s.setRing c x).cfg = s.cfg := rfl
@[simp] theorem State.setRing_clock (s : State) (c : Nat) (x : Ring) : (s.setRing c x).clock = s.clock := rfl
@[simp] theorem State.setRing_cores (s : State) (c : Nat) (x : Ring) : (s.setRing c x).cores = s.cores := rfl
@[simp] theorem State.setRing_groups (s : State) (c : Nat) (x : Ring) : (s.setRing c x).groups = s.groups := rfl
@[simp] theorem State.setRing_nextGroup (s : State) (c : Nat) (x : Ring) : (s.setRing c x).nextGroup = s.nextGroup := rfl
@[simp] theorem State.setRing_dies (s : State) (c : Nat) (x : Ring) : (s.setRing c x).dies = s.dies := rfl
@[simp] theorem State.setRing_gov (s : State) (c : Nat) (x : Ring) : (s.setRing c x).gov = s.gov := rfl
@[simp] theorem State.setRing_l2 (s : State) (c : Nat) (x : Ring) : (s.setRing c x).l2 = s.l2 := rfl
@[simp] theorem State.setRing_l2Ways (s : State) (c : Nat) (x : Ring) : (s.setRing c x).l2Ways = s.l2Ways := rfl
@[simp] theorem State.setRing_mem (s : State) (c : Nat) (x : Ring) : (s.setRing c x).mem = s.mem := rfl
@[simp] theorem State.setRing_fab (s : State) (c : Nat) (x : Ring) : (s.setRing c x).fab = s.fab := rfl
@[simp] theorem State.setRing_written (s : State) (c : Nat) (x : Ring) : (s.setRing c x).written = s.written := rfl
@[simp] theorem State.setRing_memPsn (s : State) (c : Nat) (x : Ring) : (s.setRing c x).memPsn = s.memPsn := rfl
@[simp] theorem State.setRing_fabPsn (s : State) (c : Nat) (x : Ring) : (s.setRing c x).fabPsn = s.fabPsn := rfl
@[simp] theorem State.setRing_remap (s : State) (c : Nat) (x : Ring) : (s.setRing c x).remap = s.remap := rfl
@[simp] theorem State.setRing_ctxs (s : State) (c : Nat) (x : Ring) : (s.setRing c x).ctxs = s.ctxs := rfl
@[simp] theorem State.setRing_vfs (s : State) (c : Nat) (x : Ring) : (s.setRing c x).vfs = s.vfs := rfl
@[simp] theorem State.setRing_exts (s : State) (c : Nat) (x : Ring) : (s.setRing c x).exts = s.exts := rfl
@[simp] theorem State.setRing_leaving (s : State) (c : Nat) (x : Ring) : (s.setRing c x).leaving = s.leaving := rfl
@[simp] theorem State.setRing_released (s : State) (c : Nat) (x : Ring) : (s.setRing c x).released = s.released := rfl
@[simp] theorem State.setRing_keyFree (s : State) (c : Nat) (x : Ring) : (s.setRing c x).keyFree = s.keyFree := rfl
@[simp] theorem State.setRing_keyUsed (s : State) (c : Nat) (x : Ring) : (s.setRing c x).keyUsed = s.keyUsed := rfl
@[simp] theorem State.setRing_parts (s : State) (c : Nat) (x : Ring) : (s.setRing c x).parts = s.parts := rfl
@[simp] theorem State.setRing_mail (s : State) (c : Nat) (x : Ring) : (s.setRing c x).mail = s.mail := rfl
@[simp] theorem State.setRing_launches (s : State) (c : Nat) (x : Ring) : (s.setRing c x).launches = s.launches := rfl
@[simp] theorem State.setRing_nextLaunch (s : State) (c : Nat) (x : Ring) : (s.setRing c x).nextLaunch = s.nextLaunch := rfl
@[simp] theorem State.setRing_nextOrder (s : State) (c : Nat) (x : Ring) : (s.setRing c x).nextOrder = s.nextOrder := rfl
@[simp] theorem State.setRing_nextKeyGen (s : State) (c : Nat) (x : Ring) : (s.setRing c x).nextKeyGen = s.nextKeyGen := rfl
@[simp] theorem State.setRing_images (s : State) (c : Nat) (x : Ring) : (s.setRing c x).images = s.images := rfl
@[simp] theorem State.setRing_failures (s : State) (c : Nat) (x : Ring) : (s.setRing c x).failures = s.failures := rfl
@[simp] theorem State.setRing_arrivals (s : State) (c : Nat) (x : Ring) : (s.setRing c x).arrivals = s.arrivals := rfl
@[simp] theorem State.setRing_hdmSize (s : State) (c : Nat) (x : Ring) : (s.setRing c x).hdmSize = s.hdmSize := rfl
@[simp] theorem State.setRing_hb (s : State) (c : Nat) (x : Ring) : (s.setRing c x).hb = s.hb := rfl
@[simp] theorem State.setRing_pages (s : State) (c : Nat) (x : Ring) : (s.setRing c x).pages = s.pages := rfl
@[simp] theorem State.setRing_snoops (s : State) (c : Nat) (x : Ring) : (s.setRing c x).snoops = s.snoops := rfl
@[simp] theorem State.setRing_lines (s : State) (c : Nat) (x : Ring) : (s.setRing c x).lines = s.lines := rfl
@[simp] theorem State.setRing_creqs (s : State) (c : Nat) (x : Ring) : (s.setRing c x).creqs = s.creqs := rfl
@[simp] theorem State.setRing_flips (s : State) (c : Nat) (x : Ring) : (s.setRing c x).flips = s.flips := rfl
@[simp] theorem State.setRing_reqs (s : State) (c : Nat) (x : Ring) : (s.setRing c x).reqs = s.reqs := rfl
@[simp] theorem State.setRing_heldReqs (s : State) (c : Nat) (x : Ring) : (s.setRing c x).heldReqs = s.heldReqs := rfl
@[simp] theorem State.setRing_gone (s : State) (c : Nat) (x : Ring) : (s.setRing c x).gone = s.gone := rfl
@[simp] theorem State.setRing_via (s : State) (c : Nat) (x : Ring) : (s.setRing c x).via = s.via := rfl
@[simp] theorem State.setRing_lostPkgs (s : State) (c : Nat) (x : Ring) : (s.setRing c x).lostPkgs = s.lostPkgs := rfl
@[simp] theorem State.setRing_ident (s : State) (c : Nat) (x : Ring) : (s.setRing c x).ident = s.ident := rfl
@[simp] theorem State.setRing_idKey (s : State) (c : Nat) (x : Ring) : (s.setRing c x).idKey = s.idKey := rfl
@[simp] theorem State.setRing_binds (s : State) (c : Nat) (x : Ring) : (s.setRing c x).binds = s.binds := rfl
@[simp] theorem State.setRing_pfilter (s : State) (c : Nat) (x : Ring) : (s.setRing c x).pfilter = s.pfilter := rfl
@[simp] theorem State.setRing_vats (s : State) (c : Nat) (x : Ring) : (s.setRing c x).vats = s.vats := rfl
@[simp] theorem State.setRing_vatPort (s : State) (c : Nat) (x : Ring) : (s.setRing c x).vatPort = s.vatPort := rfl
@[simp] theorem State.setRing_vatQ (s : State) (c : Nat) (x : Ring) : (s.setRing c x).vatQ = s.vatQ := rfl
@[simp] theorem State.setRing_code (s : State) (c : Nat) (x : Ring) : (s.setRing c x).code = s.code := rfl
@[simp] theorem State.setRing_trusted (s : State) (c : Nat) (x : Ring) : (s.setRing c x).trusted = s.trusted := rfl
@[simp] theorem State.setRing_codes (s : State) (c : Nat) (x : Ring) : (s.setRing c x).codes = s.codes := rfl
@[simp] theorem State.setRing_packets (s : State) (c : Nat) (x : Ring) : (s.setRing c x).packets = s.packets := rfl
@[simp] theorem State.setRing_pctxs (s : State) (c : Nat) (x : Ring) : (s.setRing c x).pctxs = s.pctxs := rfl
@[simp] theorem State.setRing_allots (s : State) (c : Nat) (x : Ring) : (s.setRing c x).allots = s.allots := rfl
@[simp] theorem State.setRing_tags (s : State) (c : Nat) (x : Ring) : (s.setRing c x).tags = s.tags := rfl
@[simp] theorem State.setRing_regions (s : State) (c : Nat) (x : Ring) : (s.setRing c x).regions = s.regions := rfl
@[simp] theorem State.setRing_lastSeq (s : State) (c : Nat) (x : Ring) : (s.setRing c x).lastSeq = s.lastSeq := rfl
@[simp] theorem State.setRing_sendSeq (s : State) (c : Nat) (x : Ring) : (s.setRing c x).sendSeq = s.sendSeq := rfl
@[simp] theorem State.setRing_out (s : State) (c : Nat) (x : Ring) : (s.setRing c x).out = s.out := rfl
@[simp] theorem State.setRing_turns (s : State) (c : Nat) (x : Ring) : (s.setRing c x).turns = s.turns := rfl
@[simp] theorem State.setRing_cur (s : State) (c : Nat) (x : Ring) : (s.setRing c x).cur = s.cur := rfl
@[simp] theorem State.setRing_free (s : State) (c : Nat) (x : Ring) : (s.setRing c x).free = s.free := rfl
@[simp] theorem State.setDie_build (s : State) (c : Nat) (x : Die) : (s.setDie c x).build = s.build := rfl
@[simp] theorem State.setDie_recovery (s : State) (c : Nat) (x : Die) : (s.setDie c x).recovery = s.recovery := rfl
@[simp] theorem State.setDie_booted (s : State) (c : Nat) (x : Die) : (s.setDie c x).booted = s.booted := rfl
@[simp] theorem State.setDie_flash (s : State) (c : Nat) (x : Die) : (s.setDie c x).flash = s.flash := rfl
@[simp] theorem State.setDie_cfg (s : State) (c : Nat) (x : Die) : (s.setDie c x).cfg = s.cfg := rfl
@[simp] theorem State.setDie_clock (s : State) (c : Nat) (x : Die) : (s.setDie c x).clock = s.clock := rfl
@[simp] theorem State.setDie_cores (s : State) (c : Nat) (x : Die) : (s.setDie c x).cores = s.cores := rfl
@[simp] theorem State.setDie_groups (s : State) (c : Nat) (x : Die) : (s.setDie c x).groups = s.groups := rfl
@[simp] theorem State.setDie_nextGroup (s : State) (c : Nat) (x : Die) : (s.setDie c x).nextGroup = s.nextGroup := rfl
@[simp] theorem State.setDie_gov (s : State) (c : Nat) (x : Die) : (s.setDie c x).gov = s.gov := rfl
@[simp] theorem State.setDie_l2 (s : State) (c : Nat) (x : Die) : (s.setDie c x).l2 = s.l2 := rfl
@[simp] theorem State.setDie_l2Ways (s : State) (c : Nat) (x : Die) : (s.setDie c x).l2Ways = s.l2Ways := rfl
@[simp] theorem State.setDie_mem (s : State) (c : Nat) (x : Die) : (s.setDie c x).mem = s.mem := rfl
@[simp] theorem State.setDie_fab (s : State) (c : Nat) (x : Die) : (s.setDie c x).fab = s.fab := rfl
@[simp] theorem State.setDie_written (s : State) (c : Nat) (x : Die) : (s.setDie c x).written = s.written := rfl
@[simp] theorem State.setDie_memPsn (s : State) (c : Nat) (x : Die) : (s.setDie c x).memPsn = s.memPsn := rfl
@[simp] theorem State.setDie_fabPsn (s : State) (c : Nat) (x : Die) : (s.setDie c x).fabPsn = s.fabPsn := rfl
@[simp] theorem State.setDie_remap (s : State) (c : Nat) (x : Die) : (s.setDie c x).remap = s.remap := rfl
@[simp] theorem State.setDie_ctxs (s : State) (c : Nat) (x : Die) : (s.setDie c x).ctxs = s.ctxs := rfl
@[simp] theorem State.setDie_vfs (s : State) (c : Nat) (x : Die) : (s.setDie c x).vfs = s.vfs := rfl
@[simp] theorem State.setDie_exts (s : State) (c : Nat) (x : Die) : (s.setDie c x).exts = s.exts := rfl
@[simp] theorem State.setDie_leaving (s : State) (c : Nat) (x : Die) : (s.setDie c x).leaving = s.leaving := rfl
@[simp] theorem State.setDie_released (s : State) (c : Nat) (x : Die) : (s.setDie c x).released = s.released := rfl
@[simp] theorem State.setDie_keyFree (s : State) (c : Nat) (x : Die) : (s.setDie c x).keyFree = s.keyFree := rfl
@[simp] theorem State.setDie_keyUsed (s : State) (c : Nat) (x : Die) : (s.setDie c x).keyUsed = s.keyUsed := rfl
@[simp] theorem State.setDie_parts (s : State) (c : Nat) (x : Die) : (s.setDie c x).parts = s.parts := rfl
@[simp] theorem State.setDie_rings (s : State) (c : Nat) (x : Die) : (s.setDie c x).rings = s.rings := rfl
@[simp] theorem State.setDie_mail (s : State) (c : Nat) (x : Die) : (s.setDie c x).mail = s.mail := rfl
@[simp] theorem State.setDie_launches (s : State) (c : Nat) (x : Die) : (s.setDie c x).launches = s.launches := rfl
@[simp] theorem State.setDie_nextLaunch (s : State) (c : Nat) (x : Die) : (s.setDie c x).nextLaunch = s.nextLaunch := rfl
@[simp] theorem State.setDie_nextOrder (s : State) (c : Nat) (x : Die) : (s.setDie c x).nextOrder = s.nextOrder := rfl
@[simp] theorem State.setDie_nextKeyGen (s : State) (c : Nat) (x : Die) : (s.setDie c x).nextKeyGen = s.nextKeyGen := rfl
@[simp] theorem State.setDie_images (s : State) (c : Nat) (x : Die) : (s.setDie c x).images = s.images := rfl
@[simp] theorem State.setDie_failures (s : State) (c : Nat) (x : Die) : (s.setDie c x).failures = s.failures := rfl
@[simp] theorem State.setDie_arrivals (s : State) (c : Nat) (x : Die) : (s.setDie c x).arrivals = s.arrivals := rfl
@[simp] theorem State.setDie_hdmSize (s : State) (c : Nat) (x : Die) : (s.setDie c x).hdmSize = s.hdmSize := rfl
@[simp] theorem State.setDie_hb (s : State) (c : Nat) (x : Die) : (s.setDie c x).hb = s.hb := rfl
@[simp] theorem State.setDie_pages (s : State) (c : Nat) (x : Die) : (s.setDie c x).pages = s.pages := rfl
@[simp] theorem State.setDie_snoops (s : State) (c : Nat) (x : Die) : (s.setDie c x).snoops = s.snoops := rfl
@[simp] theorem State.setDie_lines (s : State) (c : Nat) (x : Die) : (s.setDie c x).lines = s.lines := rfl
@[simp] theorem State.setDie_creqs (s : State) (c : Nat) (x : Die) : (s.setDie c x).creqs = s.creqs := rfl
@[simp] theorem State.setDie_flips (s : State) (c : Nat) (x : Die) : (s.setDie c x).flips = s.flips := rfl
@[simp] theorem State.setDie_reqs (s : State) (c : Nat) (x : Die) : (s.setDie c x).reqs = s.reqs := rfl
@[simp] theorem State.setDie_heldReqs (s : State) (c : Nat) (x : Die) : (s.setDie c x).heldReqs = s.heldReqs := rfl
@[simp] theorem State.setDie_gone (s : State) (c : Nat) (x : Die) : (s.setDie c x).gone = s.gone := rfl
@[simp] theorem State.setDie_via (s : State) (c : Nat) (x : Die) : (s.setDie c x).via = s.via := rfl
@[simp] theorem State.setDie_lostPkgs (s : State) (c : Nat) (x : Die) : (s.setDie c x).lostPkgs = s.lostPkgs := rfl
@[simp] theorem State.setDie_ident (s : State) (c : Nat) (x : Die) : (s.setDie c x).ident = s.ident := rfl
@[simp] theorem State.setDie_idKey (s : State) (c : Nat) (x : Die) : (s.setDie c x).idKey = s.idKey := rfl
@[simp] theorem State.setDie_binds (s : State) (c : Nat) (x : Die) : (s.setDie c x).binds = s.binds := rfl
@[simp] theorem State.setDie_pfilter (s : State) (c : Nat) (x : Die) : (s.setDie c x).pfilter = s.pfilter := rfl
@[simp] theorem State.setDie_vats (s : State) (c : Nat) (x : Die) : (s.setDie c x).vats = s.vats := rfl
@[simp] theorem State.setDie_vatPort (s : State) (c : Nat) (x : Die) : (s.setDie c x).vatPort = s.vatPort := rfl
@[simp] theorem State.setDie_vatQ (s : State) (c : Nat) (x : Die) : (s.setDie c x).vatQ = s.vatQ := rfl
@[simp] theorem State.setDie_code (s : State) (c : Nat) (x : Die) : (s.setDie c x).code = s.code := rfl
@[simp] theorem State.setDie_trusted (s : State) (c : Nat) (x : Die) : (s.setDie c x).trusted = s.trusted := rfl
@[simp] theorem State.setDie_codes (s : State) (c : Nat) (x : Die) : (s.setDie c x).codes = s.codes := rfl
@[simp] theorem State.setDie_packets (s : State) (c : Nat) (x : Die) : (s.setDie c x).packets = s.packets := rfl
@[simp] theorem State.setDie_pctxs (s : State) (c : Nat) (x : Die) : (s.setDie c x).pctxs = s.pctxs := rfl
@[simp] theorem State.setDie_allots (s : State) (c : Nat) (x : Die) : (s.setDie c x).allots = s.allots := rfl
@[simp] theorem State.setDie_tags (s : State) (c : Nat) (x : Die) : (s.setDie c x).tags = s.tags := rfl
@[simp] theorem State.setDie_regions (s : State) (c : Nat) (x : Die) : (s.setDie c x).regions = s.regions := rfl
@[simp] theorem State.setDie_lastSeq (s : State) (c : Nat) (x : Die) : (s.setDie c x).lastSeq = s.lastSeq := rfl
@[simp] theorem State.setDie_sendSeq (s : State) (c : Nat) (x : Die) : (s.setDie c x).sendSeq = s.sendSeq := rfl
@[simp] theorem State.setDie_out (s : State) (c : Nat) (x : Die) : (s.setDie c x).out = s.out := rfl
@[simp] theorem State.setDie_turns (s : State) (c : Nat) (x : Die) : (s.setDie c x).turns = s.turns := rfl
@[simp] theorem State.setDie_cur (s : State) (c : Nat) (x : Die) : (s.setDie c x).cur = s.cur := rfl
@[simp] theorem State.setDie_free (s : State) (c : Nat) (x : Die) : (s.setDie c x).free = s.free := rfl
@[simp] theorem State.emit_build (s : State) (m : Msg) : (s.emit m).build = s.build := rfl
@[simp] theorem State.emit_recovery (s : State) (m : Msg) : (s.emit m).recovery = s.recovery := rfl
@[simp] theorem State.emit_booted (s : State) (m : Msg) : (s.emit m).booted = s.booted := rfl
@[simp] theorem State.emit_flash (s : State) (m : Msg) : (s.emit m).flash = s.flash := rfl
@[simp] theorem State.emit_cfg (s : State) (m : Msg) : (s.emit m).cfg = s.cfg := rfl
@[simp] theorem State.emit_clock (s : State) (m : Msg) : (s.emit m).clock = s.clock := rfl
@[simp] theorem State.emit_cores (s : State) (m : Msg) : (s.emit m).cores = s.cores := rfl
@[simp] theorem State.emit_groups (s : State) (m : Msg) : (s.emit m).groups = s.groups := rfl
@[simp] theorem State.emit_nextGroup (s : State) (m : Msg) : (s.emit m).nextGroup = s.nextGroup := rfl
@[simp] theorem State.emit_dies (s : State) (m : Msg) : (s.emit m).dies = s.dies := rfl
@[simp] theorem State.emit_gov (s : State) (m : Msg) : (s.emit m).gov = s.gov := rfl
@[simp] theorem State.emit_l2 (s : State) (m : Msg) : (s.emit m).l2 = s.l2 := rfl
@[simp] theorem State.emit_l2Ways (s : State) (m : Msg) : (s.emit m).l2Ways = s.l2Ways := rfl
@[simp] theorem State.emit_mem (s : State) (m : Msg) : (s.emit m).mem = s.mem := rfl
@[simp] theorem State.emit_fab (s : State) (m : Msg) : (s.emit m).fab = s.fab := rfl
@[simp] theorem State.emit_written (s : State) (m : Msg) : (s.emit m).written = s.written := rfl
@[simp] theorem State.emit_memPsn (s : State) (m : Msg) : (s.emit m).memPsn = s.memPsn := rfl
@[simp] theorem State.emit_fabPsn (s : State) (m : Msg) : (s.emit m).fabPsn = s.fabPsn := rfl
@[simp] theorem State.emit_remap (s : State) (m : Msg) : (s.emit m).remap = s.remap := rfl
@[simp] theorem State.emit_ctxs (s : State) (m : Msg) : (s.emit m).ctxs = s.ctxs := rfl
@[simp] theorem State.emit_vfs (s : State) (m : Msg) : (s.emit m).vfs = s.vfs := rfl
@[simp] theorem State.emit_exts (s : State) (m : Msg) : (s.emit m).exts = s.exts := rfl
@[simp] theorem State.emit_leaving (s : State) (m : Msg) : (s.emit m).leaving = s.leaving := rfl
@[simp] theorem State.emit_released (s : State) (m : Msg) : (s.emit m).released = s.released := rfl
@[simp] theorem State.emit_keyFree (s : State) (m : Msg) : (s.emit m).keyFree = s.keyFree := rfl
@[simp] theorem State.emit_keyUsed (s : State) (m : Msg) : (s.emit m).keyUsed = s.keyUsed := rfl
@[simp] theorem State.emit_parts (s : State) (m : Msg) : (s.emit m).parts = s.parts := rfl
@[simp] theorem State.emit_rings (s : State) (m : Msg) : (s.emit m).rings = s.rings := rfl
@[simp] theorem State.emit_mail (s : State) (m : Msg) : (s.emit m).mail = s.mail := rfl
@[simp] theorem State.emit_launches (s : State) (m : Msg) : (s.emit m).launches = s.launches := rfl
@[simp] theorem State.emit_nextLaunch (s : State) (m : Msg) : (s.emit m).nextLaunch = s.nextLaunch := rfl
@[simp] theorem State.emit_nextOrder (s : State) (m : Msg) : (s.emit m).nextOrder = s.nextOrder := rfl
@[simp] theorem State.emit_nextKeyGen (s : State) (m : Msg) : (s.emit m).nextKeyGen = s.nextKeyGen := rfl
@[simp] theorem State.emit_images (s : State) (m : Msg) : (s.emit m).images = s.images := rfl
@[simp] theorem State.emit_failures (s : State) (m : Msg) : (s.emit m).failures = s.failures := rfl
@[simp] theorem State.emit_arrivals (s : State) (m : Msg) : (s.emit m).arrivals = s.arrivals := rfl
@[simp] theorem State.emit_hdmSize (s : State) (m : Msg) : (s.emit m).hdmSize = s.hdmSize := rfl
@[simp] theorem State.emit_hb (s : State) (m : Msg) : (s.emit m).hb = s.hb := rfl
@[simp] theorem State.emit_pages (s : State) (m : Msg) : (s.emit m).pages = s.pages := rfl
@[simp] theorem State.emit_snoops (s : State) (m : Msg) : (s.emit m).snoops = s.snoops := rfl
@[simp] theorem State.emit_lines (s : State) (m : Msg) : (s.emit m).lines = s.lines := rfl
@[simp] theorem State.emit_creqs (s : State) (m : Msg) : (s.emit m).creqs = s.creqs := rfl
@[simp] theorem State.emit_flips (s : State) (m : Msg) : (s.emit m).flips = s.flips := rfl
@[simp] theorem State.emit_reqs (s : State) (m : Msg) : (s.emit m).reqs = s.reqs := rfl
@[simp] theorem State.emit_heldReqs (s : State) (m : Msg) : (s.emit m).heldReqs = s.heldReqs := rfl
@[simp] theorem State.emit_gone (s : State) (m : Msg) : (s.emit m).gone = s.gone := rfl
@[simp] theorem State.emit_via (s : State) (m : Msg) : (s.emit m).via = s.via := rfl
@[simp] theorem State.emit_lostPkgs (s : State) (m : Msg) : (s.emit m).lostPkgs = s.lostPkgs := rfl
@[simp] theorem State.emit_ident (s : State) (m : Msg) : (s.emit m).ident = s.ident := rfl
@[simp] theorem State.emit_idKey (s : State) (m : Msg) : (s.emit m).idKey = s.idKey := rfl
@[simp] theorem State.emit_binds (s : State) (m : Msg) : (s.emit m).binds = s.binds := rfl
@[simp] theorem State.emit_pfilter (s : State) (m : Msg) : (s.emit m).pfilter = s.pfilter := rfl
@[simp] theorem State.emit_vats (s : State) (m : Msg) : (s.emit m).vats = s.vats := rfl
@[simp] theorem State.emit_vatPort (s : State) (m : Msg) : (s.emit m).vatPort = s.vatPort := rfl
@[simp] theorem State.emit_vatQ (s : State) (m : Msg) : (s.emit m).vatQ = s.vatQ := rfl
@[simp] theorem State.emit_code (s : State) (m : Msg) : (s.emit m).code = s.code := rfl
@[simp] theorem State.emit_trusted (s : State) (m : Msg) : (s.emit m).trusted = s.trusted := rfl
@[simp] theorem State.emit_codes (s : State) (m : Msg) : (s.emit m).codes = s.codes := rfl
@[simp] theorem State.emit_packets (s : State) (m : Msg) : (s.emit m).packets = s.packets := rfl
@[simp] theorem State.emit_pctxs (s : State) (m : Msg) : (s.emit m).pctxs = s.pctxs := rfl
@[simp] theorem State.emit_allots (s : State) (m : Msg) : (s.emit m).allots = s.allots := rfl
@[simp] theorem State.emit_tags (s : State) (m : Msg) : (s.emit m).tags = s.tags := rfl
@[simp] theorem State.emit_regions (s : State) (m : Msg) : (s.emit m).regions = s.regions := rfl
@[simp] theorem State.emit_lastSeq (s : State) (m : Msg) : (s.emit m).lastSeq = s.lastSeq := rfl
@[simp] theorem State.emit_sendSeq (s : State) (m : Msg) : (s.emit m).sendSeq = s.sendSeq := rfl
@[simp] theorem State.emit_turns (s : State) (m : Msg) : (s.emit m).turns = s.turns := rfl
@[simp] theorem State.emit_cur (s : State) (m : Msg) : (s.emit m).cur = s.cur := rfl
@[simp] theorem State.emit_free (s : State) (m : Msg) : (s.emit m).free = s.free := rfl
@[simp] theorem State.emit_out (s : State) (m : Msg) : (s.emit m).out = s.out ++ [m] := rfl

-- Reading a part after writing it

@[simp] theorem State.core_setCore (s : State) (c d : Nat) (x : Core) : (s.setCore c x).core d = if c = d then x else s.core d := by
  simp only [State.core, State.setCore_cores, KMap.getD_set]
@[simp] theorem State.ctx_setCtx (s : State) (c d : Nat) (x : Ctx) : (s.setCtx c x).ctx d = if c = d then x else s.ctx d := by
  simp only [State.ctx, State.setCtx, KMap.getD_set]
@[simp] theorem State.vf_setVf (s : State) (c d : Nat) (x : Vf) : (s.setVf c x).vf d = if c = d then x else s.vf d := by
  simp only [State.vf, State.setVf, KMap.getD_set]
@[simp] theorem State.part_setPart (s : State) (c d : Nat) (x : Part) : (s.setPart c x).part d = if c = d then x else s.part d := by
  simp only [State.part, State.setPart, KMap.getD_set]
@[simp] theorem State.ring_setRing (s : State) (c d : Nat) (x : Ring) : (s.setRing c x).ring d = if c = d then x else s.ring d := by
  simp only [State.ring, State.setRing, KMap.getD_set]
@[simp] theorem State.die_setDie (s : State) (c d : Nat) (x : Die) : (s.setDie c x).die d = if c = d then x else s.die d := by
  simp only [State.die, State.setDie, KMap.getD_set]
@[simp] theorem State.core_setCtx (s : State) (c d : Nat) (x : Ctx) : (s.setCtx c x).core d = s.core d := rfl
@[simp] theorem State.ctx_setCore (s : State) (c d : Nat) (x : Core) : (s.setCore c x).ctx d = s.ctx d := rfl
@[simp] theorem State.flight?_setCtx (s : State) (a c f : Nat) (x : Ctx) : (s.setCtx a x).flight? c f = s.flight? c f := rfl
@[simp] theorem State.ctx_setFlight (s : State) (c f d : Nat) (x : Flight) : (s.setFlight c f x).ctx d = s.ctx d := rfl
@[simp] theorem State.flight?_setFlight (s : State) (c f d g : Nat) (x : Flight) :
    (s.setFlight c f x).flight? d g = if c = d ∧ f = g then some x else s.flight? d g := by
  simp only [State.flight?, State.setFlight, State.core_setCore]
  by_cases h : c = d
  · subst h
    simp
  · simp [h]
@[simp] theorem State.eng_setFlight (s : State) (c f d e : Nat) (x : Flight) : (s.setFlight c f x).eng d e = s.eng d e := by
  simp only [State.eng, State.setFlight, State.core_setCore]
  split
  · rename_i h
    subst h
    rfl
  · rfl
@[simp] theorem State.eng_setEng (s : State) (c e d g : Nat) (x : Eng) :
    (s.setEng c e x).eng d g = if c = d ∧ e = g then x else s.eng d g := by
  simp only [State.eng, State.setEng, State.core_setCore]
  by_cases h : c = d
  · subst h
    simp
  · simp [h]
@[simp] theorem State.flight?_setEng (s : State) (c e d g : Nat) (x : Eng) : (s.setEng c e x).flight? d g = s.flight? d g := by
  simp only [State.flight?, State.setEng, State.core_setCore]
  split
  · rename_i h
    subst h
    rfl
  · rfl
@[simp] theorem State.block?_setBlock (s : State) (c b d k : Nat) (x : Block) :
    (s.setBlock c b x).block? d k = if c = d ∧ b = k then some x else s.block? d k := by
  simp only [State.block?, State.setBlock, State.core_setCore]
  by_cases h : c = d
  · subst h
    simp
  · simp [h]
@[simp] theorem State.cb_setCb (s : State) (c b d k : Nat) (x : CBar) :
    (s.setCb c b x).cb d k = if c = d ∧ b = k then x else s.cb d k := by
  simp only [State.cb, State.setCb, State.core_setCore]
  by_cases h : c = d
  · subst h
    simp
  · simp [h]
@[simp] theorem State.core_setFlight_press (s : State) (c f d : Nat) (x : Flight) : ((s.setFlight c f x).core d).press = (s.core d).press := by
  simp only [State.setFlight, State.core_setCore]
  split
  · rename_i h
    subst h
    rfl
  · rfl
@[simp] theorem State.block?_setFlight (s : State) (c f d b : Nat) (x : Flight) : (s.setFlight c f x).block? d b = s.block? d b := by
  simp only [State.block?, State.setFlight, State.core_setCore]
  split
  · rename_i h
    subst h
    rfl
  · rfl
@[simp] theorem State.cb_setFlight (s : State) (c f d b : Nat) (x : Flight) : (s.setFlight c f x).cb d b = s.cb d b := by
  simp only [State.cb, State.setFlight, State.core_setCore]
  split
  · rename_i h
    subst h
    rfl
  · rfl
@[simp] theorem Flight.thread_setThread (f : Flight) (l m : Nat) (t : Thread) : (f.setThread l t).thread m = if l = m then t else f.thread m := by
  simp only [Flight.thread, Flight.setThread, KMap.getD_set]

@[simp] theorem Flight.setThread_ctx (f : Flight) (l : Nat) (t : Thread) : (f.setThread l t).ctx = f.ctx := rfl
@[simp] theorem Flight.setThread_launch (f : Flight) (l : Nat) (t : Thread) : (f.setThread l t).launch = f.launch := rfl
@[simp] theorem Flight.setThread_block (f : Flight) (l : Nat) (t : Thread) : (f.setThread l t).block = f.block := rfl
@[simp] theorem Flight.setThread_idx (f : Flight) (l : Nat) (t : Thread) : (f.setThread l t).idx = f.idx := rfl
@[simp] theorem Flight.setThread_stage (f : Flight) (l : Nat) (t : Thread) : (f.setThread l t).stage = f.stage := rfl
@[simp] theorem Flight.setThread_s (f : Flight) (l : Nat) (t : Thread) : (f.setThread l t).s = f.s := rfl
@[simp] theorem Flight.setThread_sPend (f : Flight) (l : Nat) (t : Thread) : (f.setThread l t).sPend = f.sPend := rfl
@[simp] theorem Flight.setThread_k (f : Flight) (l : Nat) (t : Thread) : (f.setThread l t).k = f.k := rfl
@[simp] theorem Flight.setThread_kPend (f : Flight) (l : Nat) (t : Thread) : (f.setThread l t).kPend = f.kPend := rfl
@[simp] theorem Flight.setThread_allot (f : Flight) (l : Nat) (t : Thread) : (f.setThread l t).allot = f.allot := rfl
@[simp] theorem Flight.setThread_freed (f : Flight) (l : Nat) (t : Thread) : (f.setThread l t).freed = f.freed := rfl
@[simp] theorem Flight.setThread_arrive (f : Flight) (l : Nat) (t : Thread) : (f.setThread l t).arrive = f.arrive := rfl
@[simp] theorem Flight.setThread_toks (f : Flight) (l : Nat) (t : Thread) : (f.setThread l t).toks = f.toks := rfl
@[simp] theorem Flight.setThread_slot (f : Flight) (l : Nat) (t : Thread) : (f.setThread l t).slot = f.slot := rfl
@[simp] theorem Flight.setThread_waited (f : Flight) (l : Nat) (t : Thread) : (f.setThread l t).waited = f.waited := rfl
@[simp] theorem Flight.setThread_overdue (f : Flight) (l : Nat) (t : Thread) : (f.setThread l t).overdue = f.overdue := rfl
@[simp] theorem Flight.setThread_yielded (f : Flight) (l : Nat) (t : Thread) : (f.setThread l t).yielded = f.yielded := rfl
@[simp] theorem Flight.setThread_wideAt (f : Flight) (l : Nat) (t : Thread) : (f.setThread l t).wideAt = f.wideAt := rfl
@[simp] theorem Flight.setThread_run (f : Flight) (l : Nat) (t : Thread) : (f.setThread l t).run = f.run := rfl
@[simp] theorem Flight.setThread_heldRuns (f : Flight) (l : Nat) (t : Thread) : (f.setThread l t).heldRuns = f.heldRuns := rfl
@[simp] theorem Flight.setThread_loads (f : Flight) (l : Nat) (t : Thread) : (f.setThread l t).loads = f.loads := rfl
@[simp] theorem Flight.setThread_longs (f : Flight) (l : Nat) (t : Thread) : (f.setThread l t).longs = f.longs := rfl
@[simp] theorem Flight.setThread_nextId (f : Flight) (l : Nat) (t : Thread) : (f.setThread l t).nextId = f.nextId := rfl

end Sys2Proof.Machine
end

