-- ==== Sys2Proof/Laws/Member.lean ====
section
/-!
SUPPORT. Sys2Proof/Laws/Member.lean: what executing a member can do, said once: the writes of a commit, the end of a run, and the two ways in which a member whose
lanes all complete leaves its flight (`Completed`).
-/
namespace Sys2Proof.Machine

open Sys2Proof

-- ---------------------------------------------------------------------------------------------
-- Lanes

theorem mem_lanesOf {m : W32} {l : Nat} : l ∈ lanesOf m ↔ l < 32 ∧ m.getLsbD l = true := by
  simp [lanesOf]

theorem lanesOf_ne_nil {m : W32} (h : m ≠ 0) : lanesOf m ≠ [] := by
  intro e
  apply h
  apply BitVec.eq_of_getLsbD_eq
  intro i hi
  cases hb : m.getLsbD i
  · simp
  · have : i ∈ lanesOf m := mem_lanesOf.2 ⟨hi, hb⟩
    simp [e] at this

theorem laneBit_get {l i : Nat} (h : l < 32) : (laneBit l).getLsbD i = decide (i = l) := by
  simp only [laneBit, BitVec.getLsbD_shiftLeft, BitVec.getLsbD_one]
  by_cases e : i = l
  · subst e
    simp [h]
  · simp only [e, decide_false]
    by_cases h1 : i < l <;> simp_all <;> omega

theorem maskFold_get (p : Nat → Bool) (ls : List Nat) (m : W32) (i : Nat) (hl : ∀ l ∈ ls, l < 32) :
    (ls.foldl (fun m l => if p l then m ||| laneBit l else m) m).getLsbD i = (m.getLsbD i || decide (i ∈ ls ∧ p i = true)) := by
  induction ls generalizing m with
  | nil => simp
  | cons l ls ih =>
    have hl0 : l < 32 := hl l (by simp)
    simp only [List.foldl_cons]
    rw [ih _ (fun x hx => hl x (by simp [hx]))]
    by_cases hp : p l = true
    · rw [if_pos hp, BitVec.getLsbD_or, laneBit_get hl0]
      by_cases e : i = l
      · subst e; simp [hp]
      · simp [e]
    · rw [if_neg hp]
      by_cases e : i = l
      · subst e; simp_all
      · simp [e]

/-- A lane is in the guard mask when it is in exec and its guard is true (R97). -/
theorem guardMask_get (grd : BitVec 4) (r : Run) (i : Nat) :
    (guardMask grd r).getLsbD i = (decide (i < 32) && r.exec.getLsbD i && guardOf grd (r.thread i)) := by
  unfold guardMask
  rw [maskFold_get (fun l => guardOf grd (r.thread l)) _ _ _ (fun l hl => (mem_lanesOf.1 hl).1)]
  simp [mem_lanesOf]

theorem guardMask_exec {grd : BitVec 4} {r : Run} {i : Nat} (h : (guardMask grd r).getLsbD i = true) : r.exec.getLsbD i = true := by
  rw [guardMask_get] at h
  simp_all

-- ---------------------------------------------------------------------------------------------
-- Commits

@[simp] theorem Flight.holds_run (f : Flight) (r : Option Run) (x : Loc) : ({ f with run := r } : Flight).holds x = f.holds x := by
  cases x <;> rfl

theorem Flight.commitOne_holds (f : Flight) (l : Nat) (w : SWrite) (x : Loc) :
    (f.commitOne l w).holds x = if w.loc l = some x then w.value else f.holds x := by
  cases w with
  | v i y p =>
    cases x with
    | v m j =>
      simp only [Flight.commitOne, Flight.holds, Flight.thread_setThread, SWrite.loc, SWrite.value, Option.some.injEq, Loc.v.injEq]
      by_cases h : l = m
      · subst h
        simp only [if_true, true_and, Thread.vreg, KMap.getD_set]
        by_cases hj : i = j <;> simp [hj]
      · simp [h]
    | p m j =>
      simp only [Flight.commitOne, Flight.holds, Flight.thread_setThread, SWrite.loc]
      split <;> simp_all
    | sp m =>
      simp only [Flight.commitOne, Flight.holds, Flight.thread_setThread, SWrite.loc]
      split <;> simp_all
    | s j => simp [Flight.commitOne, Flight.holds, SWrite.loc]
    | k j => simp [Flight.commitOne, Flight.holds, SWrite.loc]
  | s i y =>
    cases x with
    | s j =>
      simp only [Flight.commitOne, Flight.holds, SWrite.loc, SWrite.value, KMap.getD_set, Option.some.injEq, Loc.s.injEq]
      split <;> rfl
    | v m j => rw [if_neg (by simp [SWrite.loc])]; rfl
    | p m j => rw [if_neg (by simp [SWrite.loc])]; rfl
    | sp m => rw [if_neg (by simp [SWrite.loc])]; rfl
    | k j => simp [SWrite.loc, Flight.commitOne, Flight.holds]
  | k i y =>
    cases x with
    | k j =>
      simp only [Flight.commitOne, Flight.holds, SWrite.loc, SWrite.value, KMap.getD_set, Option.some.injEq, Loc.k.injEq]
      split <;> rfl
    | v m j => rw [if_neg (by simp [SWrite.loc])]; rfl
    | p m j => rw [if_neg (by simp [SWrite.loc])]; rfl
    | sp m => rw [if_neg (by simp [SWrite.loc])]; rfl
    | s j => simp [SWrite.loc, Flight.commitOne, Flight.holds]
  | sp y =>
    cases x with
    | sp m =>
      simp only [Flight.commitOne, Flight.holds, Flight.thread_setThread, SWrite.loc, SWrite.value, Option.some.injEq, Loc.sp.injEq]
      split <;> simp_all
    | v m j =>
      simp only [Flight.commitOne, Flight.holds, Flight.thread_setThread, SWrite.loc, Thread.vreg]
      split <;> simp_all
    | p m j =>
      simp only [Flight.commitOne, Flight.holds, Flight.thread_setThread, SWrite.loc]
      split <;> simp_all
    | s j => simp [Flight.commitOne, Flight.holds, SWrite.loc]
    | k j => simp [Flight.commitOne, Flight.holds, SWrite.loc]
  | p i b =>
    cases x with
    | p m j =>
      simp only [Flight.commitOne, Flight.holds, Flight.thread_setThread, SWrite.loc, SWrite.value]
      by_cases h : l = m
      · subst h
        by_cases hi : i < 7
        · have hb : ∀ q : BitVec 7, (if b then q ||| 1#7 <<< i else q &&& ~~~(1#7 <<< i)).getLsbD j = if i = j then b else q.getLsbD j := by
            intro q
            cases b
            · simp only [Bool.false_eq_true, if_false, BitVec.getLsbD_and, BitVec.getLsbD_not, BitVec.getLsbD_shiftLeft, BitVec.getLsbD_one]
              by_cases e : i = j
              · subst e; simp [hi]
              · by_cases e2 : j < i
                · simp [e, e2]; intro h; exact BitVec.lt_of_getLsbD h
                · have : ¬ j - i = 0 := by omega
                  simp [e, e2, this]; intro h; exact BitVec.lt_of_getLsbD h
            · simp only [if_true, BitVec.getLsbD_or, BitVec.getLsbD_shiftLeft, BitVec.getLsbD_one]
              by_cases e : i = j
              · subst e; simp [hi]
              · by_cases e2 : j < i
                · simp [e, e2]
                · have : ¬ j - i = 0 := by omega
                  simp [e, e2, this]
          simp only [if_true, hi, Option.some.injEq, Loc.p.injEq, true_and, hb]
          by_cases e : i = j <;> simp [e]
        · have hz : (1#7 <<< i) = 0#7 := by
            apply BitVec.eq_of_getLsbD_eq
            intro k hk
            simp only [BitVec.getLsbD_shiftLeft]
            have : k < i := by omega
            simp [this]
          have hq : ∀ q : BitVec 7, (if b then q ||| 0#7 else q &&& ~~~0#7) = q := by
            intro q
            cases b
            · show q &&& BitVec.allOnes 7 = q
              exact BitVec.and_allOnes
            · exact BitVec.or_zero
          simp only [if_true, hi, if_false, reduceCtorEq, hz, hq]
      · simp only [h, if_false]
        split <;> simp_all
    | v m j =>
      simp only [Flight.commitOne, Flight.holds, Flight.thread_setThread, SWrite.loc, Thread.vreg]
      split <;> split <;> simp_all
    | sp m =>
      simp only [Flight.commitOne, Flight.holds, Flight.thread_setThread, SWrite.loc]
      split <;> split <;> simp_all
    | s j => simp [Flight.commitOne, Flight.holds, SWrite.loc]
    | k j => simp [Flight.commitOne, Flight.holds, SWrite.loc]

/-- Fields of a flight that no register write touches. -/
theorem Flight.commitOne_same (f : Flight) (l : Nat) (w : SWrite) : let f' := f.commitOne l w
    f'.ctx = f.ctx ∧ f'.launch = f.launch ∧ f'.block = f.block ∧ f'.idx = f.idx ∧ f'.allot = f.allot ∧ f'.freed = f.freed ∧
    f'.arrive = f.arrive ∧ f'.loads = f.loads ∧ f'.heldRuns = f.heldRuns ∧ f'.slot = f.slot := by
  cases w <;> simp [Flight.commitOne, Flight.setThread]

theorem Flight.commit_same (f : Flight) (l : Nat) (ws : List SWrite) : let f' := f.commit l ws
    f'.ctx = f.ctx ∧ f'.launch = f.launch ∧ f'.block = f.block ∧ f'.idx = f.idx ∧ f'.allot = f.allot ∧ f'.freed = f.freed ∧
    f'.arrive = f.arrive ∧ f'.loads = f.loads ∧ f'.heldRuns = f.heldRuns ∧ f'.slot = f.slot := by
  induction ws generalizing f with
  | nil => simp [Flight.commit]
  | cons w ws ih =>
    have h := ih (f.commitOne l w)
    have h1 := f.commitOne_same l w
    simp only [Flight.commit, List.foldl_cons] at *
    simp_all

theorem afterWrites_append (a b : List (Nat × SWrite)) (x : Loc) (o : W64 × Bool) :
    afterWrites (a ++ b) x o = afterWrites b x (afterWrites a x o) := by
  simp [afterWrites, List.foldl_append]

/-- A commit writes what it lists, and nothing else. -/
theorem Flight.commit_holds (f : Flight) (l : Nat) (ws : List SWrite) (x : Loc) :
    (f.commit l ws).holds x = afterWrites (ws.map fun w => (l, w)) x (f.holds x) := by
  induction ws generalizing f with
  | nil => rfl
  | cons w ws ih =>
    show ((f.commitOne l w).commit l ws).holds x = _
    rw [ih, Flight.commitOne_holds]
    rfl

-- ---------------------------------------------------------------------------------------------
-- What the parts of a commit leave alone

/-- The fields of a flight and of its threads that no completion of a member changes. -/
structure Flight.Keeps (f f' : Flight) : Prop where
  same : f'.ctx = f.ctx ∧ f'.launch = f.launch ∧ f'.block = f.block ∧ f'.idx = f.idx ∧ f'.allot = f.allot ∧ f'.freed = f.freed ∧
    f'.arrive = f.arrive ∧ f'.loads = f.loads ∧ f'.heldRuns = f.heldRuns ∧ f'.slot = f.slot
  thread : ∀ l, (f'.thread l).live = (f.thread l).live ∧ (f'.thread l).trapcause = (f.thread l).trapcause ∧
    (f'.thread l).trapaddr = (f.thread l).trapaddr ∧ (f'.thread l).poisontok = (f.thread l).poisontok ∧ (f'.thread l).depth = (f.thread l).depth

theorem Flight.Keeps.refl (f : Flight) : f.Keeps f := ⟨by simp, by simp⟩

theorem Flight.Keeps.trans {f g h : Flight} (a : f.Keeps g) (b : g.Keeps h) : f.Keeps h := by
  refine ⟨?_, fun l => ?_⟩
  · have := a.same; have := b.same; simp_all
  · have := a.thread l; have := b.thread l; simp_all

/-- Where the threads go on, the results that wait, the next key and the run in progress: what register writes leave alone. -/
def Flight.Stands (f f' : Flight) : Prop :=
  (∀ l, (f'.thread l).pc = (f.thread l).pc ∧ (f'.thread l).hold = (f.thread l).hold) ∧ f'.longs = f.longs ∧ f'.nextId = f.nextId ∧ f'.run = f.run

theorem Flight.Stands.refl (f : Flight) : f.Stands f := ⟨by simp, rfl, rfl, rfl⟩

theorem Flight.Stands.trans {f g h : Flight} (a : f.Stands g) (b : g.Stands h) : f.Stands h :=
  ⟨fun l => ⟨(b.1 l).1.trans (a.1 l).1, (b.1 l).2.trans (a.1 l).2⟩, b.2.1.trans a.2.1, b.2.2.1.trans a.2.2.1, b.2.2.2.trans a.2.2.2⟩

theorem Flight.commitOne_keeps (f : Flight) (l : Nat) (w : SWrite) : f.Keeps (f.commitOne l w) := by
  refine ⟨f.commitOne_same l w, fun m => ?_⟩
  cases w <;> simp only [Flight.commitOne, Flight.thread_setThread]
  case s => exact ⟨rfl, rfl, rfl, rfl, rfl⟩
  case k => exact ⟨rfl, rfl, rfl, rfl, rfl⟩
  all_goals split <;> simp_all

theorem Flight.commitOne_stands (f : Flight) (l : Nat) (w : SWrite) : f.Stands (f.commitOne l w) := by
  refine ⟨fun m => ?_, ?_, ?_, ?_⟩
  · cases w <;> simp only [Flight.commitOne, Flight.thread_setThread]
    case s => exact ⟨rfl, rfl⟩
    case k => exact ⟨rfl, rfl⟩
    all_goals split <;> simp_all
  all_goals cases w <;> rfl

theorem Flight.commit_keeps (f : Flight) (l : Nat) (ws : List SWrite) : f.Keeps (f.commit l ws) := by
  induction ws generalizing f with
  | nil => exact .refl f
  | cons w ws ih => exact (f.commitOne_keeps l w).trans (ih _)

theorem Flight.commit_stands (f : Flight) (l : Nat) (ws : List SWrite) : f.Stands (f.commit l ws) := by
  induction ws generalizing f with
  | nil => exact .refl f
  | cons w ws ih => exact (f.commitOne_stands l w).trans (ih _)

theorem Flight.goOn_holds (f : Flight) (l : Nat) (pc : W57) (h : Hold) (st : Nat) (x : Loc) : (f.goOn l pc h st).holds x = f.holds x := by
  cases x <;> simp only [Flight.goOn, Flight.holds, Flight.thread_setThread, Thread.vreg]
  case s => rfl
  case k => rfl
  all_goals split <;> simp_all

theorem Flight.goOn_keeps (f : Flight) (l : Nat) (pc : W57) (h : Hold) (st : Nat) : f.Keeps (f.goOn l pc h st) := by
  refine ⟨by simp [Flight.goOn, Flight.setThread], fun m => ?_⟩
  simp only [Flight.goOn, Flight.thread_setThread]
  split <;> simp_all

theorem Flight.goOn_thread (f : Flight) (l m : Nat) (pc : W57) (h : Hold) (st : Nat) :
    ((f.goOn l pc h st).thread m).pc = (if l = m then pc else (f.thread m).pc) ∧
    ((f.goOn l pc h st).thread m).hold = if l = m then h else (f.thread m).hold := by
  simp only [Flight.goOn, Flight.thread_setThread]
  split <;> simp

theorem Flight.setV_holds (f : Flight) (l i : Nat) (b : Bool) (x : Loc) :
    (f.setThread l { f.thread l with v := (f.thread l).v.set i { (f.thread l).v.getD i ⟨0, false, false⟩ with pend := b } }).holds x = f.holds x := by
  cases x <;> simp only [Flight.holds, Flight.thread_setThread, Thread.vreg]
  case v m j =>
    split
    · rename_i e
      subst e
      simp only [KMap.getD_set]
      split <;> simp_all
    · rfl
  case s => rfl
  case k => rfl
  all_goals split <;> simp_all

theorem Flight.pendV1_eq (f : Flight) (l i : Nat) (b : Bool) : f.pendV l i 1 b =
    f.setThread l { f.thread l with v := (f.thread l).v.set i { (f.thread l).v.getD i ⟨0, false, false⟩ with pend := b } } := by
  simp [Flight.pendV, List.range_succ]

theorem Flight.pendV1_keeps (f : Flight) (l i : Nat) (b : Bool) : f.Keeps (f.pendV l i 1 b) ∧ f.Stands (f.pendV l i 1 b) := by
  rw [Flight.pendV1_eq]
  refine ⟨⟨by simp, fun m => ?_⟩, fun m => ?_, rfl, rfl, rfl⟩ <;> simp only [Flight.thread_setThread] <;> split <;> simp_all

/-- A pending bit changes no register and nothing of where the threads stand. -/
theorem Flight.pendOne_keeps (f : Flight) (b : Bool) (w : Nat × SWrite) :
    (∀ x, (f.pendOne b w).holds x = f.holds x) ∧ f.Keeps (f.pendOne b w) ∧ f.Stands (f.pendOne b w) := by
  obtain ⟨l, w⟩ := w
  cases w with
  | v i _ _ => exact ⟨fun x => (congrArg (Flight.holds · x) (f.pendV1_eq l i b)).trans (f.setV_holds l i b x), f.pendV1_keeps l i b⟩
  | s _ _ => exact ⟨fun x => by cases x <;> rfl, ⟨(Flight.Keeps.refl f).same, (Flight.Keeps.refl f).thread⟩, .refl f⟩
  | k _ _ => exact ⟨fun x => by cases x <;> rfl, ⟨(Flight.Keeps.refl f).same, (Flight.Keeps.refl f).thread⟩, .refl f⟩
  | p _ _ => exact ⟨fun _ => rfl, .refl f, .refl f⟩
  | sp _ => exact ⟨fun _ => rfl, .refl f, .refl f⟩

theorem Flight.pendAll_keeps (f : Flight) (b : Bool) (ws : List (Nat × SWrite)) :
    (∀ x, (f.pendAll b ws).holds x = f.holds x) ∧ f.Keeps (f.pendAll b ws) ∧ f.Stands (f.pendAll b ws) := by
  induction ws generalizing f with
  | nil => exact ⟨fun _ => rfl, .refl f, .refl f⟩
  | cons w ws ih =>
    have a := f.pendOne_keeps b w
    have c := ih (f.pendOne b w)
    exact ⟨fun x => (c.1 x).trans (a.1 x), a.2.1.trans c.2.1, a.2.2.trans c.2.2⟩

@[simp] theorem Flight.gcToks_thread (f : Flight) (l : Nat) : f.gcToks.thread l = f.thread l := by
  unfold Flight.gcToks; split <;> rfl
@[simp] theorem Flight.gcToks_holds (f : Flight) (x : Loc) : f.gcToks.holds x = f.holds x := by
  unfold Flight.gcToks; split <;> cases x <;> rfl
theorem Flight.gcToks_keeps (f : Flight) : f.Keeps f.gcToks ∧ f.Stands f.gcToks := by
  unfold Flight.gcToks
  split
  · exact ⟨.refl f, .refl f⟩
  · exact ⟨⟨by simp, fun _ => ⟨rfl, rfl, rfl, rfl, rfl⟩⟩, fun _ => ⟨rfl, rfl⟩, rfl, rfl, rfl⟩

-- ---------------------------------------------------------------------------------------------
-- The end of a run

/-- The lanes of a last member commit and go on one after another. -/
theorem Flight.finishLanes (r : Run) (key st : Nat) (ds : List (Nat × Val × List SWrite × LaneEnd)) (hd : ∀ d ∈ ds, d.2.2.2.goesOn = true)
    (hn : (ds.map (·.1)).Nodup) (f : Flight) :
    let f' := ds.foldl (fun f x => f.finishLane r key st x) f
    (∀ x, f'.holds x = afterWrites (ds.flatMap fun d => (r.staged.getD d.1 [] ++ d.2.2.1).map fun w => (d.1, w)) x (f.holds x)) ∧
    f.Keeps f' ∧
    (∀ l, l ∉ ds.map (·.1) → (f'.thread l).pc = (f.thread l).pc ∧ (f'.thread l).hold = (f.thread l).hold) ∧
    (∀ d ∈ ds, ((f'.thread d.1).pc, (f'.thread d.1).hold) = d.2.2.2.stands r) ∧
    f'.longs = f.longs ∧ f'.nextId = f.nextId ∧ f'.run = f.run := by
  induction ds generalizing f with
  | nil => exact ⟨fun _ => rfl, .refl f, fun _ _ => ⟨rfl, rfl⟩, by simp, rfl, rfl, rfl⟩
  | cons d ds ih =>
    rw [List.map_cons, List.nodup_cons] at hn
    obtain ⟨l, lat, ws, fin⟩ := d
    have hfin : fin.goesOn = true := hd (l, lat, ws, fin) (by simp)
    have e1 : f.finishLane r key st (l, lat, ws, fin) = (f.commit l (r.staged.getD l [] ++ ws)).goOn l (fin.stands r).1 (fin.stands r).2 st := by
      cases fin <;> first | rfl | exact absurd hfin (by simp [LaneEnd.goesOn])
    have ih := ih (fun d h => hd d (by simp [h])) hn.2 (f.finishLane r key st (l, lat, ws, fin))
    obtain ⟨h1, h2, h3, h7, h4, h5, h6⟩ := ih
    have hs := f.commit_stands l (r.staged.getD l [] ++ ws)
    have hg := fun m => Flight.goOn_thread (f.commit l (r.staged.getD l [] ++ ws)) l m (fin.stands r).1 (fin.stands r).2 st
    simp only [List.foldl_cons]
    refine ⟨fun x => ?_, ?_, fun m hm => ?_, fun d hx => ?_, ?_, ?_, ?_⟩
    · refine (h1 x).trans ?_
      rw [e1, Flight.goOn_holds, Flight.commit_holds, List.flatMap_cons, afterWrites_append]
    · refine Flight.Keeps.trans ?_ h2
      rw [e1]
      exact (f.commit_keeps l _).trans (Flight.goOn_keeps _ _ _ _ _)
    · rw [List.map_cons, List.mem_cons, not_or] at hm
      have h3 := h3 m hm.2
      rw [e1, (hg m).1, (hg m).2, if_neg (Ne.symm hm.1), if_neg (Ne.symm hm.1)] at h3
      rw [e1]
      exact ⟨h3.1.trans (hs.1 m).1, h3.2.trans (hs.1 m).2⟩
    · rcases List.mem_cons.1 hx with rfl | hx
      · have h3 := h3 l hn.1
        rw [e1, (hg l).1, (hg l).2, if_pos rfl, if_pos rfl] at h3
        rw [e1]
        exact Prod.ext h3.1 h3.2
      · exact h7 d hx
    · exact h4.trans (by rw [e1]; exact hs.2.1)
    · exact h5.trans (by rw [e1]; exact hs.2.2.1)
    · exact h6.trans (by rw [e1]; exact hs.2.2.2)

/-- The lanes of a run whose commit waits all stand behind it, in one way. -/
theorem Flight.standLanes (pc : W57) (hold : Hold) (st : Nat) (ds : List (Nat × Val × List SWrite × LaneEnd)) (f : Flight) :
    let f' := ds.foldl (fun f x => f.goOn x.1 pc hold st) f
    (∀ x, f'.holds x = f.holds x) ∧ f.Keeps f' ∧ f'.longs = f.longs ∧ f'.run = f.run ∧
    (∀ l, l ∉ ds.map (·.1) → (f'.thread l).pc = (f.thread l).pc ∧ (f'.thread l).hold = (f.thread l).hold) ∧
    (∀ l, l ∈ ds.map (·.1) → (f'.thread l).pc = pc ∧ (f'.thread l).hold = hold) := by
  induction ds generalizing f with
  | nil => exact ⟨fun _ => rfl, .refl f, rfl, rfl, fun _ _ => ⟨rfl, rfl⟩, by simp⟩
  | cons d ds ih =>
    obtain ⟨h1, h2, h3, h4, h5, h6⟩ := ih (f.goOn d.1 pc hold st)
    have g := fun m => f.goOn_thread d.1 m pc hold st
    refine ⟨fun x => (h1 x).trans (f.goOn_holds _ _ _ _ x), (f.goOn_keeps _ _ _ _).trans h2, h3, h4, fun l hl => ?_, fun l hl => ?_⟩
    · simp only [List.map_cons, List.mem_cons, not_or] at hl
      have := h5 l hl.2
      rw [(g l).1, (g l).2, if_neg (Ne.symm hl.1), if_neg (Ne.symm hl.1)] at this
      exact this
    · by_cases hm : l ∈ ds.map (·.1)
      · exact h6 l hm
      · have e : d.1 = l := by
          simp only [List.map_cons, List.mem_cons] at hl
          exact (hl.resolve_right hm).symm
        have := h5 l hm
        rw [(g l).1, (g l).2, if_pos e, if_pos e] at this
        exact this

theorem flatMap_congr {α β : Type} {xs : List α} {f g : α → List β} (h : ∀ x ∈ xs, f x = g x) : xs.flatMap f = xs.flatMap g := by
  induction xs with
  | nil => rfl
  | cons a xs ih => rw [List.flatMap_cons, List.flatMap_cons, h a (by simp), ih fun x hx => h x (by simp [hx])]

/-- What a member that completes in every lane does in each, in the order of `laneOrder`. -/
def donesFor (g exec : W32) (e : Effect) : List (Nat × Val × List SWrite × LaneEnd) :=
  (lanesOf g).map (fun l => (l, e.lat l, e.ws l, e.fin l)) ++
    ((lanesOf exec).filter fun l => !g.getLsbD l).map fun l => (l, Val.zero, [], .next)

theorem donesFor_goesOn (g exec : W32) (e : Effect) (hf : ∀ l, (e.fin l).goesOn = true) : ∀ d ∈ donesFor g exec e, d.2.2.2.goesOn = true := by
  intro d h
  simp only [donesFor, List.mem_append, List.mem_map] at h
  rcases h with ⟨l, -, rfl⟩ | ⟨l, -, rfl⟩
  · exact hf l
  · rfl

theorem donesFor_ne_nil {g exec : W32} (hg : g ≠ 0) (e : Effect) : donesFor g exec e ≠ [] := by
  simp [donesFor, lanesOf_ne_nil hg]

theorem donesFor_lanes {g exec : W32} (e : Effect) (sub : ∀ i, g.getLsbD i = true → exec.getLsbD i = true) (l : Nat) :
    l ∈ (donesFor g exec e).map (·.1) ↔ l < 32 ∧ exec.getLsbD l = true := by
  simp only [donesFor, List.map_append, List.map_map, List.mem_append, List.mem_map, Function.comp, exists_eq_right, List.mem_filter, mem_lanesOf,
    Bool.not_eq_true']
  constructor
  · rintro (⟨h, h2⟩ | ⟨h, -⟩)
    · exact ⟨h, sub l h2⟩
    · exact h
  · intro h
    by_cases hg : g.getLsbD l = true
    · exact .inl ⟨h.1, hg⟩
    · exact .inr ⟨h, by simpa using hg⟩

theorem lanesOf_nodup (m : W32) : (lanesOf m).Nodup := (List.nodup_range).filter _

theorem donesFor_nodup (g exec : W32) (e : Effect) : ((donesFor g exec e).map (·.1)).Nodup := by
  simp only [donesFor, List.map_append, List.map_map, Function.comp_def, List.map_id']
  refine List.nodup_append.2 ⟨lanesOf_nodup g, (lanesOf_nodup exec).filter _, fun a ha b hb => ?_⟩
  rintro rfl
  have h1 := (mem_lanesOf.1 ha).2
  have h2 := (List.mem_filter.1 hb).2
  simp [h1] at h2

/-- What the lanes of a run commit, in the order of its lanes. -/
theorem donesFor_writes (r : Run) (g : W32) (e : Effect) :
    (donesFor g r.exec e).map (fun d => (d.1, r.staged.getD d.1 [] ++ d.2.2.1)) = (laneOrder g r.exec).map fun l => (l, laneWrites r g e l) := by
  simp only [donesFor, laneOrder, laneWrites, List.map_append, List.map_map]
  congr 1 <;> refine List.map_congr_left fun l hl => ?_
  · simp [(mem_lanesOf.1 hl).2]
  · have : g.getLsbD l = false := by simpa using (List.mem_filter.1 hl).2
    simp [this]

theorem commitWrites_eq (r : Run) (g : W32) (e : Effect) : commitWrites r g e = (r.fstaged ++ e.once).map (fun w => (0, w)) ++
    (donesFor g r.exec e).flatMap fun d => (r.staged.getD d.1 [] ++ d.2.2.1).map fun w => (d.1, w) := by
  have h := congrArg (fun xs => xs.flatMap fun y : Nat × List SWrite => y.2.map fun w => (y.1, w)) (donesFor_writes r g e)
  simp only [List.flatMap_map] at h
  rw [commitWrites, h]

/-- Whether a run has something to commit, as the machine asks it. -/
theorem commits_iff (r : Run) (g : W32) (e : Effect) (hg : g ≠ 0) : r.commits (donesFor g r.exec e) e.once = (commitWrites r g e != []) := by
  have hne := donesFor_ne_nil (exec := r.exec) hg e
  rw [commitWrites_eq, Bool.eq_iff_iff]
  simp only [Run.commits, List.isEmpty_eq_false_iff.2 hne, Bool.not_false, Bool.true_and, Bool.or_eq_true, Bool.not_eq_true', List.isEmpty_eq_false_iff,
    List.any_eq_true, bne_iff_ne, ne_eq, List.append_eq_nil_iff, List.map_eq_nil_iff, List.flatMap_eq_nil_iff, Classical.not_and_iff_not_or_not,
    Classical.not_forall, exists_prop]

/-- The last member of a run completes in every lane, and the run commits with it. -/
theorem Flight.finishNow_completed (f : Flight) (r : Run) (g : W32) (long : Bool) (e : Effect) (stall : Nat) (yld : Bool) (hl : r.isLast = true)
    (hfin : ∀ l, (e.fin l).goesOn = true) (hg : g ≠ 0) (sub : ∀ i, g.getLsbD i = true → r.exec.getLsbD i = true) (hc : commitsLate r g long e = false) :
    Completed r g long e f (f.finishNow r stall yld (donesFor g r.exec e) e.once) := by
  have hn := donesFor_goesOn g r.exec e hfin
  have hw : ∀ n : LaneEnd, n.goesOn = true → n.waits = false := fun n => by cases n <;> simp [LaneEnd.goesOn, LaneEnd.waits]
  have hs : ((donesFor g r.exec e).any fun x => !x.2.2.2.waits) = true := by
    obtain ⟨d, hd⟩ := List.exists_mem_of_ne_nil _ (donesFor_ne_nil (exec := r.exec) hg e)
    simp only [List.any_eq_true]
    exact ⟨d, hd, by rw [hw _ (hn d hd)]; rfl⟩
  -- the flight after its pending bits, after its shared writes, and after its lanes
  unfold Flight.finishNow
  simp only [hs, if_true]
  generalize (r.pendGone (fun l => (donesFor g r.exec e).any fun x => x.1 == l && x.2.2.2.waits)
    (!true && (donesFor g r.exec e).any fun x => x.2.2.2.waits)) = zs
  obtain ⟨p1, p2, p3⟩ := f.pendAll_keeps false zs
  generalize f.pendAll false zs = f1 at p1 p2 p3
  have c1 := f1.commit_keeps 0 (r.fstaged ++ e.once)
  have c2 := f1.commit_stands 0 (r.fstaged ++ e.once)
  have c3 := f1.commit_holds 0 (r.fstaged ++ e.once)
  generalize f1.commit 0 (r.fstaged ++ e.once) = f2 at c1 c2 c3
  obtain ⟨a1, a2, a3, a4, -, -, a5⟩ := Flight.finishLanes r f.nextId stall _ hn (donesFor_nodup g r.exec e)
    { f2 with nextId := f2.nextId + 1, run := none, yielded := yld }
  generalize (donesFor g r.exec e).foldl (fun f' x => f'.finishLane r f.nextId stall x)
    ({ f2 with nextId := f2.nextId + 1, run := none, yielded := yld } : Flight) = f3 at a1 a2 a3 a4 a5
  obtain ⟨k, st⟩ := f3.gcToks_keeps
  have keeps : f.Keeps f3.gcToks := ((p2.trans c1).trans ⟨a2.same, a2.thread⟩).trans k
  have hx : ∀ x, ({ f2 with nextId := f2.nextId + 1, run := none, yielded := yld } : Flight).holds x = f2.holds x := fun x => by cases x <;> rfl
  refine ⟨fun x => ?_, fun _ => ⟨st.2.2.2.trans a5, fun _ l h1 h2 => ?_⟩, fun h => ?_, fun h => ?_, keeps.thread, fun l h => ?_, keeps.same⟩
  · rw [Flight.gcToks_holds, a1, hx, c3, p1, if_pos (by rw [hl, hc]; rfl), commitWrites_eq, afterWrites_append]
  · obtain ⟨d, hd, rfl⟩ := List.mem_map.1 ((donesFor_lanes e sub l).2 ⟨h2, h1⟩)
    rw [Flight.gcToks_thread, a4 d hd]
    simp only [donesFor, List.mem_append, List.mem_map, List.mem_filter] at hd
    rcases hd with ⟨l, hl, rfl⟩ | ⟨l, ⟨-, hl⟩, rfl⟩
    · rw [if_pos (mem_lanesOf.1 hl).2]
    · rw [if_neg (by simpa using hl)]
  · rw [hc] at h
    cases h
  · rw [hl] at h
    cases h
  · have hm : l ∉ (donesFor g r.exec e).map (·.1) := by
      rw [donesFor_lanes e sub]
      simp_all
    rw [Flight.gcToks_thread, (a3 l hm).1, (a3 l hm).2]
    exact ⟨(c2.1 l).1.trans (p3.1 l).1, (c2.1 l).2.trans (p3.1 l).2⟩

/-- The last member of a run completes in every lane, and the commit waits. -/
theorem Flight.finishLong_completed (f : Flight) (r : Run) (g : W32) (long : Bool) (e : Effect) (stall : Nat) (yld : Bool)
    (sub : ∀ i, g.getLsbD i = true → r.exec.getLsbD i = true) (hc : commitsLate r g long e = true) :
    Completed r g long e f (f.finishLong r stall yld (donesFor g r.exec e) e.once) := by
  have hl : r.isLast = true := by
    simp only [commitsLate, Bool.and_eq_true] at hc
    exact hc.1.1
  unfold Flight.finishLong
  simp only [donesFor_writes]
  generalize r.pendGone (fun l => (donesFor g r.exec e).any fun x => x.1 == l) true = zs
  generalize r.pendKept (fun l => (donesFor g r.exec e).any fun x => x.1 == l) true ++ pendsOf (donesFor g r.exec e) e.once = ps
  generalize pendsOf (donesFor g r.exec e) e.once = own
  obtain ⟨p1, p2, p3⟩ := f.pendAll_keeps false zs
  obtain ⟨q1, q2, q3⟩ := (f.pendAll false zs).pendAll_keeps true own
  generalize (f.pendAll false zs).pendAll true own = f1 at q1 q2 q3
  obtain ⟨a1, a2, a3, a4, a5, a6⟩ := Flight.standLanes r.after (if r.pos = 0 then .none else .commit f.nextId) stall (donesFor g r.exec e)
    { f1 with nextId := f.nextId + 1, run := none, yielded := yld
              longs := f1.longs.set f.nextId ⟨(laneOrder g r.exec).map fun l => (l, laneWrites r g e l), r.fstaged ++ e.once, ps⟩ }
  generalize (donesFor g r.exec e).foldl (fun f' x => f'.goOn x.1 r.after (if r.pos = 0 then Hold.none else .commit f.nextId) stall)
    ({ f1 with nextId := f.nextId + 1, run := none, yielded := yld
               longs := f1.longs.set f.nextId ⟨(laneOrder g r.exec).map fun l => (l, laneWrites r g e l), r.fstaged ++ e.once, ps⟩ } : Flight) = f2
    at a1 a2 a3 a4 a5 a6
  obtain ⟨k, st⟩ := f2.gcToks_keeps
  have keeps : f.Keeps f2.gcToks := ((p2.trans q2).trans ⟨a2.same, a2.thread⟩).trans k
  refine ⟨fun x => ?_, fun _ => ⟨st.2.2.2.trans a4, fun h => ?_⟩, fun _ => ⟨f.nextId, ps, ?_, fun l h1 h2 => ?_⟩, fun h => ?_, keeps.thread, fun l h => ?_, keeps.same⟩
  · rw [Flight.gcToks_holds, a1, if_neg (by rw [hl, hc]; simp), ← p1, ← q1]
    cases x <;> rfl
  · rw [hc] at h
    cases h
  · rw [st.2.1, a3]
    simp
  · rw [Flight.gcToks_thread]
    exact a6 l ((donesFor_lanes e sub l).2 ⟨h2, h1⟩)
  · rw [hl] at h
    cases h
  · have hm : l ∉ (donesFor g r.exec e).map (·.1) := by
      rw [donesFor_lanes e sub]
      simp_all
    rw [Flight.gcToks_thread, (a5 l hm).1, (a5 l hm).2]
    exact ⟨(q3.1 l).1.trans (p3.1 l).1, (q3.1 l).2.trans (p3.1 l).2⟩

/-- The last member of a run completes in every lane. -/
theorem Flight.finishRun_completed (f : Flight) (r : Run) (g : W32) (long : Bool) (e : Effect) (stall : Nat) (yld : Bool) (hl : r.isLast = true)
    (hfin : ∀ l, (e.fin l).goesOn = true) (hg : g ≠ 0) (sub : ∀ i, g.getLsbD i = true → r.exec.getLsbD i = true) :
    Completed r g long e f (f.finishRun r stall yld long (donesFor g r.exec e) e.once) := by
  unfold Flight.finishRun
  rw [commits_iff r g e hg]
  have h : commitsLate r g long e = (long && commitWrites r g e != []) := by rw [commitsLate, hl]; rfl
  rw [← h]
  cases hc : commitsLate r g long e
  · exact f.finishNow_completed r g long e stall yld hl hfin hg sub hc
  · exact f.finishLong_completed r g long e stall yld sub hc

-- ---------------------------------------------------------------------------------------------
-- A member in every lane

/-- What a member answers that completes in the lanes of a mask. -/
def outsFor (g : W32) (e : Effect) : Outs := { lanes := (lanesOf g).map fun l => ⟨l, .done (e.lat l) (e.ws l), e.fin l⟩, fwrites := e.once }

/-- A member that completes in every lane traps in none, and answers for each lane what it does there. -/
theorem outsFor_dones (g : W32) (e : Effect) : donesOf (outsFor g e).lanes = (lanesOf g).map fun l => (l, e.lat l, e.ws l, e.fin l) := by
  simp only [donesOf, outsFor, List.filterMap_map]
  exact congrFun List.filterMap_eq_map _

theorem outsFor_traps (g : W32) (e : Effect) : trapsOf (outsFor g e).lanes = [] := by
  simp only [trapsOf, outsFor, List.filterMap_map]
  exact List.filterMap_eq_nil_iff.2 fun _ _ => rfl

theorem outsFor_idle (g exec : W32) (e : Effect) :
    ((lanesOf exec).filter fun l => !((outsFor g e).lanes.any fun x => x.lane == l)) = (lanesOf exec).filter fun l => !g.getLsbD l := by
  apply List.filter_congr
  intro l hl
  congr 1
  simp only [outsFor, List.any_map, Function.comp_def]
  rw [Bool.eq_iff_iff]
  simp only [List.any_eq_true, beq_iff_eq, mem_lanesOf]
  constructor
  · rintro ⟨m, ⟨-, h⟩, rfl⟩
    exact h
  · intro h
    exact ⟨l, ⟨(mem_lanesOf.1 hl).1, h⟩, rfl⟩

/-- No thread of a run that completes enters a handler or exits. -/
theorem donesFor_plain (g exec : W32) (e : Effect) (hf : ∀ l, (e.fin l).goesOn = true) {β : Type} (f : Nat × Val × List SWrite × LaneEnd → Option β)
    (h : ∀ a b c n, LaneEnd.goesOn n = true → f (a, b, c, n) = none) : (donesFor g exec e).filterMap f = [] :=
  List.filterMap_eq_nil_iff.2 fun d hd => by
    obtain ⟨a, b, c, n⟩ := d
    exact h a b c n (donesFor_goesOn g exec e hf _ hd)

theorem Run.fill_latch (r : Run) (l m i : Nat) (lat : Val) (ws : List SWrite) :
    (r.fill l lat ws).latch m i = if l = m then (match i with | 0 => lat | 1 => r.latch m 0 | _ => Val.zero) else r.latch m i := by
  simp only [Run.latch, Run.fill, KMap.getD_set]
  by_cases h : l = m
  · subst h
    simp only [if_true]
    match i with
    | 0 => rfl
    | 1 => cases hl : r.lat.getD l [] <;> rfl
    | n + 2 => cases hl : r.lat.getD l [] <;> rfl
  · simp [h]

theorem Run.fill_staged (r : Run) (l m : Nat) (lat : Val) (ws : List SWrite) :
    (r.fill l lat ws).staged.getD m [] = r.staged.getD m [] ++ if l = m then ws else [] := by
  simp only [Run.fill]
  by_cases hw : ws = []
  · simp [hw]
  · simp only [hw, if_false, KMap.getD_set]
    by_cases h : l = m
    · subst h; simp
    · simp [h]

/-- Filling the latches and staging the writes of distinct lanes. -/
theorem Run.fillLanes (ds : List (Nat × Val × List SWrite × LaneEnd)) (hn : (ds.map (·.1)).Nodup) (r : Run) :
    let r' := ds.foldl (fun (r : Run) x => r.fill x.1 x.2.1 x.2.2.1) r
    (∀ d ∈ ds, r'.latch d.1 0 = d.2.1 ∧ r'.latch d.1 1 = r.latch d.1 0 ∧ r'.staged.getD d.1 [] = r.staged.getD d.1 [] ++ d.2.2.1) ∧
    (∀ m, m ∉ ds.map (·.1) → r'.latch m 0 = r.latch m 0 ∧ r'.latch m 1 = r.latch m 1 ∧ r'.staged.getD m [] = r.staged.getD m []) := by
  induction ds generalizing r with
  | nil => exact ⟨by simp, fun _ _ => ⟨rfl, rfl, rfl⟩⟩
  | cons d ds ih =>
    rw [List.map_cons, List.nodup_cons] at hn
    obtain ⟨i1, i2⟩ := ih hn.2 (r.fill d.1 d.2.1 d.2.2.1)
    refine ⟨fun x hx => ?_, fun m hm => ?_⟩
    · rcases List.mem_cons.1 hx with rfl | hx
      · obtain ⟨a, b, c⟩ := i2 x.1 hn.1
        rw [List.foldl_cons, a, b, c, Run.fill_latch, Run.fill_latch, Run.fill_staged]
        simp
      · obtain ⟨a, b, c⟩ := i1 x hx
        have hne : ¬ d.1 = x.1 := fun h => hn.1 (h ▸ List.mem_map.2 ⟨x, hx, rfl⟩)
        rw [List.foldl_cons, a, b, c, Run.fill_latch, Run.fill_staged]
        simp [hne]
    · rw [List.map_cons, List.mem_cons, not_or] at hm
      obtain ⟨a, b, c⟩ := i2 m hm.2
      have hne : ¬ d.1 = m := fun h => hm.1 h.symm
      rw [List.foldl_cons, a, b, c, Run.fill_latch, Run.fill_latch, Run.fill_staged]
      simp [hne]

theorem Run.fillLanes_frame (ds : List (Nat × Val × List SWrite × LaneEnd)) (r : Run) :
    let r' := ds.foldl (fun (r : Run) x => r.fill x.1 x.2.1 x.2.2.1) r
    r'.pos = r.pos ∧ r'.fstaged = r.fstaged ∧ r'.start = r.start ∧ r'.len = r.len ∧ r'.snap = r.snap := by
  induction ds generalizing r with
  | nil => exact ⟨rfl, rfl, rfl, rfl, rfl⟩
  | cons d ds ih => exact ih (r.fill d.1 d.2.1 d.2.2.1)

theorem orLanes_get (ds : List (Nat × Val × List SWrite × LaneEnd)) (h32 : ∀ d ∈ ds, d.1 < 32) (m : W32) (i : Nat) :
    (ds.foldl (fun (m : W32) x => m ||| laneBit x.1) m).getLsbD i = (m.getLsbD i || decide (i ∈ ds.map (·.1))) := by
  induction ds generalizing m with
  | nil => simp
  | cons d ds ih =>
    rw [List.foldl_cons, ih (fun x hx => h32 x (by simp [hx])), BitVec.getLsbD_or, laneBit_get (h32 d (by simp))]
    by_cases e : i = d.1
    · simp [e]
    · simp only [e, decide_false, Bool.or_false, List.map_cons, List.mem_cons, false_or]

theorem donesFor_exec {g exec : W32} (e : Effect) (sub : ∀ i, g.getLsbD i = true → exec.getLsbD i = true) :
    (donesFor g exec e).foldl (fun (m : W32) x => m ||| laneBit x.1) 0 = exec := by
  apply BitVec.eq_of_getLsbD_eq
  intro i hi
  rw [orLanes_get _ (fun d hd => ((donesFor_lanes e sub d.1).1 (List.mem_map.2 ⟨d, hd, rfl⟩)).1)]
  have := donesFor_lanes e sub i
  cases hx : exec.getLsbD i
  · have : ¬ i ∈ (donesFor g exec e).map (·.1) := by rw [this]; simp [hx]
    simp [this]
  · have : i ∈ (donesFor g exec e).map (·.1) := by rw [this]; exact ⟨hi, hx⟩
    simp [this]

/-- WHAT FINISHING A MEMBER DOES when every lane completes it (R41, R42, R97). -/
theorem State.finishMember_completed (s0 s : State) (h : Here) (v : View) (long : Bool) (g : W32) (e : Effect) (f : Flight)
    (hf : s.flight? h.c h.fid = some f) (hfin : ∀ l, (e.fin l).goesOn = true) (hg : g ≠ 0)
    (sub : ∀ i, g.getLsbD i = true → h.r.exec.getLsbD i = true) :
    ∃ f', s0.finishMember s h v long (outsFor g e) = (s.setFlight h.c h.fid f').clearFailed ∧ Completed h.r g long e f f' := by
  have hd : (donesOf (outsFor g e).lanes ++
      ((lanesOf h.r.exec).filter fun l => !((outsFor g e).lanes.any fun x => x.lane == l)).map fun l => (l, Val.zero, [], LaneEnd.next)) =
      donesFor g h.r.exec e := by
    rw [outsFor_dones, outsFor_idle]
    rfl
  have hne := donesFor_ne_nil (exec := h.r.exec) hg e
  cases hl : h.r.isLast
  · -- an earlier member
    have hx := donesFor_exec e sub
    have hx0 : h.r.exec ≠ 0 := by
      intro z
      apply hg
      apply BitVec.eq_of_getLsbD_eq
      intro i _
      cases hi : g.getLsbD i
      · simp
      · have := sub i hi
        simp [z] at this
    obtain ⟨r1, r2⟩ := Run.fillLanes _ (donesFor_nodup g h.r.exec e) h.r
    obtain ⟨q1, q2, -⟩ := Run.fillLanes_frame (donesFor g h.r.exec e) h.r
    let own := if long then pendsOf (donesFor g h.r.exec e) e.once else []
    let keep (l : Nat) : Bool := (donesFor g h.r.exec e).any fun x => x.1 == l
    let r' : Run := { (donesFor g h.r.exec e).foldl (fun (r : Run) x => r.fill x.1 x.2.1 x.2.2.1) h.r with
      exec := h.r.exec, pos := h.r.pos + 1, fstaged := h.r.fstaged ++ e.once, pend := h.r.pendKept keep true ++ own }
    obtain ⟨a1, a2, a3⟩ := f.pendAll_keeps false (h.r.pendGone keep true)
    obtain ⟨b1, b2, b3⟩ := (f.pendAll false (h.r.pendGone keep true)).pendAll_keeps true own
    have k := a2.trans b2
    refine ⟨{ (f.pendAll false (h.r.pendGone keep true)).pendAll true own with run := some r' }, ?_, ?_⟩
    · unfold State.finishMember
      have hb : (h.r.exec != 0) = true := by simpa using hx0
      simp only [hf, hd, outsFor_traps, hl, hx, hx0, hb, if_false, Bool.false_eq_true]
      simp [State.trapOrder, anyOverlap, State.laneTraps, Acc.bind, outsFor, r', own, keep]
    · have hc : commitsLate h.r g long e = false := by simp [commitsLate, hl]
      refine ⟨fun x => ?_, fun c => ?_, fun c => ?_, fun _ => ⟨r', rfl, rfl, rfl, rfl, fun l hx h32 => ?_⟩, k.thread, fun l _ => ?_, k.same⟩
      · rw [Flight.holds_run, b1, a1, if_neg (by simp [hl])]
      · rw [hl] at c
        cases c
      · rw [hc] at c
        cases c
      · obtain ⟨d, hd, rfl⟩ := List.mem_map.1 ((donesFor_lanes e sub l).2 ⟨h32, hx⟩)
        obtain ⟨a, b, c⟩ := r1 d hd
        refine ⟨a.trans ?_, b, c.trans ?_⟩ <;>
        · simp only [donesFor, List.mem_append, List.mem_map, List.mem_filter] at hd
          rcases hd with ⟨l, hl, rfl⟩ | ⟨l, ⟨-, hl⟩, rfl⟩
          · simp [laneWrites, (mem_lanesOf.1 hl).2]
          · have : g.getLsbD l = false := by simpa using hl
            simp [laneWrites, this]
      · exact ⟨(b3.1 l).1.trans (a3.1 l).1, (b3.1 l).2.trans (a3.1 l).2⟩
  · refine ⟨_, ?_, Flight.finishRun_completed f h.r g long e (s.clock + v.hnt.stall.toNat) (v.hnt.yld || f.yielded) hl hfin hg sub⟩
    unfold State.finishMember
    simp only [hf, hd, outsFor_traps, hl, if_true, hne, if_false]
    have h1 := donesFor_plain g h.r.exec e hfin (fun x => x.2.2.2.entry.map fun code => (x.1, code))
      (fun a b c n hn => by cases n <;> first | rfl | exact absurd hn (by simp [LaneEnd.goesOn]))
    have h2 := donesFor_plain g h.r.exec e hfin (fun x => if x.2.2.2 = LaneEnd.exit then some x.1 else none)
      (fun a b c n hn => by cases n <;> first | rfl | exact absurd hn (by simp [LaneEnd.goesOn]))
    simp only [h1, h2]
    simp [State.trapOrder, anyOverlap, State.laneTraps, Acc.bind, outsFor]

end Sys2Proof.Machine
end

