-- ==== Sys2Proof/Laws/Alu.lean ====
section
/-!
SUPPORT. Sys2Proof/Laws/Alu.lean: a member that passes its checks and whose body answers a result for every lane completes (`Ready.completes`), and the
instructions that compute on registers alone complete with the writes of their results (`Ready.alu_completes`).
-/
namespace Sys2Proof.Machine

open Sys2Proof

/-- What the cursor names when it names a member. -/
theorem State.here?_eq {s : State} {h : Here} (e : s.here? = some h) :
    s.cur.engine = false ∧ s.flight? h.c h.fid = some h.f ∧ h.f.run = some h.r ∧ h.c = s.cur.core ∧ h.fid = s.cur.fid := by
  unfold State.here? at e
  split at e
  · exact absurd e (by simp)
  · rename_i he
    split at e
    · exact absurd e (by simp)
    · rename_i f hf
      split at e
      · exact absurd e (by simp)
      · rename_i r hr
        simp only [Option.some.injEq] at e
        subst e
        exact ⟨by simpa using he, hf, hr, rfl, rfl⟩

theorem outsFor_again (g : W32) (e : Effect) (hf : ∀ l, (e.fin l).goesOn = true) : ((outsFor g e).lanes.any fun y => y.fin == .again) = false := by
  simp only [outsFor, List.any_map, List.any_eq_false]
  intro l _
  have := hf l
  cases hx : e.fin l <;> simp_all [LaneEnd.goesOn, Function.comp]

/-- What the shared path of a flight instruction is once the checks of R47 pass. -/
theorem Ready.member_eq {s : State} {h : Here} {i : Instr} {v : View} {o : OpSpec} (rd : Ready s h i v o) (m : Mode)
    (hp : m.priv = true → isPrivileged h.f.ctx = true) (ho : m.once = true → guardMask v.grd h.r = h.r.exec)
    (body : Here → W32 → State → Acc Outs) :
    s.flightInstr v o m body = .next (match body h (guardMask v.grd h.r) s with
      | .ok s' x => if x.lanes.any (fun y => y.fin == .again) then s'.keepRun h else s.finishMember s' h v m.long x
      | .bad _ _ => s.blocked h .held
      | .wait n => s.blocked h n) := by
  obtain ⟨place, form, legal, flight, latches, alone, enabled, uniform, allotted⟩ := rd
  have hc := State.here?_eq place
  have h1 : (!o.legal v || o.engine || !latchOk v o h.r.pos || (h.r.pos != 0 && v.hnt.run != 0) || (m.priv && !isPrivileged h.f.ctx)) = false := by
    have h2 : (h.r.pos != 0 && v.hnt.run != 0) = false := by
      rcases alone with a | a <;> simp [a]
    have h3 : (m.priv && !isPrivileged h.f.ctx) = false := by
      cases hm : m.priv
      · rfl
      · simp [hp hm]
    rw [h2, h3, legal, flight, latches]
    rfl
  have h4 : ((o.wide || m.once || o.isScalar v) && guardMask v.grd h.r != h.r.exec) = false := by
    cases hm : m.once
    · cases hu : (o.wide || o.isScalar v)
      · simp_all
      · simp [uniform hu]
    · simp [ho hm]
  unfold State.flightInstr
  rw [if_neg (by simp [hc.1]), place]
  simp only
  unfold State.member
  rw [if_neg (by rw [h1]; decide)]
  simp only [enabled, if_false, h4, Bool.false_eq_true, allotted]
  all_goals rfl

/-- A member whose body answers a result for every lane whose guard is true completes. -/
theorem Ready.completes {s : State} {h : Here} {i : Instr} {v : View} {o : OpSpec} (rd : Ready s h i v o) (m : Mode)
    (hp : m.priv = true → isPrivileged h.f.ctx = true) (ho : m.once = true → guardMask v.grd h.r = h.r.exec)
    (body : Here → W32 → State → Acc Outs) (s' : State) (e : Effect) (f : Flight)
    (hfin : ∀ l, (e.fin l).goesOn = true) (hb : body h (guardMask v.grd h.r) s = .ok s' (outsFor (guardMask v.grd h.r) e)) (hf : s'.flight? h.c h.fid = some f) :
    ∃ f', s.flightInstr v o m body = .next (s'.setFlight h.c h.fid f').clearFailed ∧ Completed h.r (guardMask v.grd h.r) m.long e f f' := by
  obtain ⟨f', h1, h2⟩ := State.finishMember_completed s s' h v m.long (guardMask v.grd h.r) e f hf hfin rd.enabled fun i hi => guardMask_exec hi
  refine ⟨f', ?_, h2⟩
  rw [rd.member_eq m hp ho body, hb]
  simp only [outsFor_again _ _ hfin, Bool.false_eq_true, if_false, h1]

theorem widen_zero (x : W32) : x.setWidth 64 = 0#64 ↔ x = 0#32 := by
  constructor
  · intro h
    apply BitVec.eq_of_toNat_eq
    have := congrArg BitVec.toNat h
    rw [BitVec.toNat_setWidth, Nat.mod_eq_of_lt (by omega)] at this
    simpa using this
  · rintro rfl
    rfl

/-- The result of write_dst without poison. -/
theorem writeDst_clean (d : Dst) (wide : Bool) (y : W64) : writeDst d wide y none = .done (resultLatch d wide y) (resultWrites d wide y) := by
  unfold writeDst resultWrites resultLatch
  cases hn : d.n
  · cases hc : d.cls <;> cases wide <;> simp [latchOf, hc, Val.of64, Val.lo, Val.hi, widen_zero]
    all_goals split <;> simp_all
  · simp

/-- A result for each lane, or one for the flight. -/
theorem laneOuts_eq (scalar : Bool) (g : W32) (d : Dst) (wide : Bool) (y : Nat → W64) (f : Nat → LaneRes)
    (hg : g ≠ 0) (hf : ∀ l, l < 32 → g.getLsbD l = true → f l = .done (resultLatch d wide (y l)) (resultWrites d wide (y l))) :
    laneOuts scalar g f = outsFor g (resultEffect scalar g d wide y) := by
  have hl : ∀ l ∈ lanesOf g, f l = .done (resultLatch d wide (y l)) (resultWrites d wide (y l)) := fun l h =>
    hf l (mem_lanesOf.1 h).1 (mem_lanesOf.1 h).2
  unfold laneOuts resultEffect outsFor
  cases scalar
  · simp only [Bool.false_eq_true, if_false, Outs.mk.injEq, and_true]
    exact List.map_congr_left fun l h => by rw [hl l h]
  · simp only [if_true]
    have hne := lanesOf_ne_nil hg
    have hm : (lanesOf g).headD 0 ∈ lanesOf g := by
      cases hx : lanesOf g with
      | nil => exact absurd hx hne
      | cons a xs => simp
    rw [hl _ hm]

/-- An operand of an encoding that is no I-form does not depend on the reading of immediates. -/
theorem State.readB_src {s : State} {c : Nat} {f : Flight} {r : Run} {l : Nat} {v : View} {wide : Bool} (flt : Option Rnd) (hv : v.isI = false) :
    s.readB c f r l v wide flt = s.readB c f r l v wide none := by
  unfold State.readB
  cases hb : v.sb
  · rfl
  · simp [View.isI, hb] at hv

theorem firstPoison_none {o : OpSpec} {v : View} {a b c : Val} (ha : o.sa.classes ≠ [] → a.psn = false)
    (hb : o.sb.classes ≠ [] → v.isI = false → b.psn = false) (hc : o.sc.classes ≠ [] → c.psn = false) : firstPoison o v a b c = none := by
  unfold firstPoison
  rw [if_neg, if_neg, if_neg]
  · rintro ⟨h1, h2⟩
    rw [hc h1] at h2
    exact absurd h2 (by decide)
  · rintro ⟨⟨h1, h3⟩, h2⟩
    rw [hb h1 h3] at h2
    exact absurd h2 (by decide)
  · rintro ⟨h1, h2⟩
    rw [ha h1] at h2
    exact absurd h2 (by decide)

theorem resultOf_fin (h : Here) (v : View) (o : OpSpec) (y : Nat → W64) (l : Nat) : ((resultOf h v o y).fin l).goesOn = true := by
  unfold resultOf resultEffect
  split <;> rfl

/-- AN INSTRUCTION THAT COMPUTES ON REGISTERS ALONE completes with the writes of its results, when its operands are not poisoned and its operation answers
a value in each lane. -/
theorem Ready.alu_completes {s : State} {h : Here} {i : Instr} {v : View} {o : OpSpec} (rd : Ready s h i v o) (cl : Clean s h v o) (flt : Option Rnd)
    (long : Bool) (op : Val → Val → Val → ARes) (y : Nat → W64)
    (hop : ∀ l, l < 32 → (guardMask v.grd h.r).getLsbD l = true → op (operandA s h v o l) (operandB s h v o flt l) (operandC s h v o l) = .val (y l))
    (he : exec i s = s.alu v o flt long op) : Completes i s h v long (resultOf h v o y) := by
  have hc := State.here?_eq rd.place
  have hb : laneOuts (o.isScalar v) (guardMask v.grd h.r) (s.aluLane h v o flt op) = outsFor (guardMask v.grd h.r) (resultOf h v o y) := by
    refine laneOuts_eq _ _ _ _ _ _ rd.enabled fun l hl hg => ?_
    have hcl := cl l hl hg
    have h1 := hop l hl hg
    simp only [operandA, operandB, operandC] at h1 hcl
    unfold State.aluLane
    simp only [h1]
    rw [firstPoison_none hcl.1 (fun h2 h3 => ?_) hcl.2.2, writeDst_clean]
    rw [State.readB_src flt h3]
    exact hcl.2.1 h2 h3
  obtain ⟨f', h1, h2⟩ := rd.completes { long := long } (by simp) (by simp)
    (fun h g s => .ok s (laneOuts (o.isScalar v) g (s.aluLane h v o flt op))) s (resultOf h v o y) h.f (resultOf_fin h v o y) (by simp only [hb]) hc.2.1
  exact ⟨f', he.trans h1, h2⟩

/-- The same for an operation that hands one of its sources on, or copies it. -/
theorem Ready.alu_completes_one {s : State} {h : Here} {i : Instr} {v : View} {o : OpSpec} (rd : Ready s h i v o) (flt : Option Rnd)
    (long : Bool) (op : Val → Val → Val → ARes) (y : Nat → Val) (hy : ∀ l, l < 32 → (guardMask v.grd h.r).getLsbD l = true → (y l).psn = false)
    (hop : ∀ l, l < 32 → (guardMask v.grd h.r).getLsbD l = true →
      op (operandA s h v o l) (operandB s h v o flt l) (operandC s h v o l) = .one (y l))
    (he : exec i s = s.alu v o flt long op) : Completes i s h v long (resultOf h v o fun l => (y l).bits) := by
  have hc := State.here?_eq rd.place
  have hb : laneOuts (o.isScalar v) (guardMask v.grd h.r) (s.aluLane h v o flt op) =
      outsFor (guardMask v.grd h.r) (resultOf h v o fun l => (y l).bits) := by
    refine laneOuts_eq _ _ _ _ _ _ rd.enabled fun l hl hg => ?_
    have h1 := hop l hl hg
    simp only [operandA, operandB, operandC] at h1
    unfold State.aluLane
    simp only [h1, hy l hl hg, Bool.false_eq_true, if_false, writeDst_clean]
  obtain ⟨f', h1, h2⟩ := rd.completes { long := long } (by simp) (by simp)
    (fun h g s => .ok s (laneOuts (o.isScalar v) g (s.aluLane h v o flt op))) s (resultOf h v o fun l => (y l).bits) h.f (resultOf_fin h v o _) (by simp only [hb]) hc.2.1
  exact ⟨f', he.trans h1, h2⟩

end Sys2Proof.Machine
end

