-- ==== Sys2Proof/Laws/PerInstr.lean ====
section
/-!
SUPPORT. Sys2Proof/Laws/PerInstr.lean: the family Encode: the opcode that an instruction is encoded with names that instruction again in the table of
opcodes, one lemma per constructor.
-/
namespace Sys2Proof.Laws

open Sys2Proof

set_option maxRecDepth 8000
set_option linter.unusedSimpArgs false

/-- What is legal has the type, the modifiers and the options that its encoding accepts. -/
theorem legal_ok {o : OpSpec} {v : View} (h : o.legal v = true) : o.ok = true := by
  unfold OpSpec.legal at h
  split at h <;> simp only [Bool.and_eq_true] at h <;> simp_all only

/-- Options below bit n leave bit 7 clear. -/
theorem optBelow_bit7 (v : View) (n : Nat) (hn : n ≤ 7) (h : v.optBelow n = true) : v.opt.getLsbD 7 = false := by
  have h : v.opt.toNat < 2 ^ n := by simpa [View.optBelow] using h
  have h2 : v.opt.toNat < 2 ^ 7 := Nat.lt_of_lt_of_le h (Nat.pow_le_pow_right (by decide) hn)
  simp only [BitVec.getLsbD]
  exact Nat.testBit_lt_two_pow h2

/-- The opcode of a well-formed instruction names it in the table of its form. -/
def Encode.Statement (i : Instr) : Prop :=
  i.wf = true → match i.form with
    | .reg opc a _ => opc < 1024 ∧ (findOpc opc regTable).map (fun f => f a) = some i
    | .imm opc a _ => opc < 1024 ∧ findOpc opc regTable = none ∧ (findOpc opc immTable).map (fun f => f a) = some i
    | .event => True

theorem Encode.add (a : Args) : Encode.Statement (.add a) := fun _ => ⟨by decide, rfl⟩
theorem Encode.addI (a : ArgsI) : Encode.Statement (.addI a) := fun _ => ⟨by decide, rfl, rfl⟩
theorem Encode.sub (a : Args) : Encode.Statement (.sub a) := fun _ => ⟨by decide, rfl⟩
theorem Encode.subI (a : ArgsI) : Encode.Statement (.subI a) := fun _ => ⟨by decide, rfl, rfl⟩
theorem Encode.mul (a : Args) : Encode.Statement (.mul a) := fun _ => ⟨by decide, rfl⟩
theorem Encode.mulI (a : ArgsI) : Encode.Statement (.mulI a) := fun _ => ⟨by decide, rfl, rfl⟩
theorem Encode.mulhi (a : Args) : Encode.Statement (.mulhi a) := fun _ => ⟨by decide, rfl⟩
theorem Encode.mad (a : Args) : Encode.Statement (.mad a) := fun _ => ⟨by decide, rfl⟩
theorem Encode.neg (a : Args) : Encode.Statement (.neg a) := fun _ => ⟨by decide, rfl⟩
theorem Encode.abs (a : Args) : Encode.Statement (.abs a) := fun _ => ⟨by decide, rfl⟩
theorem Encode.min (a : Args) : Encode.Statement (.min a) := fun _ => ⟨by decide, rfl⟩
theorem Encode.minI (a : ArgsI) : Encode.Statement (.minI a) := fun _ => ⟨by decide, rfl, rfl⟩
theorem Encode.max (a : Args) : Encode.Statement (.max a) := fun _ => ⟨by decide, rfl⟩
theorem Encode.maxI (a : ArgsI) : Encode.Statement (.maxI a) := fun _ => ⟨by decide, rfl, rfl⟩
theorem Encode.div (a : Args) : Encode.Statement (.div a) := fun _ => ⟨by decide, rfl⟩
theorem Encode.rem (a : Args) : Encode.Statement (.rem a) := fun _ => ⟨by decide, rfl⟩
theorem Encode.and (a : Args) : Encode.Statement (.and a) := fun _ => ⟨by decide, rfl⟩
theorem Encode.andI (a : ArgsI) : Encode.Statement (.andI a) := fun _ => ⟨by decide, rfl, rfl⟩
theorem Encode.or (a : Args) : Encode.Statement (.or a) := fun _ => ⟨by decide, rfl⟩
theorem Encode.orI (a : ArgsI) : Encode.Statement (.orI a) := fun _ => ⟨by decide, rfl, rfl⟩
theorem Encode.xor (a : Args) : Encode.Statement (.xor a) := fun _ => ⟨by decide, rfl⟩
theorem Encode.xorI (a : ArgsI) : Encode.Statement (.xorI a) := fun _ => ⟨by decide, rfl, rfl⟩
theorem Encode.not (a : Args) : Encode.Statement (.not a) := fun _ => ⟨by decide, rfl⟩
theorem Encode.andn (a : Args) : Encode.Statement (.andn a) := fun _ => ⟨by decide, rfl⟩
theorem Encode.andnI (a : ArgsI) : Encode.Statement (.andnI a) := fun _ => ⟨by decide, rfl, rfl⟩
theorem Encode.shl (a : Args) : Encode.Statement (.shl a) := fun _ => ⟨by decide, rfl⟩
theorem Encode.shlI (a : ArgsI) : Encode.Statement (.shlI a) := fun _ => ⟨by decide, rfl, rfl⟩
theorem Encode.shr (a : Args) : Encode.Statement (.shr a) := fun _ => ⟨by decide, rfl⟩
theorem Encode.shrI (a : ArgsI) : Encode.Statement (.shrI a) := fun _ => ⟨by decide, rfl, rfl⟩
theorem Encode.sar (a : Args) : Encode.Statement (.sar a) := fun _ => ⟨by decide, rfl⟩
theorem Encode.sarI (a : ArgsI) : Encode.Statement (.sarI a) := fun _ => ⟨by decide, rfl, rfl⟩
theorem Encode.rol (a : Args) : Encode.Statement (.rol a) := fun _ => ⟨by decide, rfl⟩
theorem Encode.rolI (a : ArgsI) : Encode.Statement (.rolI a) := fun _ => ⟨by decide, rfl, rfl⟩
theorem Encode.bfx (a : Args) : Encode.Statement (.bfx a) := fun _ => ⟨by decide, rfl⟩
theorem Encode.bfi (a : Args) : Encode.Statement (.bfi a) := fun _ => ⟨by decide, rfl⟩
theorem Encode.popc (a : Args) : Encode.Statement (.popc a) := fun _ => ⟨by decide, rfl⟩
theorem Encode.clz (a : Args) : Encode.Statement (.clz a) := fun _ => ⟨by decide, rfl⟩
theorem Encode.brev (a : Args) : Encode.Statement (.brev a) := fun _ => ⟨by decide, rfl⟩
theorem Encode.sel (a : Args) : Encode.Statement (.sel a) := fun _ => ⟨by decide, rfl⟩
theorem Encode.cmp (a : Args) : Encode.Statement (.cmp a) := fun _ => ⟨by decide, rfl⟩
theorem Encode.cmpI (a : ArgsI) : Encode.Statement (.cmpI a) := fun _ => ⟨by decide, rfl, rfl⟩
theorem Encode.plop (a : Args) : Encode.Statement (.plop a) := fun _ => ⟨by decide, rfl⟩
theorem Encode.mov (a : Args) : Encode.Statement (.mov a) := fun _ => ⟨by decide, rfl⟩
theorem Encode.movi (a : ArgsI) : Encode.Statement (.movi a) := fun _ => ⟨by decide, rfl, rfl⟩
theorem Encode.lea (a : Args) : Encode.Statement (.lea a) := fun _ => ⟨by decide, rfl⟩
theorem Encode.leaI (a : ArgsI) : Encode.Statement (.leaI a) := fun _ => ⟨by decide, rfl, rfl⟩
theorem Encode.icvt (a : Args) : Encode.Statement (.icvt a) := fun _ => ⟨by decide, rfl⟩
theorem Encode.fadd (a : Args) : Encode.Statement (.fadd a) := fun _ => ⟨by decide, rfl⟩
theorem Encode.faddI (a : ArgsI) : Encode.Statement (.faddI a) := fun _ => ⟨by decide, rfl, rfl⟩
theorem Encode.fsub (a : Args) : Encode.Statement (.fsub a) := fun _ => ⟨by decide, rfl⟩
theorem Encode.fsubI (a : ArgsI) : Encode.Statement (.fsubI a) := fun _ => ⟨by decide, rfl, rfl⟩
theorem Encode.fmul (a : Args) : Encode.Statement (.fmul a) := fun _ => ⟨by decide, rfl⟩
theorem Encode.fmulI (a : ArgsI) : Encode.Statement (.fmulI a) := fun _ => ⟨by decide, rfl, rfl⟩
theorem Encode.ffma (a : Args) : Encode.Statement (.ffma a) := fun _ => ⟨by decide, rfl⟩
theorem Encode.fmin (a : Args) : Encode.Statement (.fmin a) := fun _ => ⟨by decide, rfl⟩
theorem Encode.fminI (a : ArgsI) : Encode.Statement (.fminI a) := fun _ => ⟨by decide, rfl, rfl⟩
theorem Encode.fmax (a : Args) : Encode.Statement (.fmax a) := fun _ => ⟨by decide, rfl⟩
theorem Encode.fmaxI (a : ArgsI) : Encode.Statement (.fmaxI a) := fun _ => ⟨by decide, rfl, rfl⟩
theorem Encode.fcmp (a : Args) : Encode.Statement (.fcmp a) := fun _ => ⟨by decide, rfl⟩
theorem Encode.fcmpI (a : ArgsI) : Encode.Statement (.fcmpI a) := fun _ => ⟨by decide, rfl, rfl⟩
theorem Encode.fclass (a : Args) : Encode.Statement (.fclass a) := fun _ => ⟨by decide, rfl⟩
theorem Encode.frcp (a : Args) : Encode.Statement (.frcp a) := fun _ => ⟨by decide, rfl⟩
theorem Encode.frsq (a : Args) : Encode.Statement (.frsq a) := fun _ => ⟨by decide, rfl⟩
theorem Encode.fsqrt (a : Args) : Encode.Statement (.fsqrt a) := fun _ => ⟨by decide, rfl⟩
theorem Encode.fex2 (a : Args) : Encode.Statement (.fex2 a) := fun _ => ⟨by decide, rfl⟩
theorem Encode.flg2 (a : Args) : Encode.Statement (.flg2 a) := fun _ => ⟨by decide, rfl⟩
theorem Encode.fsin (a : Args) : Encode.Statement (.fsin a) := fun _ => ⟨by decide, rfl⟩
theorem Encode.fcos (a : Args) : Encode.Statement (.fcos a) := fun _ => ⟨by decide, rfl⟩
theorem Encode.fcvt (a : Args) : Encode.Statement (.fcvt a) := fun _ => ⟨by decide, rfl⟩
theorem Encode.f2i (a : Args) : Encode.Statement (.f2i a) := fun _ => ⟨by decide, rfl⟩
theorem Encode.i2f (a : Args) : Encode.Statement (.i2f a) := fun _ => ⟨by decide, rfl⟩
theorem Encode.frnd (a : Args) : Encode.Statement (.frnd a) := fun _ => ⟨by decide, rfl⟩
theorem Encode.fscl (a : Args) : Encode.Statement (.fscl a) := fun _ => ⟨by decide, rfl⟩
theorem Encode.hvadd (a : Args) : Encode.Statement (.hvadd a) := fun _ => ⟨by decide, rfl⟩
theorem Encode.hvmul (a : Args) : Encode.Statement (.hvmul a) := fun _ => ⟨by decide, rfl⟩
theorem Encode.hvfma (a : Args) : Encode.Statement (.hvfma a) := fun _ => ⟨by decide, rfl⟩
theorem Encode.hvmin (a : Args) : Encode.Statement (.hvmin a) := fun _ => ⟨by decide, rfl⟩
theorem Encode.hvmax (a : Args) : Encode.Statement (.hvmax a) := fun _ => ⟨by decide, rfl⟩
theorem Encode.dp8 (a : Args) : Encode.Statement (.dp8 a) := fun _ => ⟨by decide, rfl⟩
theorem Encode.dp4 (a : Args) : Encode.Statement (.dp4 a) := fun _ => ⟨by decide, rfl⟩
theorem Encode.fdp8 (a : Args) : Encode.Statement (.fdp8 a) := fun _ => ⟨by decide, rfl⟩
theorem Encode.fdp4 (a : Args) : Encode.Statement (.fdp4 a) := fun _ => ⟨by decide, rfl⟩
theorem Encode.pack (a : Args) : Encode.Statement (.pack a) := fun _ => ⟨by decide, rfl⟩
theorem Encode.unpk (a : Args) : Encode.Statement (.unpk a) := fun _ => ⟨by decide, rfl⟩
theorem Encode.xscl (a : Args) : Encode.Statement (.xscl a) := fun _ => ⟨by decide, rfl⟩
theorem Encode.xacc (a : Args) : Encode.Statement (.xacc a) := fun _ => ⟨by decide, rfl⟩
theorem Encode.xadd (a : Args) : Encode.Statement (.xadd a) := fun _ => ⟨by decide, rfl⟩
theorem Encode.xrnd (a : Args) : Encode.Statement (.xrnd a) := fun _ => ⟨by decide, rfl⟩
theorem Encode.xclr (a : Args) : Encode.Statement (.xclr a) := fun _ => ⟨by decide, rfl⟩
theorem Encode.bra (a : ArgsI) : Encode.Statement (.bra a) := fun _ => ⟨by decide, rfl, rfl⟩
theorem Encode.brx (a : Args) : Encode.Statement (.brx a) := fun _ => ⟨by decide, rfl⟩
theorem Encode.call (a : ArgsI) : Encode.Statement (.call a) := fun _ => ⟨by decide, rfl, rfl⟩
theorem Encode.callx (a : Args) : Encode.Statement (.callx a) := fun _ => ⟨by decide, rfl⟩
theorem Encode.ret (a : Args) : Encode.Statement (.ret a) := fun _ => ⟨by decide, rfl⟩
theorem Encode.exit (a : Args) : Encode.Statement (.exit a) := fun _ => ⟨by decide, rfl⟩
theorem Encode.trap (a : Args) : Encode.Statement (.trap a) := fun _ => ⟨by decide, rfl⟩
theorem Encode.rtt (a : Args) : Encode.Statement (.rtt a) := fun _ => ⟨by decide, rfl⟩
theorem Encode.yield (a : Args) : Encode.Statement (.yield a) := fun _ => ⟨by decide, rfl⟩
theorem Encode.sleep (a : Args) : Encode.Statement (.sleep a) := fun _ => ⟨by decide, rfl⟩
theorem Encode.bkpt (a : Args) : Encode.Statement (.bkpt a) := fun _ => ⟨by decide, rfl⟩
theorem Encode.nop (a : Args) : Encode.Statement (.nop a) := fun _ => ⟨by decide, rfl⟩
theorem Encode.eadd (a : Args) : Encode.Statement (.eadd a) := fun _ => ⟨by decide, rfl⟩
theorem Encode.eaddI (a : ArgsI) : Encode.Statement (.eaddI a) := fun _ => ⟨by decide, rfl, rfl⟩
theorem Encode.esub (a : Args) : Encode.Statement (.esub a) := fun _ => ⟨by decide, rfl⟩
theorem Encode.esubI (a : ArgsI) : Encode.Statement (.esubI a) := fun _ => ⟨by decide, rfl, rfl⟩
theorem Encode.emul (a : Args) : Encode.Statement (.emul a) := fun _ => ⟨by decide, rfl⟩
theorem Encode.eand (a : Args) : Encode.Statement (.eand a) := fun _ => ⟨by decide, rfl⟩
theorem Encode.eandI (a : ArgsI) : Encode.Statement (.eandI a) := fun _ => ⟨by decide, rfl, rfl⟩
theorem Encode.eor (a : Args) : Encode.Statement (.eor a) := fun _ => ⟨by decide, rfl⟩
theorem Encode.eorI (a : ArgsI) : Encode.Statement (.eorI a) := fun _ => ⟨by decide, rfl, rfl⟩
theorem Encode.exor (a : Args) : Encode.Statement (.exor a) := fun _ => ⟨by decide, rfl⟩
theorem Encode.exorI (a : ArgsI) : Encode.Statement (.exorI a) := fun _ => ⟨by decide, rfl, rfl⟩
theorem Encode.eshl (a : Args) : Encode.Statement (.eshl a) := fun _ => ⟨by decide, rfl⟩
theorem Encode.eshlI (a : ArgsI) : Encode.Statement (.eshlI a) := fun _ => ⟨by decide, rfl, rfl⟩
theorem Encode.eshr (a : Args) : Encode.Statement (.eshr a) := fun _ => ⟨by decide, rfl⟩
theorem Encode.eshrI (a : ArgsI) : Encode.Statement (.eshrI a) := fun _ => ⟨by decide, rfl, rfl⟩
theorem Encode.ecmp (a : Args) : Encode.Statement (.ecmp a) := fun _ => ⟨by decide, rfl⟩
theorem Encode.ecmpI (a : ArgsI) : Encode.Statement (.ecmpI a) := fun _ => ⟨by decide, rfl, rfl⟩
theorem Encode.emov (a : Args) : Encode.Statement (.emov a) := fun _ => ⟨by decide, rfl⟩
theorem Encode.emovi (a : ArgsI) : Encode.Statement (.emovi a) := fun _ => ⟨by decide, rfl, rfl⟩
theorem Encode.ebr (a : Args) : Encode.Statement (.ebr a) := fun _ => ⟨by decide, rfl⟩
theorem Encode.ebrI (a : ArgsI) : Encode.Statement (.ebrI a) := fun _ => ⟨by decide, rfl, rfl⟩
theorem Encode.ejmp (a : Args) : Encode.Statement (.ejmp a) := fun _ => ⟨by decide, rfl⟩
theorem Encode.ejmpI (a : ArgsI) : Encode.Statement (.ejmpI a) := fun _ => ⟨by decide, rfl, rfl⟩
theorem Encode.eloop (a : Args) : Encode.Statement (.eloop a) := fun _ => ⟨by decide, rfl⟩
theorem Encode.eloopI (a : ArgsI) : Encode.Statement (.eloopI a) := fun _ => ⟨by decide, rfl, rfl⟩
theorem Encode.eld (a : Args) : Encode.Statement (.eld a) := fun _ => ⟨by decide, rfl⟩
theorem Encode.eldI (a : ArgsI) : Encode.Statement (.eldI a) := fun _ => ⟨by decide, rfl, rfl⟩
theorem Encode.est (a : Args) : Encode.Statement (.est a) := fun _ => ⟨by decide, rfl⟩
theorem Encode.wsetLd (a : Args) : Encode.Statement (.wsetLd a) := fun h => by
  have h : (specWsetLd a.view).ok = true := legal_ok h
  simp only [specWsetLd, eng, lastW, last, sys, View.plain, Args.view, Bool.and_eq_true, beq_iff_eq, decide_eq_true_eq] at h
  refine ⟨by decide, ?_⟩
  simp [regTable, findOpc, h]
theorem Encode.wset (a : Args) : Encode.Statement (.wset a) := fun h => by
  have h : (specWset a.view).ok = true := legal_ok h
  simp only [specWset, eng, lastW, last, sys, View.plain, Args.view, Bool.and_eq_true, beq_iff_eq, decide_eq_true_eq] at h
  refine ⟨by decide, ?_⟩
  simp [regTable, findOpc, h]
  intro h0
  simp [h0] at h
theorem Encode.wstep (a : Args) : Encode.Statement (.wstep a) := fun _ => ⟨by decide, rfl⟩
theorem Encode.tcopy (a : Args) : Encode.Statement (.tcopy a) := fun _ => ⟨by decide, rfl⟩
theorem Encode.texp (a : Args) : Encode.Statement (.texp a) := fun _ => ⟨by decide, rfl⟩
theorem Encode.tpack (a : Args) : Encode.Statement (.tpack a) := fun _ => ⟨by decide, rfl⟩
theorem Encode.tgath (a : Args) : Encode.Statement (.tgath a) := fun _ => ⟨by decide, rfl⟩
theorem Encode.tscat (a : Args) : Encode.Statement (.tscat a) := fun _ => ⟨by decide, rfl⟩
theorem Encode.treg (a : Args) : Encode.Statement (.treg a) := fun _ => ⟨by decide, rfl⟩
theorem Encode.ecbadd (a : Args) : Encode.Statement (.ecbadd a) := fun _ => ⟨by decide, rfl⟩
theorem Encode.ecbwait (a : Args) : Encode.Statement (.ecbwait a) := fun _ => ⟨by decide, rfl⟩
theorem Encode.efence (a : Args) : Encode.Statement (.efence a) := fun _ => ⟨by decide, rfl⟩
theorem Encode.eend (a : Args) : Encode.Statement (.eend a) := fun _ => ⟨by decide, rfl⟩
theorem Encode.ld (a : Args) : Encode.Statement (.ld a) := fun _ => ⟨by decide, rfl⟩
theorem Encode.ldI (a : ArgsI) : Encode.Statement (.ldI a) := fun _ => ⟨by decide, rfl, rfl⟩
theorem Encode.st (a : Args) : Encode.Statement (.st a) := fun _ => ⟨by decide, rfl⟩
theorem Encode.lds (a : Args) : Encode.Statement (.lds a) := fun _ => ⟨by decide, rfl⟩
theorem Encode.ldsI (a : ArgsI) : Encode.Statement (.ldsI a) := fun _ => ⟨by decide, rfl, rfl⟩
theorem Encode.sts (a : Args) : Encode.Statement (.sts a) := fun _ => ⟨by decide, rfl⟩
theorem Encode.ldc (a : Args) : Encode.Statement (.ldc a) := fun _ => ⟨by decide, rfl⟩
theorem Encode.ldcI (a : ArgsI) : Encode.Statement (.ldcI a) := fun _ => ⟨by decide, rfl, rfl⟩
theorem Encode.ldt (a : Args) : Encode.Statement (.ldt a) := fun _ => ⟨by decide, rfl⟩
theorem Encode.atom (a : Args) : Encode.Statement (.atom a) := fun _ => ⟨by decide, rfl⟩
theorem Encode.atoms (a : Args) : Encode.Statement (.atoms a) := fun _ => ⟨by decide, rfl⟩
theorem Encode.red (a : Args) : Encode.Statement (.red a) := fun _ => ⟨by decide, rfl⟩
theorem Encode.fence (a : Args) : Encode.Statement (.fence a) := fun _ => ⟨by decide, rfl⟩
theorem Encode.cwb (a : Args) : Encode.Statement (.cwb a) := fun _ => ⟨by decide, rfl⟩
theorem Encode.cinv (a : Args) : Encode.Statement (.cinv a) := fun _ => ⟨by decide, rfl⟩
theorem Encode.cdisc (a : Args) : Encode.Statement (.cdisc a) := fun _ => ⟨by decide, rfl⟩
theorem Encode.pref (a : Args) : Encode.Statement (.pref a) := fun _ => ⟨by decide, rfl⟩
theorem Encode.prefI (a : ArgsI) : Encode.Statement (.prefI a) := fun _ => ⟨by decide, rfl, rfl⟩
theorem Encode.monw (a : Args) : Encode.Statement (.monw a) := fun _ => ⟨by decide, rfl⟩
theorem Encode.rst (a : Args) : Encode.Statement (.rst a) := fun _ => ⟨by decide, rfl⟩
theorem Encode.wcfl (a : Args) : Encode.Statement (.wcfl a) := fun _ => ⟨by decide, rfl⟩
theorem Encode.ptst (a : Args) : Encode.Statement (.ptst a) := fun _ => ⟨by decide, rfl⟩
theorem Encode.replay (a : Args) : Encode.Statement (.replay a) := fun _ => ⟨by decide, rfl⟩
theorem Encode.vote (a : Args) : Encode.Statement (.vote a) := fun _ => ⟨by decide, rfl⟩
theorem Encode.shfl (a : Args) : Encode.Statement (.shfl a) := fun _ => ⟨by decide, rfl⟩
theorem Encode.matchV (a : Args) : Encode.Statement (.matchV a) := fun _ => ⟨by decide, rfl⟩
theorem Encode.fredux (a : Args) : Encode.Statement (.fredux a) := fun _ => ⟨by decide, rfl⟩
theorem Encode.kmov (a : Args) : Encode.Statement (.kmov a) := fun _ => ⟨by decide, rfl⟩
theorem Encode.kmovI (a : ArgsI) : Encode.Statement (.kmovI a) := fun _ => ⟨by decide, rfl, rfl⟩
theorem Encode.klop (a : Args) : Encode.Statement (.klop a) := fun _ => ⟨by decide, rfl⟩
theorem Encode.kpopc (a : Args) : Encode.Statement (.kpopc a) := fun _ => ⟨by decide, rfl⟩
theorem Encode.kfind (a : Args) : Encode.Statement (.kfind a) := fun _ => ⟨by decide, rfl⟩
theorem Encode.rcv (a : Args) : Encode.Statement (.rcv a) := fun _ => ⟨by decide, rfl⟩
theorem Encode.alloc (a : Args) : Encode.Statement (.alloc a) := fun _ => ⟨by decide, rfl⟩
theorem Encode.free (a : Args) : Encode.Statement (.free a) := fun _ => ⟨by decide, rfl⟩
theorem Encode.bar (a : Args) : Encode.Statement (.bar a) := fun _ => ⟨by decide, rfl⟩
theorem Encode.cbarm (a : Args) : Encode.Statement (.cbarm a) := fun _ => ⟨by decide, rfl⟩
theorem Encode.cbarmI (a : ArgsI) : Encode.Statement (.cbarmI a) := fun _ => ⟨by decide, rfl, rfl⟩
theorem Encode.cbadd (a : Args) : Encode.Statement (.cbadd a) := fun _ => ⟨by decide, rfl⟩
theorem Encode.cbaddI (a : ArgsI) : Encode.Statement (.cbaddI a) := fun _ => ⟨by decide, rfl, rfl⟩
theorem Encode.cbwait (a : Args) : Encode.Statement (.cbwait a) := fun _ => ⟨by decide, rfl⟩
theorem Encode.cbacq (a : Args) : Encode.Statement (.cbacq a) := fun _ => ⟨by decide, rfl⟩
theorem Encode.cbread (a : Args) : Encode.Statement (.cbread a) := fun _ => ⟨by decide, rfl⟩
theorem Encode.cbar (a : Args) : Encode.Statement (.cbar a) := fun _ => ⟨by decide, rfl⟩
theorem Encode.mxacq (a : Args) : Encode.Statement (.mxacq a) := fun _ => ⟨by decide, rfl⟩
theorem Encode.mxrel (a : Args) : Encode.Statement (.mxrel a) := fun _ => ⟨by decide, rfl⟩
theorem Encode.mma (a : Args) : Encode.Statement (.mma a) := fun _ => ⟨by decide, rfl⟩
theorem Encode.mmas (a : Args) : Encode.Statement (.mmas a) := fun _ => ⟨by decide, rfl⟩
theorem Encode.mxzero (a : Args) : Encode.Statement (.mxzero a) := fun _ => ⟨by decide, rfl⟩
theorem Encode.mxldz (a : Args) : Encode.Statement (.mxldz a) := fun _ => ⟨by decide, rfl⟩
theorem Encode.mxstz (a : Args) : Encode.Statement (.mxstz a) := fun h => by
  have h : (specMxstz a.view).ok = true := legal_ok h
  simp only [specMxstz, lastW, last, Bool.and_eq_true] at h
  have hb : a.opt.getLsbD 7 = false := optBelow_bit7 a.view 4 (by decide) h.1.1.1.1.1.1.2
  refine ⟨by decide, ?_⟩
  have e : (findOpc 0x306 regTable).map (fun f => f a) = some (if a.opt.getLsbD 7 then .mxstzReg a else .mxstz a) := rfl
  rw [e, hb]
  rfl
theorem Encode.mxstzReg (a : Args) : Encode.Statement (.mxstzReg a) := fun h => by
  have h : (specMxstzReg a.view).ok = true := legal_ok h
  simp only [specMxstzReg, eng, lastW, last, sys, View.plain, Args.view, Bool.and_eq_true, beq_iff_eq, decide_eq_true_eq] at h
  refine ⟨by decide, ?_⟩
  simp [regTable, findOpc, h]
theorem Encode.mxwait (a : Args) : Encode.Statement (.mxwait a) := fun _ => ⟨by decide, rfl⟩
theorem Encode.rfork (a : Args) : Encode.Statement (.rfork a) := fun _ => ⟨by decide, rfl⟩
theorem Encode.rjoin (a : Args) : Encode.Statement (.rjoin a) := fun _ => ⟨by decide, rfl⟩
theorem Encode.rstat (a : Args) : Encode.Statement (.rstat a) := fun _ => ⟨by decide, rfl⟩
theorem Encode.pmflipH (a : Args) : Encode.Statement (.pmflipH a) := fun h => by
  have h : ((specPmflip false) a.view).ok = true := legal_ok h
  simp only [specPmflip, eng, lastW, last, sys, View.plain, Args.view, Bool.and_eq_true, beq_iff_eq, decide_eq_true_eq] at h
  refine ⟨by decide, ?_⟩
  simp [regTable, findOpc, h]
theorem Encode.pmflipD (a : Args) : Encode.Statement (.pmflipD a) := fun h => by
  have h : ((specPmflip true) a.view).ok = true := legal_ok h
  simp only [specPmflip, eng, lastW, last, sys, View.plain, Args.view, Bool.and_eq_true, beq_iff_eq, decide_eq_true_eq] at h
  refine ⟨by decide, ?_⟩
  simp [regTable, findOpc, h]
theorem Encode.cgload (a : Args) : Encode.Statement (.cgload a) := fun h => by
  have h : ((specCgload false) a.view).ok = true := legal_ok h
  simp only [specCgload, eng, lastW, last, sys, View.plain, Args.view, Bool.and_eq_true, beq_iff_eq, decide_eq_true_eq] at h
  refine ⟨by decide, ?_⟩
  simp [regTable, findOpc, h]
theorem Encode.cgloadFree (a : Args) : Encode.Statement (.cgloadFree a) := fun h => by
  have h : ((specCgload true) a.view).ok = true := legal_ok h
  simp only [specCgload, eng, lastW, last, sys, View.plain, Args.view, Bool.and_eq_true, beq_iff_eq, decide_eq_true_eq] at h
  refine ⟨by decide, ?_⟩
  simp [regTable, findOpc, h]
theorem Encode.cgrun (a : Args) : Encode.Statement (.cgrun a) := fun _ => ⟨by decide, rfl⟩
theorem Encode.tship (a : Args) : Encode.Statement (.tship a) := fun _ => ⟨by decide, rfl⟩
theorem Encode.tsreg (a : Args) : Encode.Statement (.tsreg a) := fun _ => ⟨by decide, rfl⟩
theorem Encode.csrr (a : Args) : Encode.Statement (.csrr a) := fun _ => ⟨by decide, rfl⟩
theorem Encode.csrw (a : Args) : Encode.Statement (.csrw a) := fun _ => ⟨by decide, rfl⟩
theorem Encode.tlbinv (a : Args) : Encode.Statement (.tlbinv a) := fun _ => ⟨by decide, rfl⟩
theorem Encode.lqpop (a : Args) : Encode.Statement (.lqpop a) := fun _ => ⟨by decide, rfl⟩
theorem Encode.lqdone (a : Args) : Encode.Statement (.lqdone a) := fun _ => ⟨by decide, rfl⟩
theorem Encode.ctxsave (a : Args) : Encode.Statement (.ctxsave a) := fun h => by
  have h : (specCtxsave a.view).ok = true := legal_ok h
  simp only [specCtxsave, eng, lastW, last, sys, View.plain, Args.view, Bool.and_eq_true, beq_iff_eq, decide_eq_true_eq] at h
  refine ⟨by decide, ?_⟩
  simp [regTable, findOpc, h]
theorem Encode.ctxsaveDrop (a : Args) : Encode.Statement (.ctxsaveDrop a) := fun h => by
  have h : (specCtxsaveDrop a.view).ok = true := legal_ok h
  simp only [specCtxsaveDrop, eng, lastW, last, sys, View.plain, Args.view, Bool.and_eq_true, beq_iff_eq, decide_eq_true_eq] at h
  refine ⟨by decide, ?_⟩
  simp [regTable, findOpc, h]
theorem Encode.ctxload (a : Args) : Encode.Statement (.ctxload a) := fun h => by
  have h : (specCtxload a.view).ok = true := legal_ok h
  simp only [specCtxload, eng, lastW, last, sys, View.plain, Args.view, Bool.and_eq_true, beq_iff_eq, decide_eq_true_eq] at h
  refine ⟨by decide, ?_⟩
  simp [regTable, findOpc, h]
theorem Encode.ctxloadRes (a : Args) : Encode.Statement (.ctxloadRes a) := fun h => by
  have h : (specCtxloadRes a.view).ok = true := legal_ok h
  simp only [specCtxloadRes, eng, lastW, last, sys, View.plain, Args.view, Bool.and_eq_true, beq_iff_eq, decide_eq_true_eq] at h
  refine ⟨by decide, ?_⟩
  simp [regTable, findOpc, h]
theorem Encode.tgpost (a : Args) : Encode.Statement (.tgpost a) := fun _ => ⟨by decide, rfl⟩
theorem Encode.tgdone (a : Args) : Encode.Statement (.tgdone a) := fun _ => ⟨by decide, rfl⟩
theorem Encode.unallocatedOpcode (word : BitVec 96) : Encode.Statement (.unallocatedOpcode word) := fun _ => True.intro
theorem Encode.loadLanding (core fid id : Nat) : Encode.Statement (.loadLanding core fid id) := fun _ => True.intro
theorem Encode.longOpComplete (core fid id : Nat) : Encode.Statement (.longOpComplete core fid id) := fun _ => True.intro
theorem Encode.storeFailure (i : Nat) : Encode.Statement (.storeFailure i) := fun _ => True.intro
theorem Encode.sleepExpiry (core fid lane : Nat) : Encode.Statement (.sleepExpiry core fid lane) := fun _ => True.intro
theorem Encode.monwWake (core fid lane : Nat) : Encode.Statement (.monwWake core fid lane) := fun _ => True.intro
theorem Encode.monwTimeout (core fid lane : Nat) : Encode.Statement (.monwTimeout core fid lane) := fun _ => True.intro
theorem Encode.flightOverdue (core fid : Nat) : Encode.Statement (.flightOverdue core fid) := fun _ => True.intro
theorem Encode.threadAged (core fid lane : Nat) : Encode.Statement (.threadAged core fid lane) := fun _ => True.intro
theorem Encode.blockAdmit (launch : Nat) : Encode.Statement (.blockAdmit launch) := fun _ => True.intro
theorem Encode.allocGrant (core : Nat) : Encode.Statement (.allocGrant core) := fun _ => True.intro
theorem Encode.scratchpadRelease (core block : Nat) : Encode.Statement (.scratchpadRelease core block) := fun _ => True.intro
theorem Encode.remoteArrival (core cb ctx launch : Nat) (amount : BitVec 32) : Encode.Statement (.remoteArrival core cb ctx launch amount) := fun _ => True.intro
theorem Encode.arrivalRetry (i : Nat) : Encode.Statement (.arrivalRetry i) := fun _ => True.intro
theorem Encode.pressGrant (core : Nat) : Encode.Statement (.pressGrant core) := fun _ => True.intro
theorem Encode.pairClaimGrant (core : Nat) : Encode.Statement (.pairClaimGrant core) := fun _ => True.intro
theorem Encode.pressInstrPerform (core : Nat) : Encode.Statement (.pressInstrPerform core) := fun _ => True.intro
theorem Encode.pressRegLanding (core : Nat) : Encode.Statement (.pressRegLanding core) := fun _ => True.intro
theorem Encode.pieceLand (core eng slot k : Nat) : Encode.Statement (.pieceLand core eng slot k) := fun _ => True.intro
theorem Encode.wcbDrainTimeout (core i : Nat) : Encode.Statement (.wcbDrainTimeout core i) := fun _ => True.intro
theorem Encode.launchComplete (launch : Nat) : Encode.Statement (.launchComplete launch) := fun _ => True.intro
theorem Encode.nodeDispatch (part : Nat) : Encode.Statement (.nodeDispatch part) := fun _ => True.intro
theorem Encode.rootProgramStart (part : Nat) : Encode.Statement (.rootProgramStart part) := fun _ => True.intro
theorem Encode.sliceExpiry (part : Nat) : Encode.Statement (.sliceExpiry part) := fun _ => True.intro
theorem Encode.eventSlotFreed (ring : Nat) : Encode.Statement (.eventSlotFreed ring) := fun _ => True.intro
theorem Encode.eventRingRetry (ring : Nat) : Encode.Statement (.eventRingRetry ring) := fun _ => True.intro
theorem Encode.partSet (index : Nat) (arg : BitVec 512) : Encode.Statement (.partSet index arg) := fun _ => True.intro
theorem Encode.vfSet (index : Nat) (arg : BitVec 512) : Encode.Statement (.vfSet index arg) := fun _ => True.intro
theorem Encode.extAdd (index : Nat) (arg : BitVec 512) : Encode.Statement (.extAdd index arg) := fun _ => True.intro
theorem Encode.extDel (index : Nat) (arg : BitVec 512) : Encode.Statement (.extDel index arg) := fun _ => True.intro
theorem Encode.pfEvtSet (arg : BitVec 512) : Encode.Statement (.pfEvtSet arg) := fun _ => True.intro
theorem Encode.ctxKill (index : Nat) : Encode.Statement (.ctxKill index) := fun _ => True.intro
theorem Encode.mailboxUnknownCode (func code index : Nat) : Encode.Statement (.mailboxUnknownCode func code index) := fun _ => True.intro
theorem Encode.ctxOpen (vf : Nat) : Encode.Statement (.ctxOpen vf) := fun _ => True.intro
theorem Encode.ctxClose (vf index : Nat) : Encode.Statement (.ctxClose vf index) := fun _ => True.intro
theorem Encode.vfEvtSet (vf : Nat) (arg : BitVec 512) : Encode.Statement (.vfEvtSet vf arg) := fun _ => True.intro
theorem Encode.wayMaskWrite (vf : Nat) (mask : BitVec 32) : Encode.Statement (.wayMaskWrite vf mask) := fun _ => True.intro
theorem Encode.vfLqpop (vf : Nat) : Encode.Statement (.vfLqpop vf) := fun _ => True.intro
theorem Encode.vfLqdone (vf : Nat) (handle : BitVec 64) : Encode.Statement (.vfLqdone vf handle) := fun _ => True.intro
theorem Encode.vfLqrfs (vf : Nat) (handle : BitVec 64) : Encode.Statement (.vfLqrfs vf handle) := fun _ => True.intro
theorem Encode.coreSramWrite (core : Nat) (value : BitVec 64) : Encode.Statement (.coreSramWrite core value) := fun _ => True.intro
theorem Encode.ctxTranslationWrite (ctx reg : Nat) (value : BitVec 64) : Encode.Statement (.ctxTranslationWrite ctx reg value) := fun _ => True.intro
theorem Encode.dieRetireWrite (die : Nat) (value : BitVec 64) : Encode.Statement (.dieRetireWrite die value) := fun _ => True.intro
theorem Encode.dieGovWrite (die : Nat) (value : BitVec 64) : Encode.Statement (.dieGovWrite die value) := fun _ => True.intro
theorem Encode.registerWrite (reg : RegRef) (value : BitVec 64) : Encode.Statement (.registerWrite reg value) := fun _ => True.intro
theorem Encode.hostMemrd (port : Nat) (addr : BitVec 64) (mv : MetaValue) : Encode.Statement (.hostMemrd port addr mv) := fun _ => True.intro
theorem Encode.hostMemwr (port : Nat) (addr : BitVec 64) (data : BitVec 512) (mask : BitVec 64) (mv : MetaValue) (poison : Bool) : Encode.Statement (.hostMemwr port addr data mask mv poison) := fun _ => True.intro
theorem Encode.hostMeminv (port : Nat) (addr : BitVec 64) (mv : MetaValue) : Encode.Statement (.hostMeminv port addr mv) := fun _ => True.intro
theorem Encode.bisnpResponse (i : Nat) (data : BitVec 512) (mask : BitVec 64) : Encode.Statement (.bisnpResponse i data mask) := fun _ => True.intro
theorem Encode.bisnpTimeout (i : Nat) : Encode.Statement (.bisnpTimeout i) := fun _ => True.intro
theorem Encode.snpinv (req : SnpReq) : Encode.Statement (.snpinv req) := fun _ => True.intro
theorem Encode.snpdata (req : SnpReq) : Encode.Statement (.snpdata req) := fun _ => True.intro
theorem Encode.snpcur (req : SnpReq) : Encode.Statement (.snpcur req) := fun _ => True.intro
theorem Encode.cxlCacheResponse (i port : Nat) (data : BitVec 512) (poison : Bool) : Encode.Statement (.cxlCacheResponse i port data poison) := fun _ => True.intro
theorem Encode.viralReceived (port : PortRef) : Encode.Statement (.viralReceived port) := fun _ => True.intro
theorem Encode.linkDown (port : PortRef) : Encode.Statement (.linkDown port) := fun _ => True.intro
theorem Encode.linkTrain (port : PortRef) (peer : BitVec 16) (lanes : Nat) (slow ide : Bool) : Encode.Statement (.linkTrain port peer lanes slow ide) := fun _ => True.intro
theorem Encode.laneFail (port : PortRef) : Encode.Statement (.laneFail port) := fun _ => True.intro
theorem Encode.laneRetrainDone (port : PortRef) : Encode.Statement (.laneRetrainDone port) := fun _ => True.intro
theorem Encode.peerRequestTimeout (i : Nat) : Encode.Statement (.peerRequestTimeout i) := fun _ => True.intro
theorem Encode.holdNoticeTimer (i : Nat) : Encode.Statement (.holdNoticeTimer i) := fun _ => True.intro
theorem Encode.holdNotice (i : Nat) : Encode.Statement (.holdNotice i) := fun _ => True.intro
theorem Encode.poolMemRequest (req : MemReq) : Encode.Statement (.poolMemRequest req) := fun _ => True.intro
theorem Encode.addDynamicCapacity (func index : Nat) (arg : BitVec 512) (tag : Nat) : Encode.Statement (.addDynamicCapacity func index arg tag) := fun _ => True.intro
theorem Encode.releaseDynamicCapacity (func index : Nat) : Encode.Statement (.releaseDynamicCapacity func index) := fun _ => True.intro
theorem Encode.vatContribution (port : Nat) (pkg : BitVec 16) (func : Nat) (key : VatKey) (fmt ncon nfet count : Nat) (vals : List (BitVec 32)) : Encode.Statement (.vatContribution port pkg func key fmt ncon nfet count vals) := fun _ => True.intro
theorem Encode.vatFetch (pkg : BitVec 16) (func : Nat) (key : VatKey) (fmt : Nat) : Encode.Statement (.vatFetch pkg func key fmt) := fun _ => True.intro
theorem Encode.vatAbort (pkg : BitVec 16) (func : Nat) (key : VatKey) : Encode.Statement (.vatAbort pkg func key) := fun _ => True.intro
theorem Encode.vatAbortExpiry (i : Nat) : Encode.Statement (.vatAbortExpiry i) := fun _ => True.intro
theorem Encode.contribRetry (die slot op : Nat) (res : FabRes) : Encode.Statement (.contribRetry die slot op res) := fun _ => True.intro
theorem Encode.cgOpComplete (die slot op : Nat) (res : FabRes) : Encode.Statement (.cgOpComplete die slot op res) := fun _ => True.intro
theorem Encode.cgTimeout (die slot op : Nat) : Encode.Statement (.cgTimeout die slot op) := fun _ => True.intro
theorem Encode.sendpSector (ends : PodEnds) (addr : BitVec 64) (data : BitVec 512) (poison : Bool) (cbv : Bool) (cb core ctx launch : Nat) : Encode.Statement (.sendpSector ends addr data poison cbv cb core ctx launch) := fun _ => True.intro
theorem Encode.taskPacketReceive (link : Nat) (pkg : BitVec 16) (ctx : Nat) (func : Nat) (handle : BitVec 64) (desc : BitVec 512) (args : List (BitVec 32)) (seq : Nat) (tag : BitVec 256) : Encode.Statement (.taskPacketReceive link pkg ctx func handle desc args seq tag) := fun _ => True.intro
theorem Encode.taskPacketComplete (i : Nat) (code : Nat) : Encode.Statement (.taskPacketComplete i code) := fun _ => True.intro
theorem Encode.coreLost (core : Nat) : Encode.Statement (.coreLost core) := fun _ => True.intro
theorem Encode.uncorrectableError (site : ErrSite) : Encode.Statement (.uncorrectableError site) := fun _ => True.intro
theorem Encode.rowRemap (chan row : Nat) : Encode.Statement (.rowRemap chan row) := fun _ => True.intro
theorem Encode.governorStep (die : Nat) (power : BitVec 16) : Encode.Statement (.governorStep die power) := fun _ => True.intro
theorem Encode.reset (build : Build) (image : Option (List (BitVec 8))) (cfg : CfgRecord) : Encode.Statement (.reset build image cfg) := fun _ => True.intro
theorem Encode.recoveryImagePush (push : ImagePush) : Encode.Statement (.recoveryImagePush push) := fun _ => True.intro
theorem Encode.engineLoadLanding (core eng : Nat) : Encode.Statement (.engineLoadLanding core eng) := fun _ => True.intro
theorem Encode.hdmDecoderCommit (hb : BitVec 64) : Encode.Statement (.hdmDecoderCommit hb) := fun _ => True.intro
theorem Encode.peerMemRequest (req : MemReq) : Encode.Statement (.peerMemRequest req) := fun _ => True.intro
theorem Encode.taskImageReceive (link : Nat) (pkg : BitVec 16) (func : Nat) (image : List (BitVec 8)) : Encode.Statement (.taskImageReceive link pkg func image) := fun _ => True.intro
theorem Encode.doeRequest (req : DoeReq) : Encode.Statement (.doeRequest req) := fun _ => True.intro
theorem Encode.biconflict (i : Nat) : Encode.Statement (.biconflict i) := fun _ => True.intro

end Sys2Proof.Laws
end

