-- ==== Sys2Proof/Tests/Slice0.lean ====
section
/-!
SUPPORT. Sys2Proof/Tests/Slice0.lean: tests of decoding and of the checks on encodings, states that meet the premises of the obligations, and single steps whose
results are the worked cases of the spec.
-/
namespace Sys2Proof.Tests

open Sys2Proof Sys2Proof.Machine

set_option Elab.async false

-- ---------------------------------------------------------------------------------------------
-- Small states

/-- A state in which a run that starts with `i` has issued in the threads `ex` of the placed flight: what the next member finds. -/
def rigN (i : Instr) (n : Nat) (f : Flight → Flight) (g : State → State) (ex : W32) : State :=
  let s := State.reset.placeWord (encode i)
  let fl := f { placedFlight with ctx := (f placedFlight).ctx }
  let fl := { fl with run := some (fl.newRun ex 0x1000 (encode i :: List.replicate n 0)) }
  let k := s.core 0
  g { s with cores := s.cores.set 0 { k with flights := .single 0 fl }, cur := ⟨0, 0, false⟩, turns := [] }

/-- A run of the one member `i` in all 32 threads, with `f` applied to the flight and `g` to the state. -/
def rig (i : Instr) (f : Flight → Flight := id) (g : State → State := id) : State := rigN i 0 f g (BitVec.allOnes 32)

/-- The same in thread 0 alone. -/
def rig1 (i : Instr) (f : Flight → Flight := id) (g : State → State := id) : State := rigN i 0 f g 1

def hereOf (s : State) : Here := s.here?.getD ⟨0, 0, placedFlight, placedFlight.newRun 0 0 []⟩
def viewOf (i : Instr) : View := ((i.view?).map (·.1)).getD default
def specOf (i : Instr) : OpSpec := ((i.view?).map (·.2)).getD default

def readyB (s : State) (i : Instr) : Bool :=
  let h := hereOf s
  let v := viewOf i
  let o := specOf i
  let form := o.legal v && (!o.engine && latchOk v o h.r.pos)
  let whole := guardMask v.grd h.r == h.r.exec
  s.here?.isSome && (i.view?.isSome && (form && ((h.r.pos == 0 || v.hnt.run == 0) && (guardMask v.grd h.r != 0 && ((!(o.wide || o.isScalar v) || whole) && (overAllot o v h.f.allot).isNone)))))

theorem ready_of {s : State} {i : Instr} (e : readyB s i = true) : Ready s (hereOf s) i (viewOf i) (specOf i) := by
  simp only [readyB, Bool.and_eq_true, Option.isSome_iff_exists, Bool.or_eq_true, Bool.not_eq_true', bne_iff_ne, beq_iff_eq, Option.isNone_iff_eq_none] at e
  obtain ⟨⟨h, hh⟩, ⟨⟨v, o⟩, hv⟩, ⟨legal, thread, latch⟩, first, guard, whole, allot⟩ := e
  have a : hereOf s = h := by simp [hereOf, hh]
  have b : viewOf i = v := by simp [viewOf, hv]
  have c : specOf i = o := by simp [specOf, hv]
  refine ⟨by rw [a]; exact hh, by rw [b, c]; exact hv, legal, thread, latch, first, guard, fun x => ?_, allot⟩
  rw [x] at whole
  exact whole.resolve_left (by simp)

def cleanB (s : State) (i : Instr) : Bool :=
  let h := hereOf s
  let v := viewOf i
  let o := specOf i
  (List.range 32).all fun l => !(guardMask v.grd h.r).getLsbD l ||
    ((o.sa.classes == [] || !(operandA s h v o l).psn) && (o.sb.classes == [] || v.isI || !(operandB s h v o none l).psn) &&
      (o.sc.classes == [] || !(operandC s h v o l).psn))

theorem clean_of {s : State} {i : Instr} (e : cleanB s i = true) : Clean s (hereOf s) (viewOf i) (specOf i) := by
  intro l hl hg
  have := List.all_eq_true.mp e l (List.mem_range.mpr hl)
  simp only [hg, Bool.not_true, Bool.false_or, Bool.and_eq_true, Bool.or_eq_true, beq_iff_eq, Bool.not_eq_true'] at this
  obtain ⟨⟨a, b⟩, c⟩ := this
  refine ⟨fun n => a.resolve_left n, fun n m => ?_, fun n => c.resolve_left n⟩
  rcases b with (b | b) | b
  · exact absurd b n
  · simp [m] at b
  · exact b

/-- The premises of most statements: `i` stands at the cursor of `s` and passes the checks, with no poisoned operand. -/
def Meets (s : State) (i : Instr) : Prop :=
  Ready s (hereOf s) i (viewOf i) (specOf i) ∧ Clean s (hereOf s) (viewOf i) (specOf i)

theorem meets_of {s : State} {i : Instr} (e : (readyB s i && cleanB s i) = true) : Meets s i := by
  rw [Bool.and_eq_true] at e
  exact ⟨ready_of e.1, clean_of e.2⟩

theorem all_meet {l : List Instr} {r : Instr → State} (e : (l.all fun i => readyB (r i) i && cleanB (r i) i) = true) : ∀ i, i ∈ l → Meets (r i) i :=
  fun i h => meets_of (List.all_eq_true.mp e i h)

-- Operand fields

def dv (n : Nat) : Dst := ⟨false, .v, BitVec.ofNat 8 n⟩
def ds (n : Nat) : Dst := ⟨false, .s, BitVec.ofNat 8 n⟩
def dk (n : Nat) : Dst := ⟨false, .k, BitVec.ofNat 8 n⟩
def dp (n : Nat) : Dst := ⟨false, .pred, BitVec.ofNat 8 n⟩
def no : Dst := Dst.zero
def z0 : Src := Src.zero
def k_ (n : Nat) : Src := ⟨.k, BitVec.ofNat 9 n⟩
def p_ (n : Nat) : Src := ⟨.pred, BitVec.ofNat 9 n⟩
def l_ (n : Nat) : Src := ⟨.latch, BitVec.ofNat 9 n⟩
def y_ (n : Nat) : Src := ⟨.sys, BitVec.ofNat 9 n⟩
def v_ (n : Nat) : Src := Spec.v n
def s_ (n : Nat) : Src := Spec.s n
def i_ (n : Nat) : Src := Spec.imm n

/-- A register form with v destination 1 and sources v2, v4 and v6, as far as it has them. -/
def a1 (ty : Ty) (z opt : Nat) : Args := Spec.args (dv 1) (v_ 2) z0 z0 ty z opt
def a2 (ty : Ty) (z opt : Nat) : Args := Spec.args (dv 1) (v_ 2) (v_ 4) z0 ty z opt
def a3 (ty : Ty) (z opt : Nat) : Args := Spec.args (dv 1) (v_ 2) (v_ 4) (v_ 6) ty z opt
def a0 (ty : Ty) (z opt : Nat) : Args := Spec.args no z0 z0 z0 ty z opt
/-- An I-form with v destination 1 and source v2. -/
def ai (imm : BitVec 32) (ty : Ty) (z : Nat) : ArgsI := Spec.argsI 7 (dv 1) (v_ 2) imm ty z

-- Registers of the placed flight

/-- v register r of every thread l holds x l. -/
def vAll (r : Nat) (x : Nat → W32) (psn : Bool := false) (f : Flight) : Flight :=
  { f with threads := f.threads.mapV fun l t => { t with v := t.v.set r ⟨x l, psn, false⟩ } }
def vs (ws : List (Nat × W32)) (f : Flight) : Flight := ws.foldl (fun f w => vAll w.1 (fun _ => w.2) false f) f
def ss (ws : List (Nat × W64)) (f : Flight) : Flight := { f with s := ws.foldl (fun m w => m.set w.1 w.2) f.s }
def ks (ws : List (Nat × W32)) (f : Flight) : Flight := { f with k := ws.foldl (fun m w => m.set w.1 w.2) f.k }
def ps (x : Nat → BitVec 7) (f : Flight) : Flight := { f with threads := f.threads.mapV fun l t => { t with preds := x l } }

-- Results

/-- The next state, or the state after reset where there is none. -/
def nextOf (o : Host.Outcome State Fault Refusal) : State :=
  match o with
  | .next s => s
  | _ => State.reset

/-- The state after `i`, with the results that land later landed. -/
def after (i : Instr) (s : State) : State :=
  let s := nextOf (exec i s)
  nextOf (exec (.loadLanding 0 0 0) (nextOf (exec (.longOpComplete 0 0 0) s)))

/-- The flight after `i` has run in thread 0, with the v registers given. -/
def ran (i : Instr) (ws : List (Nat × W32)) : Flight := ((after i (rig1 i (vs ws))).flight? 0 0).getD Flight.fresh

/-- v register r of lane l. -/
def rd (f : Flight) (l r : Nat) : W32 := ((f.thread l).vreg r).val

-- Programs, memory, scratchpad, the press and engine threads

def fl (s : State) : Flight := (s.flight? 0 0).getD Flight.fresh
/-- The state after `i` in thread 0, and in all threads. -/
def go (i : Instr) (f : Flight → Flight := id) (g : State → State := id) : State := after i (rig1 i f g)
def goAll (i : Instr) (f : Flight → Flight := id) (g : State → State := id) : State := after i (rig i f g)
/-- n bytes of memory of function 0, as read at their home. -/
def mem (s : State) (a n : Nat) : Nat := ((List.range n).map fun k => ((Spec.byteAt s 0 (a + k)).getD 0).toNat * 256 ^ k).sum
/-- Bytes stored beforehand. -/
def put (a : Nat) (bs : List Nat) (s : State) : State := { s with mem := setCells a (bs.map (BitVec.ofNat 8)) s.mem, written := (List.range ((a + bs.length + 63) / 64 - a / 64)).foldl (fun w k => w.set (a / 64 + k) 0) s.written }
/-- A word placed at an address. -/
def code (a : Nat) (i : Instr) (s : State) : State :=
  let bs := bytesOfWord (encode i)
  { s with mem := setCells a bs s.mem, written := (s.written.set (a / 64) 0).set ((a + 11) / 64) 0 }
def spad (w : Nat) (x : SpWord) (s : State) : State :=
  match s.block? 0 0 with
  | some b => s.setBlock 0 0 { b with spad := b.spad.set w x }
  | none => s
def spw (s : State) (w : Nat) : SpWord := ((s.block? 0 0).getD placedBlock).word w
/-- Depth, trap cause, trap address and pc of a thread. -/
def trapOf (s : State) (l : Nat) : Nat × Nat × Nat × Nat :=
  let t := (fl s).thread l
  (t.depth, t.trapcause.toNat, t.trapaddr.toNat, t.pc.toNat)
def pcOf (s : State) (l : Nat) : Nat := ((fl s).thread l).pc.toNat
def land' (a : Args) : Args := { a with hnt := ⟨0, 0, false, true⟩ }
def jump (imm : BitVec 32) : ArgsI := Spec.argsI 7 no z0 imm .none 0
def trapped (f : Flight) : Flight := { f with threads := f.threads.mapV fun _ t => { t with depth := 1, sp := 0x7FFE0, trapcause := 0x303, entering := none } }
/-- LDT.N8 and LDT.F4 (chapter on memory, worked case 2). -/
def ldtSpad (s : State) : State :=
  (List.range 4).foldl (fun s r => (List.range 4).foldl (fun s c => spad (0x80 + 16 * r + c)
    ⟨BitVec.ofNat 32 ((16 * r + 4 * c) + (16 * r + 4 * c + 1) * 2 ^ 8 + (16 * r + 4 * c + 2) * 2 ^ 16 + (16 * r + 4 * c + 3) * 2 ^ 24), false⟩ s) s) s
def bank (ws : List (Nat × W32)) (s : State) : State :=
  { s with launches := s.launches.set 0 { placedLaunch with cbank := ws.foldl (fun m w => m.set w.1 w.2) .empty } }
/-- MONW hands on a value that differs and holds the thread otherwise (R181); the page must be of the coherent class. -/
def coherent (s : State) : State := { put 0x12000 [0x3D] s with exts := s.exts.set 0 ⟨true, true, true, 0, 0, 0x4000, 0, 0, 0, 0⟩ }
def monw : Instr := .monw (Spec.args (dv 1) (s_ 2) (v_ 4) (i_ 0) .b32 4 0)
def owned (s : State) : State := s.setPress 0 { Press.reset with owner := some 0 }
/-- The cell of the chapter on the press, worked case 2: 0.25 and the products 48, 3 and -6 give 45.25. -/
def mxSpad (s : State) : State :=
  let row (w code scale : Nat) (s : State) : State := spad w ⟨BitVec.ofNat 32 code, false⟩ (spad (w + 1) ⟨0, false⟩ (spad (w + 2) ⟨0, false⟩ (spad (w + 3) ⟨0, false⟩
    (spad (w + 64) ⟨7, false⟩ (spad (w + 80) ⟨BitVec.ofNat 32 scale, false⟩ s)))))
  row 0 0xB17 130 (row 0x1000 0x456 125 s)
def rack (i : Instr) (f : Eng → Eng := id) (g : State → State := id) : State :=
  let s := State.reset.placeWord (encode i)
  g { s.setEng 0 0 (f (s.eng 0 0)) with cur := ⟨0, 0, true⟩, turns := [] }
def regs (ws : List (Nat × W64)) (g : Eng) : Eng := { g with e := ws.foldl (fun m w => m.set w.1 w.2) g.e }
def eng (i : Instr) (f : Eng → Eng := id) (g : State → State := id) : Eng := (nextOf (exec i (rack i f g))).eng 0 0
def e2 : Args := Spec.args (dv 1) (v_ 2) (v_ 3) z0 .none 0 0
def ei (imm : BitVec 32) : ArgsI := Spec.argsI 7 (dv 1) (v_ 2) imm .none 0
/-- A walker (R275): base, element width code, dimensions, space, extents and strides. -/
def walker (base ew ndim space : Nat) (exts strs : List Nat) : BitVec 512 :=
  let lay (at_ : Nat) (xs : List Nat) : Nat := ((List.range xs.length).map fun k => xs.getD k 0 * 2 ^ (at_ + 32 * k)).sum
  BitVec.ofNat 512 (base + lay 64 exts + lay 224 strs + ew * 2 ^ 384 + ndim * 2 ^ 387 + space * 2 ^ 390)
def walks (k : Nat) (w : BitVec 512) (g : Eng) : Eng := { g with w := g.w.set k w }
/-- TCOPY of 64 bytes to scratchpad takes slot 0 and goes on; its piece, once read and landed, leaves them there. -/
def tcopy : Instr := .tcopy (Spec.args no (s_ 1) (s_ 0) z0 .none 0 0x80)
def tcopied : State := rack tcopy (fun g => walks 1 (walker 0x100 3 1 1 [16] [4]) (walks 0 (walker 0x3000 3 1 0 [16] [4]) g)) (fun s => put 0x3000 [1, 2, 3, 4, 5] ((List.range 16).foldl (fun s k => spad (0x40 + k) ⟨0, false⟩ s) s))

-- ---------------------------------------------------------------------------------------------
-- Decoding: words written out bit by bit from R28 and R29, one or more of each family (the worked words of the spec are in Spec.worked)

/-- Group 000, ADD: the word of the chapter on the instruction word. -/
theorem test_decode_add : decodeWord (Spec.word 0x00015C00 0x00008110 0x00000600) = .ok (.add (Spec.args (dv 5) (l_ 0) (s_ 4) z0 .i32 0 0)) := by decide

/-- Group 001, FFMA (R38). -/
theorem test_decode_ffma :
    decodeWord (Spec.word 0x10028883 0x002B01C0 0x00001880) = .ok (.ffma { Spec.args (dv 10) (v_ 4) (Spec.c 7) (v_ 10) .f32 2 0 with grd := 2 }) := by decide

/-- Group 010, DP8.I32.AQ.BS v9, v4:v5, v6, v7: opcode 0x100, OPT 0x02, type 3. -/
theorem test_decode_dp8 :
    decodeWord (Spec.word 0x10025D00 0x801C0180 0x00000600) = .ok (.dp8 (Spec.args (dv 9) (v_ 4) (v_ 6) (v_ 7) .i32 0 2)) := by decide

/-- Group 010, XCLR.XA320 v16: type 20. -/
theorem test_decode_xclr : decodeWord (Spec.word 0x00041D0A 0 0x00002800) = .ok (.xclr (Spec.args (dv 16) z0 z0 z0 .xa320 0 0)) := by decide

/-- Group 011, BRA to 9 words ahead under p1, and EXIT. -/
theorem test_decode_bra : decodeWord (Spec.word 0x000005C0 0x00000240 0) = .ok (.bra (Spec.argsI 1 no z0 9 .none 0)) := by decide
theorem test_decode_exit : decodeWord (Spec.word 0x00001D85 0 0) = .ok (.exit (a0 .none 0 0)) := by decide

/-- Racking instructions: EADD e1, e2, e3. -/
theorem test_decode_eadd : decodeWord (Spec.word 0x08005DA0 0x000000C0 0) = .ok (.eadd (Spec.args (dv 1) (v_ 2) (v_ 3) z0 .none 0 0)) := by decide

/-- Group 100, LD.B32.X4 with a scope and an acquire. -/
theorem test_decode_ld :
    decodeWord (Spec.word 0x18011E00 0x40000088 0x00001308) = .ok (.ld (Spec.args (dv 4) (s_ 6) (v_ 2) z0 .b32 4 0x21)) := by decide

/-- Group 101, SHFL. -/
theorem test_decode_shfl :
    decodeWord (Spec.word 0x10015E81 0xF8838040 0x00001200) = .ok (.shfl (Spec.args (dv 5) (v_ 4) (i_ 1) (i_ 32) .b32 0 3)) := by decide

/-- Group 110, MMA, and RFORK s12, s4, s8. -/
theorem test_decode_mma :
    decodeWord (Spec.word 0x10001F02 0x38808148 0x00001840) = .ok (.mma (Spec.args no (s_ 4) (s_ 5) (i_ 32) .f32 1 0)) := by decide
theorem test_decode_rfork : decodeWord (Spec.word 0x10431F10 0x00008208 0) = .ok (.rfork (Spec.args (ds 12) (s_ 4) (s_ 8) z0 .none 0 0)) := by decide

/-- Group 111, CTXSAVE; and an opcode that is not allocated. -/
theorem test_decode_ctxsave :
    decodeWord (Spec.word 0x10429F88 0x30330108 0) = .ok (.ctxsave (Spec.args (ds 10) (s_ 4) (Spec.c 4) (Spec.c 12) .none 0 0)) := by decide
theorem test_decode_unallocated : decodeWord (Spec.word 0x00001C1F 0 0) = .ok (.unallocatedOpcode (Spec.word 0x00001C1F 0 0)) := by decide

/-- Reserved bits of HNT, a reserved type and a reserved operand are refused, each by its name (R37, R38, R49). -/
theorem test_decode_reserved_hint : decodeWord (Spec.word 0x00015C00 0x00008110 0x00400600) = .illegal .reservedHint := by decide
theorem test_decode_reserved_type : decodeWord (Spec.word 0x00015C00 0x00008110 0x00002A00) = .illegal .typeCode := by decide
theorem test_decode_operands : decodeWord (Spec.word 0x00015C00 0x00008110 0x00001800) = .illegal .operands := by decide

-- ---------------------------------------------------------------------------------------------
-- Every check on encodings refuses an ill-formed term (R32, R35 to R37, R48, R49, and each encoding table)

theorem wf_type : (Instr.add (a2 .f32 0 0)).wf = false := by decide
theorem wf_rounding_bits : (Instr.add (a2 .i32 2 0)).wf = false := by decide
theorem wf_saturation : (Instr.mulhi (a2 .i32 1 0)).wf = false := by decide
theorem wf_option : (Instr.add (a2 .i32 0 1)).wf = false := by decide
theorem wf_reserved_option : (Instr.dp8 (a3 .i32 0 3)).wf = false := by decide
theorem wf_condition : (Instr.cmp (Spec.args (dp 1) (v_ 2) (v_ 4) z0 .i32 6 0)).wf = false := by decide
theorem wf_unused_field : (Instr.neg (a2 .i32 0 0)).wf = false := by decide
theorem wf_dst_class : (Instr.cmp (a2 .i32 0 0)).wf = false := by decide
theorem wf_dst_p7 : (Instr.cmp (Spec.args (dp 7) (v_ 2) (v_ 4) z0 .i32 0 0)).wf = false := by decide
theorem wf_dst_v64 : (Instr.add (Spec.args (dv 64) (v_ 2) (v_ 4) z0 .i32 0 0)).wf = false := by decide
theorem wf_dst_pair : (Instr.add (a2 .i64 0 0)).wf = false := by decide
theorem wf_dst_k_wide : (Instr.add (Spec.args (dk 1) (s_ 2) (s_ 4) z0 .i64 0 0)).wf = false := by decide
theorem wf_src_v64 : (Instr.add (Spec.args (dv 1) (v_ 64) (v_ 4) z0 .i32 0 0)).wf = false := by decide
theorem wf_src_s64 : (Instr.add (Spec.args (dv 1) (s_ 64) (v_ 4) z0 .i32 0 0)).wf = false := by decide
theorem wf_src_latch : (Instr.add (Spec.args (dv 1) (l_ 2) (v_ 4) z0 .i32 0 0)).wf = false := by decide
theorem wf_src_predicate : (Instr.add (Spec.args (dv 1) (p_ 8) (v_ 4) z0 .i32 0 0)).wf = false := by decide
theorem wf_src_mask : (Instr.add (Spec.args (dv 1) (k_ 8) (v_ 4) z0 .i32 0 0)).wf = false := by decide
theorem wf_src_system : (Instr.add (Spec.args (dv 1) (y_ 9) (v_ 4) z0 .i32 0 0)).wf = false := by decide
theorem wf_src_constant_pair : (Instr.add (Spec.args (dv 2) (Spec.c 3) (v_ 4) z0 .i64 0 0)).wf = false := by decide
theorem wf_scalar_source : (Instr.add (Spec.args (ds 1) (v_ 2) (s_ 4) z0 .i32 0 0)).wf = false := by decide
theorem wf_accumulator_group : (Instr.xacc (Spec.args (dv 16) (v_ 18) (v_ 1) z0 .f32 0 0)).wf = false ∧
    (Instr.xacc (Spec.args (dv 56) (v_ 16) (v_ 1) z0 .f32 0 0)).wf = false := by decide
theorem wf_order_needs_scope : (Instr.ld (Spec.args (dv 4) (s_ 6) (v_ 2) z0 .b32 0 1)).wf = false := by decide
theorem wf_scope : (Instr.ld (Spec.args (dv 4) (s_ 6) (v_ 2) z0 .b32 7 0)).wf = false := by decide
theorem wf_scale_of_displacement : (Instr.ld (Spec.args (dv 4) (s_ 6) (i_ 2) z0 .b32 0 0x10)).wf = false := by decide
theorem wf_ldt_group : (Instr.ldt (Spec.args (dv 4) (v_ 2) (i_ 64) z0 .n8 0 0)).wf = false := by decide
theorem wf_atomic_type : (Instr.atom (Spec.args (dv 1) (s_ 2) (v_ 4) z0 .f32 4 0)).wf = false := by decide
theorem wf_shuffle_width : (Instr.shfl (Spec.args (dv 1) (v_ 2) (i_ 1) (i_ 3) .b32 0 0)).wf = false := by decide
theorem wf_uniform_source : (Instr.kmov (Spec.args (dk 1) (y_ 0) z0 z0 .none 0 0)).wf = false := by decide
theorem wf_barrier_ids : (Instr.bar (Spec.args no (i_ 16) z0 z0 .none 0 0)).wf = false ∧ (Instr.cbar (Spec.args no (i_ 8) z0 z0 .none 0 0)).wf = false ∧
    (Instr.rcv (Spec.args no (i_ 1) (i_ 8) z0 .none 0 0)).wf = false ∧ (Instr.cbadd (Spec.args no (i_ 64) (i_ 1) z0 .none 0 0)).wf = false := by decide
theorem wf_press_formats : (Instr.mma (Spec.args no (s_ 4) (s_ 5) (i_ 1) .f32 0 0x10)).wf = false ∧ (Instr.mma (Spec.args no (s_ 4) (s_ 5) (i_ 1) .i32 0 0)).wf = false := by
  decide
theorem wf_press_bank : (Instr.mxzero (a0 .f32 2 0)).wf = false := by decide
theorem wf_fork_registers : (Instr.rfork (Spec.args (ds 1) (s_ 2) (s_ 61) z0 .none 0 0)).wf = false := by decide
theorem wf_engine_guard : (Instr.eadd { Spec.args (dv 1) (v_ 2) (v_ 3) z0 .none 0 0 with grd := 0 }).wf = false := by decide
theorem wf_engine_hint : (Instr.eadd { Spec.args (dv 1) (v_ 2) (v_ 3) z0 .none 0 0 with hnt := ⟨0, 1, false, false⟩ }).wf = false := by decide
theorem wf_engine_registers : (Instr.eadd (Spec.args (dv 32) (v_ 2) (v_ 3) z0 .none 0 0)).wf = false ∧
    (Instr.wset (Spec.args (ds 4) (v_ 2) z0 z0 .none 0 1)).wf = false ∧ (Instr.eadd (Spec.args (dv 1) (v_ 32) (v_ 3) z0 .none 0 0)).wf = false ∧
    (Instr.ecbadd (Spec.args no (k_ 64) (i_ 1) z0 .none 0 0)).wf = false := by decide
theorem wf_engine_suppressed : (Instr.eadd (Spec.args ⟨true, .v, 1⟩ (v_ 2) (v_ 3) z0 .none 0 0)).wf = false := by decide
theorem wf_walker_field : (Instr.wset (Spec.args (ds 1) (v_ 2) z0 z0 .none 0 13)).wf = false := by decide
theorem wf_unallocated : (Instr.unallocatedOpcode (Spec.word 0x00015C00 0x00008110 0x00000600)).wf = false := by decide

-- ---------------------------------------------------------------------------------------------
-- Single steps: integer instructions (worked cases of R126 and of the chapter on arithmetic, and hand calculation from the rules cited)

/-- v1 of thread 0 after `i` in thread 0. -/
def r1 (i : Instr) (ws : List (Nat × W32)) : W32 := rd (ran i ws) 0 1
/-- v2 and v3 as one 64-bit result. -/
def r2 (i : Instr) (ws : List (Nat × W32)) : W64 := rd (ran i ws) 0 3 ++ rd (ran i ws) 0 2
/-- p1. -/
def rp (i : Instr) (ws : List (Nat × W32)) : Bool := ((ran i ws).thread 0).preds.getLsbD 1

theorem test_add_wraps : r1 (.add (a2 .i32 0 0)) [(2, 0x7FFFFFFF), (4, 1)] = 0x80000000 := by decide +kernel
/-- The table of borderline results (chapter on arithmetic, worked case 2). -/
theorem test_add_i8 : r1 (.add (a2 .i8 0 0)) [(2, 100), (4, 100)] = 0xFFFFFFC8 := by decide +kernel
theorem test_addi_n8_saturates : r1 (.addI (ai 100 .n8 1)) [(2, 200)] = 0xFF := by decide +kernel
theorem test_sub_borrow : r1 (.sub (a2 .n32 0 0)) [(2, 0), (4, 1)] = 0xFFFFFFFF := by decide +kernel
theorem test_subi_saturates : r1 (.subI (ai 1 .n32 1)) [(2, 0)] = 0 := by decide +kernel
theorem test_mul_low : r1 (.mul (a2 .i32 0 0)) [(2, 0x10000), (4, 0x10001)] = 0x10000 := by decide +kernel
theorem test_muli : r1 (.mulI (ai 0xFFFFFFFF .i32 0)) [(2, 7)] = 0xFFFFFFF9 := by decide +kernel
theorem test_mulhi_signed : r1 (.mulhi (a2 .i32 0 0)) [(2, 0xFFFFFFFF), (4, 2)] = 0xFFFFFFFF := by decide +kernel
theorem test_mulhi_unsigned : r1 (.mulhi (a2 .n32 0 0)) [(2, 0xFFFFFFFF), (4, 2)] = 1 := by decide +kernel
theorem test_mad : r1 (.mad (a3 .i32 0 0)) [(2, 7), (4, 0xFFFFFFFD), (6, 100)] = 79 := by decide +kernel
theorem test_mad_pair : r2 (.mad (Spec.args (dv 2) (v_ 4) (v_ 6) (v_ 8) .n64 0 0)) [(5, 1), (6, 3), (8, 5)] = 0x300000005 := by decide +kernel
theorem test_neg_saturates : r1 (.neg (a1 .i32 1 0)) [(2, 0x80000000)] = 0x7FFFFFFF := by decide +kernel
theorem test_abs : r1 (.abs (a1 .i32 0 0)) [(2, 0x80000000)] = 0x80000000 := by decide +kernel
theorem test_min_signed : r1 (.min (a2 .i32 0 0)) [(2, 0xFFFFFFFF), (4, 1)] = 0xFFFFFFFF := by decide +kernel
theorem test_mini_unsigned : r1 (.minI (ai 1 .n32 0)) [(2, 0xFFFFFFFF)] = 1 := by decide +kernel
theorem test_max : r1 (.max (a2 .n32 0 0)) [(2, 0xFFFFFFFF), (4, 1)] = 0xFFFFFFFF := by decide +kernel
theorem test_maxi : r1 (.maxI (ai 1 .i32 0)) [(2, 0xFFFFFFFF)] = 1 := by decide +kernel
theorem test_div_truncates : r1 (.div (a2 .i32 0 0)) [(2, 0xFFFFFFF9), (4, 2)] = 0xFFFFFFFD := by decide +kernel
theorem test_div_overflow : r1 (.div (a2 .i32 0 0)) [(2, 0x80000000), (4, 0xFFFFFFFF)] = 0x80000000 ∧
    r1 (.div (a2 .i32 1 0)) [(2, 0x80000000), (4, 0xFFFFFFFF)] = 0x7FFFFFFF := by decide +kernel
theorem test_div_rem_by_zero : r1 (.div (a2 .n32 0 0)) [(2, 5), (4, 0)] = 0xFFFFFFFF ∧ r1 (.rem (a2 .n32 0 0)) [(2, 5), (4, 0)] = 5 := by decide +kernel
theorem test_rem_sign : r1 (.rem (a2 .i32 0 0)) [(2, 0xFFFFFFF9), (4, 2)] = 0xFFFFFFFF := by decide +kernel
theorem test_and : r1 (.and (a2 .b32 0 0)) [(2, 0xFF00FF00), (4, 0x0FF00FF0)] = 0x0F000F00 := by decide +kernel
theorem test_andi : r1 (.andI (ai 0xF0 .b32 0)) [(2, 0xFF)] = 0xF0 := by decide +kernel
theorem test_or : r1 (.or (a2 .b32 0 0)) [(2, 0xF0), (4, 0x0F)] = 0xFF := by decide +kernel
theorem test_ori : r1 (.orI (ai 0x0F .b32 0)) [(2, 0xF0)] = 0xFF := by decide +kernel
theorem test_xor : r1 (.xor (a2 .b32 0 0)) [(2, 0xFF), (4, 0x0F)] = 0xF0 := by decide +kernel
theorem test_xori : r1 (.xorI (ai 0xFFFFFFFF .b32 0)) [(2, 0x0F)] = 0xFFFFFFF0 := by decide +kernel
theorem test_not : r1 (.not (a1 .b32 0 0)) [(2, 0x0F)] = 0xFFFFFFF0 := by decide +kernel
theorem test_andn : r1 (.andn (a2 .b32 0 0)) [(2, 0xFF), (4, 0x0F)] = 0xF0 := by decide +kernel
theorem test_andni : r1 (.andnI (ai 0x0F .b32 0)) [(2, 0xFF)] = 0xF0 := by decide +kernel
theorem test_shl_past_width : r1 (.shl (a2 .b32 0 0)) [(2, 1), (4, 32)] = 0 ∧ r1 (.shlI (ai 31 .b32 0)) [(2, 1)] = 0x80000000 := by decide +kernel
theorem test_shr_past_width : r1 (.shr (a2 .b32 0 0)) [(2, 0x80000000), (4, 40)] = 0 ∧ r1 (.shrI (ai 31 .b32 0)) [(2, 0x80000000)] = 1 := by decide +kernel
theorem test_sar_past_width : r1 (.sar (a2 .i32 0 0)) [(2, 0x80000000), (4, 40)] = 0xFFFFFFFF ∧ r1 (.sarI (ai 4 .i32 0)) [(2, 0x80000000)] = 0xF8000000 := by decide +kernel
theorem test_rol_modulo : r1 (.rol (a2 .b32 0 0)) [(2, 0x80000001), (4, 33)] = 3 ∧ r1 (.rolI (ai 33 .b32 0)) [(2, 0x80000001)] = 3 := by decide +kernel
theorem test_bfx_sign : r1 (.bfx (a3 .i32 0 0)) [(2, 0xF0), (4, 4), (6, 4)] = 0xFFFFFFFF ∧ r1 (.bfx (a3 .n32 0 0)) [(2, 0xF0), (4, 4), (6, 4)] = 0xF := by decide +kernel
theorem test_bfx_clipped : r1 (.bfx (a3 .n32 0 0)) [(2, 0x80000000), (4, 28), (6, 8)] = 8 ∧ r1 (.bfx (a3 .n32 0 0)) [(2, 0xFFFFFFFF), (4, 32), (6, 8)] = 0 := by
  decide +kernel
theorem test_bfi : r1 (.bfi (a3 .b32 0 0)) [(2, 0xFFFFFFFF), (4, 0x12), (6, 0x0808)] = 0xFFFF12FF := by decide +kernel
theorem test_popc : r1 (.popc (a1 .b32 0 0)) [(2, 0xF000000F)] = 8 := by decide +kernel
theorem test_clz : r1 (.clz (a1 .b32 0 0)) [(2, 1)] = 31 ∧ r1 (.clz (a1 .b32 0 0)) [(2, 0)] = 32 := by decide +kernel
theorem test_brev : r1 (.brev (a1 .b32 0 0)) [(2, 0x00000003)] = 0xC0000000 := by decide +kernel
theorem test_sel : r1 (.sel (Spec.args (dv 1) (v_ 2) (v_ 4) (p_ 0) .b32 0 0)) [(2, 5), (4, 6)] = 6 ∧
    r1 (.sel (Spec.args (dv 1) (v_ 2) (v_ 4) (p_ 7) .b32 0 0)) [(2, 5), (4, 6)] = 5 := by decide +kernel
theorem test_cmp_signs : rp (.cmp (Spec.args (dp 1) (v_ 2) (v_ 4) z0 .i32 2 0)) [(2, 0xFFFFFFFF), (4, 0)] = true ∧
    rp (.cmp (Spec.args (dp 1) (v_ 2) (v_ 4) z0 .n32 2 0)) [(2, 0xFFFFFFFF), (4, 0)] = false := by decide +kernel
theorem test_cmpi : rp (.cmpI (Spec.argsI 7 (dp 1) (v_ 3) 1000 .i32 2)) [(3, 999)] = true := by decide +kernel
/-- PLOP with the table of an exclusive or of its first two sources (R126). -/
theorem test_plop : rp (.plop (Spec.args (dp 1) (p_ 7) (p_ 0) (p_ 0) .none 0 0x3C)) [] = true ∧ rp (.plop (Spec.args (dp 1) (p_ 7) (p_ 7) (p_ 0) .none 0 0x3C)) [] = false := by
  decide +kernel
theorem test_mov_pair : r2 (.mov (Spec.args (dv 2) (v_ 4) z0 z0 .b64 0 0)) [(4, 1), (5, 2)] = 0x200000001 := by decide +kernel
theorem test_mov_stack : ((ran (.mov (Spec.args ⟨false, .sys, 0x13⟩ (v_ 4) z0 z0 .b64 0 0)) [(4, 0x40), (5, 1)]).thread 0).sp = 0x100000040 := by decide +kernel
theorem test_movi : r1 (.movi (Spec.argsI 7 (dv 1) z0 0xDEADBEEF .b32 0)) [] = 0xDEADBEEF := by decide +kernel
theorem test_lea : r2 (.lea (Spec.args (dv 2) (v_ 4) (v_ 6) (v_ 7) .none 0 2)) [(4, 0x1000), (6, 0xFFFFFFFF), (7, 0xFFFFFFF8)] = 0x400000FF4 ∧
    r2 (.lea (Spec.args (dv 2) (v_ 4) (v_ 6) (v_ 7) .none 0 10)) [(4, 0x1000), (6, 0xFFFFFFFF), (7, 0xFFFFFFF8)] = 0xFF4 := by decide +kernel
theorem test_leai : r2 (.leaI (Spec.argsI 7 (dv 2) (v_ 4) 0xFFFFFFFF .none 0)) [(4, 0)] = 0xFFFFFFFFFFFFFFFF := by decide +kernel
theorem test_icvt : r1 (.icvt (Spec.args (dv 1) (v_ 2) z0 z0 .i8 1 7)) [(2, 300)] = 127 := by decide +kernel

-- Floating point

theorem test_fadd_rd_zero : r1 (.fadd (a2 .f32 4 0)) [(2, 0x3F800000), (4, 0xBF800000)] = 0x80000000 := by decide +kernel
theorem test_fadd_ties_to_even : r1 (.fadd (a2 .f32 0 0)) [(2, 0x3F800000), (4, 0x33800000)] = 0x3F800000 := by decide +kernel
theorem test_faddi_flush : r1 (.faddI (ai 0 .f32 1)) [(2, 0x00000001)] = 0 := by decide +kernel
theorem test_fsub : r1 (.fsub (a2 .f32 0 0)) [(2, 0x7F800000), (4, 0x7F800000)] = 0x7FC00000 := by decide +kernel
theorem test_fsubi : r1 (.fsubI (ai 0x40000000 .f32 0)) [(2, 0x3F800000)] = 0xBF800000 := by decide +kernel
theorem test_fmul_signed_zero : r1 (.fmul (a2 .f32 0 0)) [(2, 0), (4, 0xBF800000)] = 0x80000000 := by decide +kernel
theorem test_fmuli : r1 (.fmulI (ai 0x40400000 .f32 0)) [(2, 0x40000000)] = 0x40C00000 := by decide +kernel
/-- One rounding: (1 + 2^-12)^2 - (1 + 2^-11) is 2^-24 exactly. -/
theorem test_ffma_once : r1 (.ffma (a3 .f32 0 0)) [(2, 0x3F800800), (4, 0x3F800800), (6, 0xBF801000)] = 0x33800000 := by decide +kernel
theorem test_fmin_nan : r1 (.fmin (a2 .f32 0 0)) [(2, 0x7FC00001), (4, 0x80000000)] = 0x80000000 := by decide +kernel
theorem test_fmini_zeros : r1 (.fminI (ai 0x80000000 .f32 0)) [(2, 0)] = 0x80000000 := by decide +kernel
theorem test_fmax : r1 (.fmax (a2 .f32 0 0)) [(2, 0x80000000), (4, 0)] = 0 := by decide +kernel
theorem test_fmaxi_nans : r1 (.fmaxI (ai 0x7FC00001 .f32 0)) [(2, 0xFFC00000)] = 0x7FC00000 := by decide +kernel
theorem test_fcmp_unordered : rp (.fcmp (Spec.args (dp 1) (v_ 2) (v_ 4) z0 .f32 1 0)) [(2, 0x7FC00000), (4, 0)] = true ∧
    rp (.fcmp (Spec.args (dp 1) (v_ 2) (v_ 4) z0 .f32 0 0)) [(2, 0x80000000), (4, 0)] = true := by decide +kernel
theorem test_fcmpi : rp (.fcmpI (Spec.argsI 7 (dp 1) (v_ 2) 0x3F800000 .f32 2)) [(2, 0xBF800000)] = true := by decide +kernel
theorem test_fclass : r1 (.fclass (a1 .f32 0 0)) [(2, 0x80000001)] = 4 ∧ r1 (.fclass (a1 .f8e4 0 0)) [(2, 0x7F)] = 256 := by decide +kernel
/-- 460, 470, 470 under .SAT and -470 under RZ, to F8E4 (chapter on formats, worked case 1). -/
theorem test_fcvt_f8e4 : r1 (.fcvt (a1 .f8e4 0 12)) [(2, 0x43E60000)] = 0x7E ∧ r1 (.fcvt (a1 .f8e4 0 12)) [(2, 0x43EB0000)] = 0x7F ∧
    r1 (.fcvt (a1 .f8e4 1 12)) [(2, 0x43EB0000)] = 0x7E ∧ r1 (.fcvt (a1 .f8e4 2 12)) [(2, 0xC3EB0000)] = 0xFE := by decide +kernel
theorem test_f2i : r1 (.f2i (a1 .i32 0 12)) [(2, 0x40200000)] = 2 ∧ r1 (.f2i (a1 .i32 6 12)) [(2, 0x40200000)] = 3 ∧
    r1 (.f2i (a1 .n32 0 12)) [(2, 0xBF800000)] = 0 := by decide +kernel
theorem test_i2f : r1 (.i2f (a1 .f32 0 7)) [(2, 0xFFFFFFFF)] = 0x4F800000 ∧ r1 (.i2f (a1 .f32 2 7)) [(2, 0xFFFFFFFF)] = 0x4F7FFFFF := by decide +kernel
theorem test_frnd : r1 (.frnd (a1 .f32 0 0)) [(2, 0xBF000000)] = 0x80000000 ∧ r1 (.frnd (a1 .f32 4 0)) [(2, 0xBF000000)] = 0xBF800000 := by decide +kernel
theorem test_fscl : r1 (.fscl (a2 .f32 0 0)) [(2, 0x3F800000), (4, 0xFFFFFF6B)] = 1 := by decide +kernel
theorem test_frcp : r1 (.frcp (a1 .f32 0 0)) [(2, 0x40000000)] = 0x3F000000 ∧ r1 (.frcp (a1 .f32 0 0)) [(2, 0x80000000)] = 0xFF800000 := by decide +kernel
theorem test_fsqrt : r1 (.fsqrt (a1 .f32 0 0)) [(2, 0x40800000)] = 0x40000000 ∧ r1 (.fsqrt (a1 .f32 0 0)) [(2, 0xBF800000)] = 0x7FC00000 := by decide +kernel
theorem test_frsq : r1 (.frsq (a1 .f32 0 0)) [(2, 0x40800000)] = 0x3F000000 := by decide +kernel
theorem test_fex2 : r1 (.fex2 (a1 .f32 0 0)) [(2, 0x40400000)] = 0x41000000 := by decide +kernel
theorem test_flg2 : r1 (.flg2 (a1 .f32 0 0)) [(2, 0x41000000)] = 0x40400000 := by decide +kernel
theorem test_fsin : r1 (.fsin (a1 .f32 0 0)) [(2, 0x80000000)] = 0x80000000 ∧ r1 (.fsin (a1 .f32 0 0)) [(2, 0x7F800000)] = 0x7FC00000 := by decide +kernel
theorem test_fcos : r1 (.fcos (a1 .f32 0 0)) [(2, 0)] = 0x3F800000 := by decide +kernel
theorem test_hvadd : r1 (.hvadd (a2 .f16 0 0)) [(2, 0x3C004000), (4, 0x3C003C00)] = 0x40004200 := by decide +kernel
theorem test_hvmul : r1 (.hvmul (a2 .f16 0 0)) [(2, 0x3C004000), (4, 0xBC004000)] = 0xBC004400 := by decide +kernel
theorem test_hvfma : r1 (.hvfma (a3 .bf16 0 0)) [(2, 0x3F804000), (4, 0x40004000), (6, 0x3F803F80)] = 0x404040A0 := by decide +kernel
theorem test_hvmin : r1 (.hvmin (a2 .f16 0 0)) [(2, 0x7E000000), (4, 0x3C008000)] = 0x3C008000 := by decide +kernel
theorem test_hvmax : r1 (.hvmax (a2 .f16 0 0)) [(2, 0x7E008000), (4, 0x3C000000)] = 0x3C000000 := by decide +kernel

-- Packed values and the exact accumulator

/-- Worked case 3 of the chapter on arithmetic: DP8.I32.AQ.BS. -/
theorem test_dp8_q8 : r1 (.dp8 (Spec.args (dv 1) (v_ 4) (v_ 6) (v_ 7) .i32 0 2)) [(4, 0x007F8180), (5, 0x80), (6, 0x01040302), (7, 100)] = 0xFFFFFFE3 := by
  decide +kernel
theorem test_dp4 : r1 (.dp4 (Spec.args (dv 1) (v_ 4) (v_ 6) (v_ 7) .i32 0 0)) [(4, 0xF), (6, 0x7), (7, 0)] = 0xFFFFFFF9 := by decide +kernel
theorem test_fdp8 : r1 (.fdp8 (Spec.args (dv 1) (v_ 4) (v_ 6) (v_ 7) .f32 0 0)) [(4, 0x38), (6, 0x40), (7, 0x3F800000)] = 0x40400000 := by decide +kernel
theorem test_fdp4 : r1 (.fdp4 (Spec.args (dv 1) (v_ 4) (v_ 6) (v_ 7) .f32 0 0)) [(4, 0x17), (6, 0x64), (7, 0)] = 0x41600000 := by decide +kernel
theorem test_pack : r1 (.pack (a3 .n8 1 1)) [(2, 300), (4, 0xFFFFFFFF), (6, 0x11112222)] = 0x00FF2222 := by decide +kernel
theorem test_unpk : r1 (.unpk (a1 .f8e4 0 1)) [(2, 0x7F00)] = 0x7FC00000 ∧ r1 (.unpk (a1 .i8 0 1)) [(2, 0x8000)] = 0xFFFFFF80 := by decide +kernel
theorem test_xscl : r1 (.xscl (a2 .f32 0 0)) [(2, 0x3F800000), (4, 130)] = 0x41000000 ∧ r1 (.xscl (a2 .f32 0 0)) [(2, 0x3F800000), (4, 255)] = 0x7FC00000 := by
  decide +kernel
/-- Worked case 4 of the chapter on arithmetic: the first XACC of 1.0 into an empty group, and the second of 2^-24. -/
theorem test_xacc : let f := ran (.xacc (Spec.args (dv 16) (v_ 16) (v_ 1) z0 .f32 0 0)) ((1, 0x3F800000) :: (List.range 12).map fun j => (16 + j, 0))
    rd f 0 20 = 0x00200000 ∧ rd f 0 26 = 0x20 ∧ rd f 0 19 = 0 := by decide +kernel
theorem test_xadd : let f := ran (.xadd (Spec.args (dv 16) (v_ 16) (v_ 28) z0 .xa320 0 0)) ((List.range 24).map fun j => (16 + j, if j = 4 then 0x00200000 else if j = 15 then 0x20000000 else if j % 12 = 10 then 0x20 else 0))
    rd f 0 20 = 0x00200000 ∧ rd f 0 19 = 0x20000000 ∧ rd f 0 26 = 0x20 := by decide +kernel
theorem test_xrnd : r1 (.xrnd (Spec.args (dv 1) (v_ 16) z0 z0 .f32 0 0)) ((List.range 12).map fun j => (16 + j, if j = 3 then 0x20000000 else if j = 10 then 0x20 else 0)) = 0x33800000 := by
  decide +kernel
theorem test_xclr : let f := ran (.xclr (Spec.args (dv 16) z0 z0 z0 .xa320 0 0)) [(16, 1), (27, 2), (28, 3)]
    rd f 0 16 = 0 ∧ rd f 0 27 = 0 ∧ rd f 0 28 = 3 := by decide +kernel

/-- Worked case 1 of the chapter on the instruction word: a run of three whose members read their latches; v1 = 11, v2 = 10 and v3 = 21 at its commit (R41, R42). -/
def threeOfARun : State :=
  let is : List Instr := [.add { Spec.args (dv 1) (v_ 1) (i_ 1) z0 .i32 0 0 with hnt := ⟨2, 0, false, false⟩ }, .add (Spec.args (dv 2) (v_ 1) (i_ 0) z0 .i32 0 0),
    .add (Spec.args (dv 3) (l_ 1) (l_ 0) z0 .i32 0 0)]
  let s := rigN (.nop (a0 .none 0 0)) 0 (fun f => let f := vs [(1, 10)] f; f) (fun s => match s.flight? 0 0 with
    | some f => s.setFlight 0 0 { f with run := some (f.newRun 1 0x1000 (is.map encode)) }
    | none => s) 1
  is.foldl (fun s i => nextOf (exec i s)) s
theorem test_run_of_three : (threeOfARun.flight? 0 0).map (fun f => (rd f 0 1, rd f 0 2, rd f 0 3, (f.thread 0).pc)) = some (11, 10, 21, 0x1024) := by decide +kernel

-- ---------------------------------------------------------------------------------------------
-- Single steps: control, memory, flights, barriers, the press and the racking processor


theorem test_bra : pcOf (go (.bra (jump 6))) 0 = 0x1018 ∧ pcOf (go (.bra (jump 0xFFFFFFFD))) 0 = 0xFF4 := by decide +kernel
/-- BRX needs LAND at its target; without it the thread traps with BAD_LANDING, OPND 1, at ctx.tvec (chapter on control, worked case 1). -/
theorem test_brx : pcOf (go (.brx (Spec.args no (v_ 2) z0 z0 .none 0 0)) (vs [(2, 0x3000), (3, 0)]) (code 0x3000 (.nop (land' (a0 .none 0 0))))) 0 = 0x3000 ∧
    trapOf (go (.brx (Spec.args no (v_ 2) z0 z0 .none 0 0)) (vs [(2, 0x3000), (3, 0)])) 0 = (1, 0x109, 0x1000, 0x2000) := by decide +kernel
theorem test_brx_misaligned : trapOf (go (.brx (Spec.args no (v_ 2) z0 z0 .none 0 0)) (vs [(2, 0x3002), (3, 0)])) 0 = (1, 0x106, 0x1000, 0x2000) := by decide +kernel
/-- CALL stores its frame of 16 bytes below the stack pointer, 0x80000, and RET takes it from there. -/
theorem test_call : let s := go (.call (jump 6))
    pcOf s 0 = 0x1018 ∧ ((fl s).thread 0).sp = 0x7FFF0 ∧ mem s 0x7FFF0 8 = 0x100C := by decide +kernel
theorem test_callx : let s := go (.callx (Spec.args no (v_ 2) z0 z0 .none 0 0)) (vs [(2, 0x3000), (3, 0)]) (code 0x3000 (.nop (land' (a0 .none 0 0))))
    pcOf s 0 = 0x3000 ∧ ((fl s).thread 0).sp = 0x7FFF0 ∧ mem s 0x7FFF0 8 = 0x100C := by decide +kernel
theorem test_ret : let s := go (.ret (a0 .none 0 0)) id (put 0x80000 [0x24, 0x30])
    pcOf s 0 = 0x3024 ∧ ((fl s).thread 0).sp = 0x80010 := by decide +kernel
/-- TRAP: code 12, the restart point behind it, the frame of 32 bytes and the handler at ctx.tvec (R105, R106, R158). -/
theorem test_trap : let s := go (.trap (a0 .none 0 5))
    trapOf s 0 = (1, 12, 0x1000, 0x2000) ∧ ((fl s).thread 0).sp = 0x7FFE0 ∧ mem s 0x7FFE0 8 = 0x100C ∧ mem s 0x7FFF8 8 = 0x80000 := by decide +kernel
theorem test_bkpt : trapOf (go (.bkpt (a0 .none 0 0))) 0 = (1, 11, 0x1000, 0x2000) := by decide +kernel
theorem test_rtt : let s := go (.rtt (a0 .none 0 0)) trapped (fun s => put 0x7FFE0 [0x24, 0x30] (put 0x7FFF0 [7] (put 0x7FFF8 [0, 0, 8] s)))
    trapOf s 0 = (0, 7, 0, 0x3024) ∧ ((fl s).thread 0).sp = 0x80000 := by decide +kernel
theorem test_exit : let s := go (.exit (a0 .none 0 0))
    ((fl s).thread 0).live = false ∧ ((fl s).thread 1).live = true ∧ ((goAll (.exit (a0 .none 0 0))).flight? 0 0) = none := by decide +kernel
theorem test_sleep : ((fl (go (.sleep (Spec.args no (i_ 5) z0 z0 .none 0 0)))).thread 0).hold = .sleep 0 5 ⟨0, [], [], 0x100C⟩ := by decide +kernel
theorem test_yield : (fl (go (.yield (a0 .none 0 0)))).yielded = true ∧ pcOf (go (.nop (a0 .none 0 0))) 0 = 0x100C := by decide +kernel
/-- A division by zero under .CHK traps with DIVIDE, OPND 2 (R121). -/
theorem test_divide_trap : trapOf (go (.div (a2 .n32 0 1)) (vs [(2, 5), (4, 0)])) 0 = (1, 0x20A, 0x1000, 0x2000) := by decide +kernel
/-- A poisoned operand poisons a v destination with its token (R53, R55). -/
theorem test_poison : let f := fl (go (.add (a2 .i32 0 0)) (vAll 4 (fun _ => 0x7FFFFFF3) true))
    ((f.thread 0).vreg 1) = ⟨0x7FFFFFF3, true, false⟩ := by decide +kernel

-- Memory

/-- LD reads the low word of its own encoding, at 0x1000; ST stores it elsewhere. -/
theorem test_ld : rd (fl (go (.ld (Spec.args (dv 1) (s_ 2) (i_ 4) z0 .n16 0 0)) (ss [(2, 0x3000)]) (put 0x3004 [0xCD, 0xAB]))) 0 1 = 0xABCD := by decide +kernel
theorem test_ldi_sign : rd (fl (go (.ldI (Spec.argsI 7 (dv 1) (s_ 2) 0xFFFFFFFE .i8 0)) (ss [(2, 0x3004)]) (put 0x3000 [0, 0, 0x80]))) 0 1 = 0xFFFFFF80 := by
  decide +kernel
/-- A load through an address that is not mapped takes token 1 and leaves poison(1) in its register (R101). -/
theorem test_ld_unmapped : let f := fl (go (.ld (Spec.args (dv 1) (s_ 2) (i_ 0) z0 .b32 0 0)) (ss [(2, 0x40000000)]))
    ((f.thread 0).vreg 1) = ⟨0x7FFFFFF1, true, false⟩ ∧ (f.toks.get? 1).map (·.lanes) = some 1 := by decide +kernel
theorem test_st : mem (go (.st (Spec.args no (s_ 2) (i_ 3) (v_ 4) .n8 0 0)) (fun f => vs [(4, 0x1234)] (ss [(2, 0x3000)] f)) (put 0x3000 [1, 2, 3, 4, 5])) 0x3000 5 = 0x0534030201 := by
  decide +kernel
theorem test_st_misaligned : trapOf (go (.st (Spec.args no (s_ 2) (i_ 2) (v_ 4) .b32 0 0)) (ss [(2, 0x3000)])) 0 = (1, 0x106, 0x1000, 0x2000) := by decide +kernel
theorem test_lds : rd (fl (go (.lds (Spec.args (dv 1) (v_ 2) (i_ 2) z0 .i16 0 0)) (vs [(2, 0x100)]) (spad 0x40 ⟨0x8000FFFF, false⟩))) 0 1 = 0xFFFF8000 := by
  decide +kernel
theorem test_ldsi_poison : ((fl (go (.ldsI (Spec.argsI 7 (dv 1) (v_ 2) 0 .b32 0)) (vs [(2, 0x100)]) (spad 0x40 ⟨1, true⟩))).thread 0).vreg 1 = ⟨0x7FFFFFF0, true, false⟩ := by
  decide +kernel
theorem test_sts : spw (go (.sts (Spec.args no (v_ 2) (i_ 1) (v_ 4) .n8 0 0)) (vs [(2, 0x100), (4, 0xAB)]) (spad 0x40 ⟨0x44332211, false⟩)) 0x40 = ⟨0x4433AB11, false⟩ := by
  decide +kernel
theorem test_ldt : let f := fl (go (.ldt (Spec.args (dv 16) (v_ 1) (i_ 64) z0 .n8 0 0)) (vs [(1, 0x200)]) ldtSpad)
    rd f 0 16 = 0x30201000 ∧ rd f 0 17 = 0x31211101 ∧ rd f 0 31 = 0x3F2F1F0F := by decide +kernel
theorem test_ldt_f4 : let f := fl (go (.ldt (Spec.args (dv 16) (v_ 1) (i_ 64) z0 .f4 0 0)) (vs [(1, 0x200)]) ldtSpad)
    rd f 0 16 = 0x32100000 ∧ rd f 0 17 = 0x32101111 := by decide +kernel
theorem test_ldc : rd (fl (go (.ldc (Spec.args (dv 1) (v_ 2) (i_ 8) z0 .b32 0 0)) (vs [(2, 4)]) (bank [(3, 77)]))) 0 1 = 77 ∧
    rd (fl (go (.ldcI (Spec.argsI 7 (dv 1) (v_ 2) 8 .b32 0)) (vs [(2, 4)]) (bank [(3, 77)]))) 0 1 = 77 := by decide +kernel
theorem test_atom : let s := go (.atom (Spec.args (dv 1) (s_ 2) (v_ 4) z0 .n32 4 0)) (fun f => vs [(4, 5)] (ss [(2, 0x3000)] f)) (put 0x3000 [7])
    rd (fl s) 0 1 = 7 ∧ mem s 0x3000 4 = 12 := by decide +kernel
theorem test_atom_cas : let s := go (.atom (Spec.args (dv 1) (s_ 2) (v_ 4) (v_ 5) .b32 4 0x1C)) (fun f => vs [(4, 7), (5, 9)] (ss [(2, 0x3000)] f)) (put 0x3000 [7])
    rd (fl s) 0 1 = 7 ∧ mem s 0x3000 4 = 9 := by decide +kernel
/-- RED.XACC (chapter on memory, worked case 4: the first of its three contributions sets bit 149 and CON 10). -/
theorem test_red_xacc : let s := go (.red (Spec.args no (s_ 2) (v_ 4) z0 .f32 4 0x2C)) (fun f => vs [(4, 0x3F800000)] (ss [(2, 0x3000)] f))
    mem s 0x3012 1 = 0x20 ∧ mem s 0x3028 1 = 0x20 ∧ mem s 0x3000 1 = 0 := by decide +kernel
theorem test_atoms : let s := go (.atoms (Spec.args (dv 1) (v_ 2) (v_ 4) z0 .n32 2 0)) (vs [(2, 0x100), (4, 5)]) (spad 0x40 ⟨7, false⟩)
    rd (fl s) 0 1 = 7 ∧ spw s 0x40 = ⟨12, false⟩ := by decide +kernel
theorem test_rst : mem (go (.rst (Spec.args no (s_ 2) (i_ 0) (v_ 4) .b32 0 0)) (fun f => vs [(4, 0x1234)] (ss [(2, 0x3000)] f))) 0x3000 4 = 0x1234 := by decide +kernel
theorem test_fence : pcOf (go (.fence (a0 .none 4 3))) 0 = 0x100C ∧ pcOf (go (.wcfl (a0 .none 0 0))) 0 = 0x100C := by decide +kernel
theorem test_maintenance : pcOf (go (.cwb (Spec.args no (s_ 2) (i_ 64) z0 .none 4 0)) (ss [(2, 0x3000)])) 0 = 0x100C ∧
    pcOf (go (.cinv (Spec.args no (s_ 2) (i_ 64) z0 .none 2 0)) (ss [(2, 0x3000)])) 0 = 0x100C := by decide +kernel
/-- CDISC discards a sector that the L2 holds dirty, and counts it (R179). -/
theorem test_cdisc : let dirty (s : State) : State := s.setHome (secKey 0 0xC0) { Home.reset with copy := some ⟨0xFF, BitVec.allOnes 64, 1, 0, false, 0⟩ }
    let s := goAll (.cdisc (Spec.args (ds 10) (s_ 4) (i_ 128) z0 .none 4 0)) (ss [(4, 0x3000)]) dirty
    (fl s).s.getD 10 9 = 1 ∧ mem s 0x3000 1 = 0 := by decide +kernel
theorem test_pref : pcOf (go (.pref (Spec.args no (s_ 2) (i_ 0) z0 .none 2 0)) (ss [(2, 0x40000000)])) 0 = 0x100C ∧
    pcOf (go (.prefI (Spec.argsI 7 no (s_ 2) 0 .none 4)) (ss [(2, 0x3000)])) 0 = 0x100C := by decide +kernel
theorem test_ptst : (((fl (go (.ptst (Spec.args (dp 1) (v_ 4) z0 z0 .b32 0 0)) (vAll 4 (fun _ => 0x7FFFFFF1) true))).thread 0).preds.getLsbD 1) = true ∧
    rd (fl (go (.ptst (Spec.args (dv 1) (v_ 4) z0 z0 .b32 0 1)) (vAll 4 (fun _ => 0x7FFFFFF0) true))) 0 1 = 0x120 := by decide +kernel
theorem test_replay_clean : pcOf (go (.replay (Spec.args no (v_ 4) z0 z0 .none 0 0)) (vs [(4, 1)])) 0 = 0x100C := by decide +kernel
theorem test_monw : rd (fl (go monw (fun f => vs [(4, 5)] (ss [(2, 0x3000)] f)) (fun s => coherent (put 0x3000 [7] s)))) 0 1 = 7 ∧
    ((fl (go monw (fun f => vs [(4, 7)] (ss [(2, 0x3000)] f)) (fun s => coherent (put 0x3000 [7] s)))).thread 0).hold ≠ .none := by decide +kernel

-- Flights

theorem test_vote : let low (l : Nat) : BitVec 7 := if l < 16 then 2 else 0
    (fl (goAll (.vote (Spec.args (dk 1) (p_ 1) z0 z0 .none 0 3)) (ps low))).k.getD 1 0 = 0xFFFF ∧
    ((fl (goAll (.vote (Spec.args (dp 2) (p_ 1) z0 z0 .none 0 0)) (ps low))).thread 31).preds.getLsbD 2 = true ∧
    ((fl (goAll (.vote (Spec.args (dp 2) (p_ 1) z0 z0 .none 0 1)) (ps low))).thread 31).preds.getLsbD 2 = false := by decide +kernel
theorem test_shfl : let f := fl (goAll (.shfl (Spec.args (dv 5) (v_ 4) (i_ 1) (i_ 8) .b32 0 3)) (vAll 4 (fun l => BitVec.ofNat 32 l)))
    rd f 0 5 = 1 ∧ rd f 31 5 = 30 := by decide +kernel
theorem test_shfl_up : let f := fl (goAll (.shfl (Spec.args (dv 5) (v_ 4) (i_ 3) (i_ 8) .b32 0 1)) (vAll 4 (fun l => BitVec.ofNat 32 l)))
    rd f 10 5 = 10 ∧ rd f 12 5 = 9 := by decide +kernel
theorem test_match : let f := fl (goAll (.matchV (Spec.args (dv 5) (v_ 4) z0 z0 .b32 0 0)) (vAll 4 (fun l => BitVec.ofNat 32 (l % 2))))
    rd f 0 5 = 0x55555555 ∧ rd f 1 5 = 0xAAAAAAAA := by decide +kernel
/-- FREDUX.FADD with exec of lanes 0 to 3 (chapter on flights, worked case 2). -/
theorem test_fredux_fadd : let i : Instr := .fredux (Spec.args (dv 8) (v_ 7) z0 z0 .f32 0 6)
    rd (fl (after i (rigN i 0 (vAll 7 fun l => if l = 0 then 0x3F800000 else 0x33800000) id 15))) 3 8 = 0x3F800001 := by decide +kernel
theorem test_fredux_add : rd (fl (goAll (.fredux (Spec.args (dv 8) (v_ 7) z0 z0 .n32 0 0)) (vAll 7 fun l => BitVec.ofNat 32 l))) 5 8 = 496 := by decide +kernel
theorem test_kmov : (fl (goAll (.kmov (Spec.args (dk 1) (s_ 2) z0 z0 .none 0 0)) (ss [(2, 0x1F0F0F0F0)]))).k.getD 1 0 = 0xF0F0F0F0 ∧
    ((fl (goAll (.kmov (Spec.args (dp 1) (k_ 2) z0 z0 .none 0 0)) (ks [(2, 4)]))).thread 2).preds.getLsbD 1 = true := by decide +kernel
theorem test_kmovi : (fl (goAll (.kmovI (Spec.argsI 7 (dk 1) z0 0xABCD .none 0)))).k.getD 1 0 = 0xABCD := by decide +kernel
/-- KLOP with the table of a and not b. -/
theorem test_klop : (fl (goAll (.klop (Spec.args (dk 1) (k_ 2) (k_ 3) (i_ 0) .none 0 0x30)) (ks [(2, 0xFF), (3, 0x0F)]))).k.getD 1 0 = 0xF0 := by decide +kernel
theorem test_kpopc : rd (fl (goAll (.kpopc (Spec.args (dv 1) (k_ 2) z0 z0 .none 0 1)) (ks [(2, 0xFFFF0001)]))) 17 1 = 2 := by decide +kernel
theorem test_kfind : rd (fl (goAll (.kfind (Spec.args (dv 1) (k_ 2) z0 z0 .none 0 0)) (ks [(2, 0xF0)]))) 0 1 = 4 ∧
    rd (fl (goAll (.kfind (Spec.args (dv 1) (k_ 2) z0 z0 .none 0 1)) (ks [(2, 0xF0)]))) 0 1 = 7 ∧
    rd (fl (goAll (.kfind (Spec.args (dv 1) (k_ 2) (i_ 2) z0 .none 0 2)) (ks [(2, 0xF0)]))) 0 1 = 6 := by decide +kernel
/-- RCV of all live threads releases them at once; of one thread it holds it (R210). -/
theorem test_rcv : ((fl (goAll (.rcv (Spec.args no (k_ 2) (i_ 3) z0 .none 0 0)) (ks [(2, 0xFFFFFFFF)]))).thread 9).hold = .none ∧
    ((fl (go (.rcv (Spec.args no (k_ 2) (i_ 3) z0 .none 0 0)) (ks [(2, 0xFFFFFFFF)]))).thread 0).hold = .rcv 3 0xFFFFFFFE := by decide +kernel
theorem test_alloc_free : (fl (goAll (.alloc (a0 .none 0 0)))).allot = 64 ∧ (fl (goAll (.free (a0 .none 0 0)))).allot = 16 ∧ (fl (goAll (.free (a0 .none 0 0)))).freed = true := by
  decide +kernel
theorem test_bar : ((fl (goAll (.bar (Spec.args no (i_ 1) z0 z0 .none 0 0)))).thread 7).hold = .none ∧
    ((fl (go (.bar (Spec.args no (i_ 1) z0 z0 .none 0 0)))).thread 0).hold = .bar 1 := by decide +kernel
theorem test_cbar : ((fl (go (.cbar (Spec.args no (i_ 1) z0 z0 .none 0 0)))).thread 0).hold = .cbar 1 := by decide +kernel
/-- Arm, subtract, wait, take and read (R230, R235 to R241; chapter on barriers, worked case 3). -/
theorem test_cbarm : let b := (go (.cbarmI (Spec.argsI 7 no (i_ 5) 256 .none 2)) id (fun s => s.setCb 0 5 { CBar.reset with count := -128 })).cb 0 5
    b.count = 128 ∧ b.armed = true ∧ b.scope = 2 := by decide +kernel
theorem test_cbadd : ((go (.cbaddI (Spec.argsI 7 no (i_ 5) 64 .none 0)) id (fun s => s.setCb 0 5 { CBar.reset with count := 128 })).cb 0 5).count = 64 := by decide +kernel
theorem test_cbwait : ((fl (go (.cbwait (Spec.args no (i_ 5) z0 z0 .none 0 0)) id (fun s => s.setCb 0 5 { CBar.reset with armed := true }))).thread 0).hold = .none ∧
    ((fl (go (.cbwait (Spec.args no (i_ 5) z0 z0 .none 0 0)))).thread 0).hold ≠ .none := by decide +kernel
theorem test_cbacq : ((go (.cbacq (Spec.args no (i_ 5) (i_ 3) z0 .none 0 0)) id (fun s => s.setCb 0 5 { CBar.reset with count := 5 })).cb 0 5).count = 2 ∧
    ((go (.cbacq (Spec.args no (i_ 5) (i_ 3) z0 .none 0 0)) id (fun s => s.setCb 0 5 { CBar.reset with count := 2 })).cb 0 5).queue = [(0, 0, 3)] := by decide +kernel
theorem test_cbread : let f := fl (go (.cbread (Spec.args (dv 2) (i_ 5) z0 z0 .none 0 0)) id (fun s => s.setCb 0 5 { CBar.reset with count := -1, armed := true, scope := 4 }))
    rd f 0 2 = 0xFFFFFFFF ∧ rd f 0 3 = 0x9FF := by decide +kernel

-- The press

theorem test_mxacq : ((goAll (.mxacq (a0 .none 0 0))).core 0).press.owner = some 0 ∧
    ((fl (goAll (.mxacq (a0 .none 0 0)) id fun s => s.setPress 0 { Press.reset with owner := some 7 })).thread 3).hold = .mxacq false ⟨0, [], [], 0x100C⟩ := by decide +kernel
theorem test_mxrel : ((goAll (.mxrel (a0 .none 0 0)) id owned).core 0).press.owner = none := by decide +kernel
theorem test_mxzero : let s := nextOf (exec (.pressInstrPerform 0) (goAll (.mxzero (a0 .i32 1 0)) id owned))
    (s.core 0).press.z1.ty = .i32 ∧ (s.core 0).press.queue = [] := by decide +kernel
theorem test_mma_cell : let b := (mxSpad (State.reset.placeWord 0)).block? 0 0 |>.getD placedBlock
    (Spec.mmaCell ⟨.f32, .single 0 ⟨0x3E800000, false⟩⟩ b false 192 0 0x4000 4 4 0 0 1).val = 0x42350000 := by decide +kernel
theorem test_mma_fifo : let s := goAll (.mma (Spec.args no (i_ 0) (i_ 64) (i_ 1) .f32 0 0x44)) id owned
    (s.core 0).press.queue = [.mma false 0 0 64 4 4 1] := by decide +kernel
theorem test_mxstz_words : Spec.outWord 1 false 0x42350000 = 0x4235 ∧ Spec.outWord 2 false 0x42350000 = 0x63 := by decide +kernel

-- Forks and the racking processor

theorem test_rfork : let s := goAll (.rfork (Spec.args (ds 12) (s_ 4) (s_ 8) z0 .none 0 0)) (ss [(4, 0x3000), (8, 5), (11, 6)])
    (s.eng 0 0).run = .running ∧ (s.eng 0 0).pc = 0x3000 ∧ (s.eng 0 0).reg 0 = 5 ∧ (s.eng 0 0).reg 3 = 6 ∧ (fl s).s.getD 12 9 = BitVec.ofNat 64 ((s.eng 0 0).gen * 8) := by
  decide +kernel
theorem test_eadd : (eng (.eadd e2) (regs [(2, 0xFFFFFFFFFFFFFFFF), (3, 2)])).reg 1 = 1 ∧ (eng (.eadd e2)).pc = 0x100C := by decide +kernel
theorem test_eaddi : (eng (.eaddI (ei 0xFFFFFFFF)) (regs [(2, 0)])).reg 1 = 0xFFFFFFFFFFFFFFFF := by decide +kernel
theorem test_esub : (eng (.esub e2) (regs [(2, 0), (3, 1)])).reg 1 = 0xFFFFFFFFFFFFFFFF ∧ (eng (.esubI (ei 1)) (regs [(2, 5)])).reg 1 = 4 := by decide +kernel
theorem test_emul : (eng (.emul e2) (regs [(2, 0x100000000), (3, 0x100000001)])).reg 1 = 0x100000000 := by decide +kernel
theorem test_eand : (eng (.eand e2) (regs [(2, 12), (3, 10)])).reg 1 = 8 ∧ (eng (.eandI (ei 10)) (regs [(2, 12)])).reg 1 = 8 := by decide +kernel
theorem test_eor : (eng (.eor e2) (regs [(2, 12), (3, 10)])).reg 1 = 14 ∧ (eng (.eorI (ei 10)) (regs [(2, 12)])).reg 1 = 14 := by decide +kernel
theorem test_exor : (eng (.exor e2) (regs [(2, 12), (3, 10)])).reg 1 = 6 ∧ (eng (.exorI (ei 10)) (regs [(2, 12)])).reg 1 = 6 := by decide +kernel
theorem test_eshl : (eng (.eshl e2) (regs [(2, 1), (3, 64)])).reg 1 = 0 ∧ (eng (.eshlI (ei 63)) (regs [(2, 1)])).reg 1 = 0x8000000000000000 := by decide +kernel
theorem test_eshr : (eng (.eshr e2) (regs [(2, 0x8000000000000000), (3, 64)])).reg 1 = 0 ∧ (eng (.eshrI (ei 63)) (regs [(2, 0x8000000000000000)])).reg 1 = 1 := by decide +kernel
theorem test_ecmp : (eng (.ecmp { e2 with ty := .i64, z := 2 }) (regs [(2, 0xFFFFFFFFFFFFFFFF), (3, 0)])).reg 1 = 1 ∧
    (eng (.ecmpI { ei 0 with ty := .n64, z := 2 }) (regs [(2, 0xFFFFFFFFFFFFFFFF)])).reg 1 = 0 := by decide +kernel
theorem test_emov : (eng (.emov (Spec.args (dv 1) (y_ 5) z0 z0 .none 0 0)) (regs [(1, 9)])).reg 1 = 0 ∧
    (eng (.emovi (Spec.argsI 7 (dv 1) z0 7 .none 1)) (regs [(1, 0x55555555AAAAAAAA)])).reg 1 = 0x7AAAAAAAA := by decide +kernel
theorem test_ebr : (eng (.ebrI (Spec.argsI 7 no (v_ 2) 0xFFFFFFF7 .none 1)) (regs [(2, 0)])).pc = 0xFDC ∧
    (eng (.ebrI (Spec.argsI 7 no (v_ 2) 0xFFFFFFF7 .none 0)) (regs [(2, 0)])).pc = 0x100C ∧
    (eng (.ebr (Spec.args no (v_ 2) (v_ 3) z0 .none 0 0)) (regs [(2, 1), (3, 0x3000)])).pc = 0x3000 := by
  decide +kernel
theorem test_ejmp : (eng (.ejmp (Spec.args no (v_ 2) z0 z0 .none 0 0)) (regs [(2, 0x3000)])).pc = 0x3000 ∧ (eng (.ejmpI (Spec.argsI 7 no z0 3 .none 0))).pc = 0x100C := by
  decide +kernel
theorem test_eloop : (eng (.eloopI (Spec.argsI 7 (dv 6) (v_ 6) 0xFFFFFFF7 .none 0)) (regs [(6, 2)])).pc = 0xFDC ∧
    (eng (.eloop (Spec.args (dv 6) (v_ 6) (v_ 7) z0 .none 0 0)) (regs [(6, 1), (7, 0x3000)])).pc = 0x100C := by decide +kernel
theorem test_eld : let s := nextOf (exec (.engineLoadLanding 0 0) (nextOf (exec (.eldI (Spec.argsI 7 (dv 1) (v_ 2) 4 .n16 0))
      (rack (.eldI (Spec.argsI 7 (dv 1) (v_ 2) 4 .n16 0)) (regs [(2, 0x3000)]) (put 0x3004 [0xCD, 0xAB, 1])))))
    (s.eng 0 0).reg 1 = 0xABCD ∧ (s.eng 0 0).pc = 0x100C := by decide +kernel
theorem test_est : let i : Instr := .est (Spec.args no (v_ 2) (i_ 4) (v_ 3) .n16 0 0)
    mem (nextOf (exec i (rack i (regs [(2, 0x3000), (3, 0xABCDE)])))) 0x3004 4 = 0xBCDE := by decide +kernel
theorem test_wset : (eng (.wset (Spec.args (ds 1) (v_ 2) z0 z0 .none 0 2)) (regs [(2, 0x1234567890)])).walker 1 = 0x34567890 <<< 64 := by decide +kernel
/-- WSTEP by 3 along dimension 0 with a stride of 64 bytes. -/
theorem test_wstep : (eng (.wstep (Spec.args (ds 1) (i_ 0) (i_ 3) z0 .none 0 0)) (walks 1 (walker 0x1000 1 1 0 [16] [64]))).walker 1 = walker 0x10C0 1 1 0 [16] [64] := by decide +kernel
theorem test_tcopy : let s := nextOf (exec tcopy tcopied)
    (s.eng 0 0).pc = 0x100C ∧ ((s.eng 0 0).slots.get? 0).isSome = true := by decide +kernel
theorem test_piece_land : let land (s : State) : State := nextOf (exec (.pieceLand 0 0 0 0) s)
    (spw (land (land (nextOf (exec tcopy tcopied)))) 0x40).val = 0x04030201 := by decide +kernel
theorem test_ecbadd : let i : Instr := .ecbadd (Spec.args no (k_ 5) (i_ 64) z0 .none 0 0)
    ((nextOf (exec i (rack i id fun s => s.setCb 0 5 { CBar.reset with count := 128 }))).cb 0 5).count = 64 := by decide +kernel
theorem test_ecbwait : (eng (.ecbwait (Spec.args no (k_ 5) z0 z0 .none 0 0))).run = .heldCb 5 ∧
    (eng (.ecbwait (Spec.args no (k_ 5) z0 z0 .none 0 0)) id fun s => s.setCb 0 5 { CBar.reset with armed := true }).pc = 0x100C := by decide +kernel
theorem test_efence : (eng (.efence (Spec.args no z0 z0 z0 .none 4 3))).pc = 0x100C := by decide +kernel
theorem test_eend : (eng (.eend (Spec.args no z0 z0 z0 .none 0 0))).run = .ended false 0 := by decide +kernel
/-- A flight's instruction in an engine thread is the terminal trap ILLEGAL (R48). -/
theorem test_engine_illegal : let s := State.reset.placeWord (encode (.eend (Spec.args no z0 z0 z0 .none 0 0)))
    ((nextOf (exec (.nop (a0 .none 0 0)) { s with cur := ⟨0, 0, true⟩, turns := [] })).eng 0 0).run = .ended true 1 := by decide +kernel

-- ---------------------------------------------------------------------------------------------
-- States and operands that meet the premises of the obligations, clause by clause

theorem some_of {α : Type} [Inhabited α] {f : Nat → Option α} (e : ((List.range 32).all fun l => (f l).isSome) = true) : ∃ x : Nat → α, ∀ l, l < 32 → f l = some (x l) := by
  refine ⟨fun l => (f l).getD default, fun l hl => ?_⟩
  have := List.all_eq_true.mp e l (List.mem_range.mpr hl)
  cases h : f l with
  | none => simp [h] at this
  | some y => simp [h]

/-- Each instruction of a list meets the common premises in its state, and has a result in every lane. -/
theorem all_give {α : Type} [Inhabited α] {l : List Instr} {r : Instr → State} {f : Instr → Nat → Option α}
    (e : (l.all fun i => readyB (r i) i && cleanB (r i) i && (List.range 32).all fun l => (f i l).isSome) = true) :
    ∀ i, i ∈ l → Meets (r i) i ∧ ∃ x : Nat → α, ∀ l, l < 32 → f i l = some (x l) := by
  intro i h
  have := List.all_eq_true.mp e i h
  rw [Bool.and_eq_true] at this
  exact ⟨meets_of this.1, some_of this.2⟩

def opA (s : State) (i : Instr) (l : Nat) : Val := operandA s (hereOf s) (viewOf i) (specOf i) l
def opB (s : State) (i : Instr) (l : Nat) : Val := operandB s (hereOf s) (viewOf i) (specOf i) none l
def opC (s : State) (i : Instr) (l : Nat) : Val := operandC s (hereOf s) (viewOf i) (specOf i) l

def intInstrs : List Instr :=
  [.add (a2 .i8 0 0), .addI (ai 1 .n16 1), .sub (a2 .i16 1 0), .subI (ai 1 .n8 0), .mul (a2 .n32 1 0), .mulI (ai 3 .i32 0), .mulhi (a2 .i32 0 0), .mad (a3 .n32 0 0),
   .neg (a1 .i32 0 0), .abs (a1 .i8 1 0), .min (a2 .n8 0 0), .minI (ai 0 .i32 0), .max (a2 .i32 0 0), .maxI (ai 0 .n32 0),
   .add (Spec.args (ds 1) (s_ 2) (s_ 4) z0 .i64 0 0), .add (Spec.args ⟨true, .v, 1⟩ (v_ 2) (i_ 511) z0 .i32 0 0), .add { a2 .i32 0 0 with grd := 14 }]
theorem witness_IntegerArithmeticResults : ∀ i, i ∈ intInstrs → Meets (rig i) i ∧ ∃ x : Nat → Int, ∀ l, l < 32 →
    Spec.arith i (viewOf i).ty.width (Spec.int (viewOf i).ty (opA (rig i) i l).bits) (Spec.int (viewOf i).ty (opB (rig i) i l).bits)
      (Spec.int (viewOf i).ty (opC (rig i) i l).bits) = some (x l) := all_give (by decide +kernel)
theorem witness_BitwiseResults : ∀ i, i ∈ [Instr.and (a2 .b32 0 0), .andI (ai 1 .b32 0), .or (a2 .b32 0 0), .orI (ai 1 .b32 0), .xor (a2 .b32 0 0), .xorI (ai 1 .b32 0),
    .not (a1 .b32 0 0), .andn (a2 .b32 0 0), .andnI (ai 1 .b32 0)] → Meets (rig i) i ∧ ∃ x : Nat → W64, ∀ l, l < 32 →
    Spec.bitwise i (opA (rig i) i l).bits (opB (rig i) i l).bits = some (x l) := all_give (by decide +kernel)
theorem witness_ShiftAndFieldResults : ∀ i, i ∈ [Instr.shl (a2 .b32 0 0), .shlI (ai 32 .b32 0), .shr (a2 .b32 0 0), .shrI (ai 0 .b32 0), .sar (a2 .i32 0 0), .sarI (ai 64 .i32 0),
    .rol (a2 .b32 0 0), .rolI (ai 0xFFFFFFFF .b32 0), .bfx (a3 .i32 0 0), .bfi (a3 .b32 0 0), .popc (a1 .b32 0 0), .clz (a1 .b32 0 0), .brev (a1 .b32 0 0)] →
    Meets (rig i) i ∧ ∃ x : Nat → W64, ∀ l, l < 32 →
    Spec.shift i (viewOf i).ty (opA (rig i) i l).bits (opB (rig i) i l).bits (opC (rig i) i l).bits = some (x l) := all_give (by decide +kernel)
/-- Division by 2, and by 0 without .CHK. -/
theorem witness_DivisionResults : ∀ i, i ∈ [Instr.div (a2 .i32 0 0), .rem (a2 .n32 0 0)] →
    (∃ s, Meets s i ∧ (∀ l, l < 32 → Spec.int (viewOf i).ty (opB s i l).bits ≠ 0) ∧
      ∃ x : Nat → Int, ∀ l, l < 32 → Spec.divide i (Spec.int (viewOf i).ty (opA s i l).bits) (Spec.int (viewOf i).ty (opB s i l).bits) = some (x l)) ∧
    ∃ s, Meets s i ∧ (∀ l, l < 32 → Spec.int (viewOf i).ty (opB s i l).bits = 0) ∧ (viewOf i).opt.getLsbD 0 = false ∧
      ∃ x : Nat → Int, ∀ l, l < 32 → Spec.divideByZero i (Spec.int (viewOf i).ty (opA s i l).bits) = some (x l) := by
  intro i h
  have b : ∀ i, i ∈ [Instr.div (a2 .i32 0 0), .rem (a2 .n32 0 0)] → ∀ l, l < 32 → Spec.int (viewOf i).ty (opB (rig i (vs [(4, 2)])) i l).bits ≠ 0 := by decide +kernel
  have c : ∀ i, i ∈ [Instr.div (a2 .i32 0 0), .rem (a2 .n32 0 0)] → (∀ l, l < 32 → Spec.int (viewOf i).ty (opB (rig i) i l).bits = 0) ∧ (viewOf i).opt.getLsbD 0 = false := by
    decide +kernel
  have m := all_give (l := [Instr.div (a2 .i32 0 0), .rem (a2 .n32 0 0)]) (r := fun i => rig i (vs [(4, 2)]))
    (f := fun i l => Spec.divide i (Spec.int (viewOf i).ty (opA (rig i (vs [(4, 2)])) i l).bits) (Spec.int (viewOf i).ty (opB (rig i (vs [(4, 2)])) i l).bits)) (by decide +kernel) i h
  have n := all_give (l := [Instr.div (a2 .i32 0 0), .rem (a2 .n32 0 0)]) (r := fun i => rig i)
    (f := fun i l => Spec.divideByZero i (Spec.int (viewOf i).ty (opA (rig i) i l).bits)) (by decide +kernel) i h
  exact ⟨⟨_, m.1, b i h, m.2⟩, _, n.1, (c i h).1, (c i h).2, n.2⟩
theorem witness_PredicateMoveAndAddressResults : ∀ i, i ∈ [Instr.cmp (Spec.args (dp 6) (v_ 2) (v_ 4) z0 .i8 5 0), .cmpI (Spec.argsI 7 (dp 0) (v_ 2) 1 .n64 0),
    .plop (Spec.args (dp 1) (p_ 0) (p_ 7) (p_ 1) .none 0 255), .sel (Spec.args (dv 1) (v_ 2) (v_ 4) (p_ 7) .b32 0 0), .mov (a1 .b32 0 0),
    .mov (Spec.args ⟨false, .sys, 0x13⟩ (v_ 4) z0 z0 .b64 0 0), .movi (Spec.argsI 7 (dv 1) z0 1 .b32 0), .lea (Spec.args (dv 2) (v_ 4) (v_ 6) (v_ 7) .none 0 12),
    .leaI (Spec.argsI 7 (dv 2) (v_ 4) 1 .none 0), .icvt (a1 .i8 0 7)] → Meets (rig i) i := all_meet (by decide +kernel)

def fltInstrs : List Instr := [.fadd (a2 .f32 7 0), .faddI (ai 1 .f32 0), .fsub (a2 .f16 0 0), .fsubI (ai 1 .f32 0), .fmul (a2 .bf16 0 0), .fmulI (ai 1 .f32 2), .ffma (a3 .f32 0 0)]
theorem witness_FloatSums : ∀ i, i ∈ fltInstrs → Meets (rig i) i ∧ ∃ x : Nat → FVal, ∀ l, l < 32 →
    Spec.floatExact i (viewOf i).rnd (Spec.value (viewOf i).ty (viewOf i).flg (opA (rig i) i l).bits)
      (Spec.value (viewOf i).ty (viewOf i).flg (operandB (rig i) (hereOf (rig i)) (viewOf i) (specOf i) (some (viewOf i).rnd) l).bits)
      (Spec.value (viewOf i).ty (viewOf i).flg (opC (rig i) i l).bits) = some (x l) :=
  haveI : Inhabited FVal := ⟨.nan⟩; all_give (by decide +kernel)
theorem witness_FloatAndPackedResults : ∀ i, i ∈ [Instr.frnd (a1 .f32 6 0), .fscl (a2 .f32 0 0), .fmin (a2 .f32 0 0), .fminI (ai 0 .f32 0), .fmax (a2 .f32 1 0), .fmaxI (ai 0 .f32 0),
    .fcmp (Spec.args (dp 1) (v_ 2) (v_ 4) z0 .f32 7 0), .fcmpI (Spec.argsI 7 (dp 1) (v_ 2) 0 .f32 6), .fclass (a1 .f4 0 0), .fcvt (a1 .f4 1 12), .fcvt (a1 .f16 1 16),
    .f2i (a1 .n32 6 12), .i2f (a1 .f32 4 3), .hvadd (a2 .f16 0 0), .hvmul (a2 .f16 0 0), .hvfma (a3 .f16 0 0), .hvmin (a2 .f16 0 0), .hvmax (a2 .bf16 0 0),
    .dp8 (Spec.args (dv 9) (v_ 4) (v_ 6) (v_ 7) .i32 1 2), .dp4 (Spec.args (dv 9) (v_ 4) (v_ 6) (v_ 8) .i32 0 10), .fdp8 (a3 .f32 0 3), .fdp4 (a3 .f32 6 0), .pack (a3 .f4 1 3),
    .pack (a3 .i16 0 0), .unpk (a1 .f4 0 7), .xscl (a2 .f32 0 3)] → Meets (rig i) i := all_meet (by decide +kernel)
theorem witness_SpecialFunctionsComplete : ∀ i, i ∈ [Instr.frcp (a1 .f32 6 0), .frsq (a1 .f32 1 0), .fsqrt (a1 .f32 2 0), .fex2 (a1 .f32 0 0), .flg2 (a1 .f32 0 0), .fsin (a1 .f32 0 0),
    .fcos (a1 .f32 0 0)] → Meets (rig i) i ∧ ∃ x : Nat → Nat, ∀ l, l < 32 →
    Spec.special i (Spec.value .f32 (viewOf i).flg (opA (rig i) i l).bits) ((opA (rig i) i l).bits.toNat % 2 ^ 32) (viewOf i).rnd (viewOf i).flg = some (x l) :=
  all_give (by decide +kernel)
/-- 448, the greatest finite F8E4, in units of 2^-9; twice as much overflows. -/
theorem witness_Rounding : fmtF8E4 ∈ Spec.formats ∧ (7 : Nat) ≠ 0 ∧ (-9 : Int) ≤ 6 ∧ (-9 : Int) ≤ fmtF8E4.emin ∧
    (Spec.units (-9) (.fin true 7 6)).natAbs ≤ (Spec.units (-9) (valueOf fmtF8E4 fmtF8E4.maxMag false)).natAbs ∧
    ((valueOf fmtF8E4 fmtF8E4.maxMag false).units (-9)).natAbs * 2 ≤ ((FVal.fin true 7 7).units (-9)).natAbs := by decide +kernel
def xaInstrs : List Instr := [.xacc (Spec.args (dv 52) (v_ 16) (v_ 1) z0 .f32 0 0), .xadd (Spec.args (dv 0) (v_ 16) (v_ 28) z0 .xa320 0 0), .xrnd (Spec.args (dv 1) (v_ 52) z0 z0 .bf16 0 0),
    .xclr (Spec.args (dv 52) z0 z0 z0 .xa320 0 0)]
theorem witness_AccumulatorResults : (∀ i, i ∈ xaInstrs → Meets (rig i) i) ∧ ∀ i, i ∈ xaInstrs → ∀ l, l < 32 → ∀ j, j < 12 →
    (((hereOf (rig i)).r.thread l).vreg ((viewOf i).sa.idx.toNat + j)).psn = false ∧ (((hereOf (rig i)).r.thread l).vreg ((viewOf i).sbSrc.idx.toNat + j)).psn = false :=
  ⟨all_meet (by decide +kernel), by decide +kernel⟩
theorem witness_AccumulationIsOrderFree : ∃ (xs ys : List FVal) (z : XA), xs.Perm ys ∧ xs ≠ ys ∧ (∀ x ∈ xs, ∃ b, b < 2 ^ 32 ∧ x = valueOf fmtF32 b false) ∧
    z.val.natAbs + xs.length * 2 ^ 278 < 2 ^ 319 :=
  ⟨[valueOf fmtF32 0x3F800000 false, valueOf fmtF32 1 false], [valueOf fmtF32 1 false, valueOf fmtF32 0x3F800000 false], XA.zero, .swap _ _ _, by decide +kernel,
    by intro x h; simp only [List.mem_cons, List.not_mem_nil, or_false] at h; exact h.elim (fun h => ⟨0x3F800000, by decide, h⟩) fun h => ⟨1, by decide, h⟩, by decide +kernel⟩

-- Parts of results

def isOkA {α : Type} : Acc α → Bool
  | .ok _ _ => true
  | _ => false
def stA {α : Type} : Acc α → State
  | .ok s _ => s
  | _ => State.reset
theorem okA {α : Type} {x : Acc α} (h : isOkA x = true) : ∃ a, x = .ok (stA x) a := by
  cases x with
  | ok s a => exact ⟨a, rfl⟩
  | bad => cases h
  | wait => cases h
def isOkE {α ε : Type} : Acc (Except ε α) → Bool
  | .ok _ (.ok _) => true
  | _ => false
theorem okE {α ε : Type} {x : Acc (Except ε α)} (h : isOkE x = true) : ∃ a, x = .ok (stA x) (.ok a) := by
  cases x with
  | ok s a => cases a with
    | ok a => exact ⟨a, rfl⟩
    | error => cases h
  | bad => cases h
  | wait => cases h
/-- The value of an access. -/
def vA {α ε : Type} [Inhabited α] : Acc (Except ε α) → α
  | .ok _ (.ok a) => a
  | _ => default
theorem okE' {α ε : Type} [Inhabited α] {x : Acc (Except ε α)} (h : isOkE x = true) : x = .ok (stA x) (.ok (vA x)) := by
  cases x with
  | ok s a => cases a with
    | ok a => rfl
    | error => cases h
  | bad => cases h
  | wait => cases h
def vN {α : Type} [Inhabited α] : Acc α → α
  | .ok _ a => a
  | _ => default
theorem okN {α : Type} [Inhabited α] {x : Acc α} (h : isOkA x = true) : x = .ok (stA x) (vN x) := by
  cases x with
  | ok s a => rfl
  | bad => cases h
  | wait => cases h
theorem okU {x : Acc Unit} (h : isOkA x = true) : x = .ok (stA x) () := okN h
def isOkF {α : Type} : Frame α → Bool
  | .ok _ _ => true
  | _ => false
def stF {α : Type} : Frame α → State
  | .ok s _ => s
  | _ => State.reset
theorem okF {x : Frame Unit} (h : isOkF x = true) : x = .ok (stF x) () := by
  cases x with
  | ok s a => rfl
  | fail => cases h
  | wait => cases h

def loadsB (x : Frame (List (Nat × Bool))) (ws : List (Nat × Bool)) : Bool :=
  match x with
  | .ok _ y => y == ws
  | _ => false
theorem loads_of {x : Frame (List (Nat × Bool))} {ws : List (Nat × Bool)} (e : loadsB x ws = true) : ∃ m, x = .ok m ws ∧ m = stF x := by
  cases x with
  | ok s y => exact ⟨s, by rw [beq_iff_eq.mp e], rfl⟩
  | fail => cases e
  | wait => cases e

theorem one {R : State → Nat → State → Prop} {g : List Nat} {s t : State} (e : g = [0]) (h : R s 0 t) : InOrder R g s t := by
  subst e
  exact ⟨t, h, rfl⟩

/-- The lanes whose guard is true. -/
def lanesG (s : State) (i : Instr) : List Nat := lanesOf (guardMask (viewOf i).grd (hereOf s).r)
def here (s : State) (i : Instr) : Prop := Ready s (hereOf s) i (viewOf i) (specOf i)

def targetB (s : State) (h : Here) (x : W64) (land : Bool) : Bool :=
  x.toNat % 4 == 0 && decide (x.toNat < 2 ^ 57) && match (s.fetch h.c h.f.ctx (x.setWidth 57)).2 with
    | .ok w => !land || w.getLsbD 85
    | _ => false
theorem target_of {s : State} {h : Here} {x : W64} {land : Bool} (e : targetB s h x land = true) :
    Spec.target s h x land (s.fetch h.c h.f.ctx (x.setWidth 57)).1 := by
  simp only [targetB, Bool.and_eq_true, beq_iff_eq, decide_eq_true_eq] at e
  refine ⟨e.1.1, e.1.2, ?_⟩
  have e2 := e.2
  cases h2 : (s.fetch h.c h.f.ctx (x.setWidth 57)) with
  | mk a b =>
    rw [h2] at e2
    cases b with
    | ok w =>
      refine ⟨w, rfl, fun l => ?_⟩
      simpa [l] using e2
    | _ => simp at e2

-- Control

def bra : Instr := .bra (jump 0xFFFFFC00)
def brx : Instr := .brx (Spec.args no (v_ 2) z0 z0 .none 0 0)
def atLand (i : Instr) : State := rig1 i (vs [(2, 0x3000), (3, 0)]) (code 0x3000 (.nop (land' (a0 .none 0 0))))
theorem witness_BranchesComplete :
    (∃ s s', here s bra ∧ InOrder (fun t _ t' => Spec.target t (hereOf s) (Spec.relative (hereOf s).r.addr 0xFFFFFC00) false t') (lanesG s bra) s s') ∧
    ∃ s s', Meets s brx ∧ InOrder (fun t l t' => Spec.target t (hereOf s) (opA s brx l).bits true t') (lanesG s brx) s s' :=
  ⟨⟨rig1 bra, _, ready_of (by decide +kernel), one (by decide +kernel) (target_of (by decide +kernel))⟩,
    ⟨atLand brx, _, meets_of (by decide +kernel), one (by decide +kernel) (target_of (by decide +kernel))⟩⟩

theorem push_of {s : State} {h : Here} {x : W64} {land : Bool} {sp : W64} (e : targetB s h x land = true)
    (f : isOkF ((s.fetch h.c h.f.ctx (x.setWidth 57)).1.storeWords h.c h.f.ctx sp [h.r.after.toNat, 0]) = true) :
    ∃ t m, Spec.target s h x land m ∧ m.storeWords h.c h.f.ctx sp [h.r.after.toNat, 0] = .ok t () :=
  ⟨_, _, target_of e, okF f⟩
def call : Instr := .call (jump 6)
def callx : Instr := .callx (Spec.args no (v_ 2) z0 z0 .none 0 0)
def ret : Instr := .ret (a0 .none 0 0)
theorem witness_CallsAndReturnsComplete :
    let push (h : Here) (x : Nat → W64) (land : Bool) (t : State) (l : Nat) (t' : State) : Prop :=
      ∃ m, Spec.target t h (x l) land m ∧ m.storeWords h.c h.f.ctx ((h.r.thread l).sp - 16) [h.r.after.toNat, 0] = .ok t' ()
    (∀ i, i ∈ [call, callx, ret] → ∀ l, l < 32 → ((hereOf (atLand i)).r.thread l).sp.toNat % 16 = 0) ∧
    (∃ s', here (atLand call) call ∧ InOrder (push (hereOf (atLand call)) (fun _ => Spec.relative (hereOf (atLand call)).r.addr 6) false) (lanesG (atLand call) call) (atLand call) s') ∧
    (∃ s', Meets (atLand callx) callx ∧ InOrder (push (hereOf (atLand callx)) (fun l => (opA (atLand callx) callx l).bits) true) (lanesG (atLand callx) callx) (atLand callx) s') ∧
    ∃ (s s' : State) (x : Nat → Nat), here s ret ∧ InOrder (fun t l t' => ∃ m, t.loadWords (hereOf s).c (hereOf s).f.ctx ((hereOf s).r.thread l).sp 1 = .ok m [(x l, false)] ∧
      Spec.target m (hereOf s) (BitVec.ofNat 64 (x l)) false t') (lanesG s ret) s s' := by
  refine ⟨by decide +kernel, ?_, ?_, ?_⟩
  · obtain ⟨t, m, h⟩ := push_of (s := atLand call) (h := hereOf (atLand call)) (x := Spec.relative (hereOf (atLand call)).r.addr 6) (land := false)
      (sp := ((hereOf (atLand call)).r.thread 0).sp - 16) (by decide +kernel) (by decide +kernel)
    exact ⟨t, ready_of (by decide +kernel), one (by decide +kernel) ⟨m, h⟩⟩
  · obtain ⟨t, m, h⟩ := push_of (s := atLand callx) (h := hereOf (atLand callx)) (x := (opA (atLand callx) callx 0).bits) (land := true)
      (sp := ((hereOf (atLand callx)).r.thread 0).sp - 16) (by decide +kernel) (by decide +kernel)
    exact ⟨t, meets_of (by decide +kernel), one (by decide +kernel) ⟨m, h⟩⟩
  · let s := rig1 ret id (put 0x80000 [0x24, 0x30])
    have h : ∃ m, s.loadWords (hereOf s).c (hereOf s).f.ctx ((hereOf s).r.thread 0).sp 1 = .ok m [(0x3024, false)] ∧ m = stF (s.loadWords (hereOf s).c (hereOf s).f.ctx ((hereOf s).r.thread 0).sp 1) :=
      loads_of (by decide +kernel)
    obtain ⟨m, h, e⟩ := h
    exact ⟨s, _, fun _ => 0x3024, ready_of (by decide +kernel), one (by decide +kernel) ⟨m, h, target_of (by rw [e]; decide +kernel)⟩⟩

def sleep (n : Nat) : Instr := .sleep (Spec.args no (i_ n) z0 z0 .none 0 0)
def sleepCount (s : State) (n l : Nat) : Nat := if (opA s (sleep n) l).psn then 0 else (opA s (sleep n) l).bits.toNat % 2 ^ 32
/-- Thread 0 of the placed flight sleeps for 5 cycles from clock 0; the clock stands at n. -/
def asleep (n : Nat) : State :=
  let s := { State.reset.placeWord 0 with clock := n }
  s.setFlight 0 0 (placedFlight.setThread 0 { placedFlight.thread 0 with hold := .sleep 0 5 ⟨0, [], [], 0x100C⟩ })
theorem witness_YieldAndSleep :
    here (rig (.nop (a0 .none 0 0))) (.nop (a0 .none 0 0)) ∧ here (rig (.yield (a0 .none 0 0))) (.yield (a0 .none 0 0)) ∧
    (here (rig (sleep 1)) (sleep 1) ∧ guardMask 7 (hereOf (rig (sleep 1))).r = (hereOf (rig (sleep 1))).r.exec ∧ (hereOf (rig (sleep 1))).r.isLast = true ∧
      ∀ l, l < 32 → sleepCount (rig (sleep 1)) 1 l ≠ 0) ∧
    (here (rig (sleep 0)) (sleep 0) ∧ ∀ l, l < 32 → sleepCount (rig (sleep 0)) 0 l = 0) ∧
    (∀ n, n < 6 → ∃ f, (asleep n).flight? 0 0 = some f ∧ (f.thread 0).hold = .sleep 0 5 ⟨0, [], [], 0x100C⟩) :=
  ⟨ready_of (by decide +kernel), ready_of (by decide +kernel), ⟨ready_of (by decide +kernel), by decide +kernel, by decide +kernel, by decide +kernel⟩,
    ⟨ready_of (by decide +kernel), by decide +kernel⟩, fun n _ => ⟨placedFlight.setThread 0 { placedFlight.thread 0 with hold := .sleep 0 5 ⟨0, [], [], 0x100C⟩ }, rfl, by decide +kernel⟩⟩
def exit : Instr := .exit (a0 .none 0 0)
theorem witness_ExitEndsThreads : (here (rig1 exit) exit ∧ (hereOf (rig1 exit)).r.isLast = true ∧
      ∃ m, m < 32 ∧ (guardMask 7 (hereOf (rig1 exit)).r).getLsbD m = false ∧ ((hereOf (rig1 exit)).f.thread m).live = true) ∧
    here (rig exit) exit ∧ (hereOf (rig exit)).r.isLast = true ∧ ∀ m, m < 32 → (guardMask 7 (hereOf (rig exit)).r).getLsbD m = true :=
  ⟨⟨ready_of (by decide +kernel), by decide +kernel, 31, by decide +kernel⟩, ready_of (by decide +kernel), by decide +kernel, by decide +kernel⟩

-- Traps

/-- Thread 0 with a depth and a stack pointer: depth 7; a stack that is mapped; a stack that is not. -/
def deep (d : Nat) (sp : W64) : State := (State.reset.placeWord 0).setFlight 0 0 (placedFlight.setThread 0 { placedFlight.thread 0 with depth := d, sp := sp })
def failsF {α : Type} : Frame α → Bool
  | .fail .. => true
  | _ => false
theorem failF {x : Frame Unit} (h : failsF x = true) : ∃ s k m st g, x = .fail s k m st g := by
  cases x with
  | ok => cases h
  | fail s k m st g => exact ⟨s, k, m, st, g, rfl⟩
  | wait => cases h
theorem witness_TakingATrap : ∃ f : Nat → W64 → Flight, ∀ d sp, (deep d sp).flight? 0 0 = some (f d sp) ∧ ((f d sp).thread 0).depth = d ∧ ((f d sp).thread 0).sp = sp :=
  ⟨fun d sp => placedFlight.setThread 0 { placedFlight.thread 0 with depth := d, sp := sp }, fun _ _ => ⟨rfl, rfl, rfl⟩⟩
theorem witness_TakingATrap_frames :
    (∃ s, (deep 6 0x80007).storeWords 0 21 0x7FFE0 (Spec.frame (((deep 6 0x80007).flight? 0 0).getD Flight.fresh |>.thread 0) 0x1000) = .ok s ()) ∧
    ∃ s k m st g, (deep 0 0x40000000).storeWords 0 21 0x40000000 (Spec.frame (((deep 0 0x40000000).flight? 0 0).getD Flight.fresh |>.thread 0) 0x1000) = .fail s k m st g :=
  ⟨⟨_, okF (by decide +kernel)⟩, failF (by decide +kernel)⟩
def trap : Instr := .trap (a0 .none 0 1)
def bkpt : Instr := .bkpt (a0 .none 0 0)
theorem witness_TrapAndBreakpoint : ∀ i, i ∈ [trap, bkpt] → here (rig i) i ∧ (hereOf (rig i)).r.isLast = true := by
  intro i h
  exact ⟨(all_meet (l := [trap, bkpt]) (r := fun i => rig i) (by decide +kernel) i h).1,
    (by decide +kernel : ∀ i, i ∈ [trap, bkpt] → (hereOf (rig i)).r.isLast = true) i h⟩
def rtt : Instr := .rtt (a0 .none 0 0)
def inHandler : State := rig1 rtt trapped (fun s => put 0x7FFE0 [0x24, 0x30] (put 0x7FFF0 [7] (put 0x7FFF8 [0, 0, 8] s)))
theorem witness_ReturnFromTrap :
    let s := inHandler
    let h := hereOf s
    let w (_ k : Nat) : Nat := [0x3024, 0, 7, 0x80000].getD k 0
    here s rtt ∧ (∀ l, l ∈ lanesG s rtt → (h.r.thread l).depth ≠ 0 ∧ (h.r.thread l).sp.toNat % 16 = 0) ∧ ∃ s' f,
    InOrder (fun t l t' => ∃ m1 m2 x, t.loadWords h.c h.f.ctx (h.r.thread l).sp 4 = .ok m1 [(w l 0, false), (w l 1, false), (w l 2, false), (w l 3, false)] ∧
      Spec.target m1 h (BitVec.ofNat 64 (w l 0)) false m2 ∧ m2.flight? h.c h.fid = some x ∧
      t' = m2.setFlight h.c h.fid (x.setThread l (Spec.returned (x.thread l) (w l)))) (lanesG s rtt) s s' ∧ s'.flight? h.c h.fid = some f := by
  intro s h w
  obtain ⟨m1, hl, e⟩ := loads_of (x := s.loadWords h.c h.f.ctx (h.r.thread 0).sp 4) (ws := [(w 0 0, false), (w 0 1, false), (w 0 2, false), (w 0 3, false)]) (by decide +kernel)
  have ht := target_of (s := m1) (h := h) (x := BitVec.ofNat 64 (w 0 0)) (land := false) (by rw [e]; decide +kernel)
  have hf : ∃ x, (m1.fetch h.c h.f.ctx ((BitVec.ofNat 64 (w 0 0)).setWidth 57)).1.flight? h.c h.fid = some x :=
    Option.isSome_iff_exists.mp (by rw [e]; decide +kernel)
  obtain ⟨x, hx⟩ := hf
  refine ⟨ready_of (by decide +kernel), by decide +kernel, _, x.setThread 0 (Spec.returned (x.thread 0) (w 0)), one (by decide +kernel) ⟨m1, _, x, hl, ht, hx, rfl⟩, ?_⟩
  simp [State.flight?, State.setFlight, State.core, State.setCore]

-- Steps

theorem witness_encoding : (bra.wf = true ∧ hasWord bra = true) ∧ decodeWord (encode bra) = .ok bra ∧ (hntField (encode bra)).run = 0 ∧
    (allocated ((encode (.nop (a0 .none 0 0))).toNat % 1024) = true ∧ (Spec.word 0 0 0x00400000).toNat / 2 ^ 86 ≠ 0 ∧ 20 < (Spec.word 0 0 0x00002A00).toNat / 2 ^ 73 % 32) ∧
    allocated 0x1F = false := by decide +kernel

/-- A placed word, with the next turn given to its slot. -/
def placed (i : Instr) : State := State.reset.placeWord (encode i)
def unturned (i : Instr) : State := { placed i with turns := [] }
def nop : Instr := .nop (a0 .none 0 0)
theorem witness_StepRuns_issue : ∃ (s u t : State) (p : Nat) (ex others : W32) (rf : RunFetch) (f : Flight) (ws : List W96), Spec.turn s (.issue 0 0) u ∧ s.recovery = false ∧
    (∀ g x, (s.core 0).flights.get? g = some x → x.slot = 0 → x.run = none) ∧ u.pickFlight 0 0 = some (0, p, ex, others, rf) ∧ u.flight? 0 0 = some f ∧
    canonical (s.ctx f.ctx).tvec = true ∧ u.fetchRun 0 f.ctx (BitVec.ofNat 57 p) = (t, .ok ws) ∧ runBreaks ws = false ∧ decodeWord (ws.headD 0) = .ok nop := by
  have h1 : ∃ p ex others rf, (unturned nop).pickFlight 0 0 = some (0, p, ex, others, rf) := by
    cases h : (unturned nop).pickFlight 0 0 with
    | none => exact absurd h (by decide +kernel)
    | some x =>
      have e : (match (unturned nop).pickFlight 0 0 with
        | some x => x.1 == 0
        | none => true) = true := by decide +kernel
      rw [h] at e
      obtain ⟨a, p, ex, o, rf⟩ := x
      simp only [beq_iff_eq] at e
      subst e
      exact ⟨p, ex, o, rf, rfl⟩
  obtain ⟨p, ex, others, rf, hp⟩ := h1
  have hpc : p = 0x1000 := by
    have e : (match (unturned nop).pickFlight 0 0 with
      | some x => x.2.1 == 0x1000
      | none => true) = true := by decide +kernel
    rw [hp] at e
    exact beq_iff_eq.mp e
  have h2 : ∃ ws, (unturned nop).fetchRun 0 21 0x1000 = (((unturned nop).fetchRun 0 21 0x1000).1, .ok ws) ∧ runBreaks ws = false ∧ decodeWord (ws.headD 0) = .ok nop := by
    have e : (match ((unturned nop).fetchRun 0 21 0x1000).2 with
      | .ok ws => !runBreaks ws && decodeWord (ws.headD 0) == .ok nop
      | _ => false) = true := by decide +kernel
    cases h : ((unturned nop).fetchRun 0 21 0x1000).2 with
    | ok ws =>
      rw [h] at e
      simp only [Bool.and_eq_true, Bool.not_eq_true', beq_iff_eq] at e
      exact ⟨ws, by rw [← h], e⟩
    | _ => rw [h] at e; cases e
  obtain ⟨ws, hw, hb, hd⟩ := h2
  refine ⟨placed nop, unturned nop, _, p, ex, others, rf, placedFlight, ws, ⟨[], rfl, rfl⟩, rfl, ?_, hp, rfl, by decide +kernel, by rw [hpc]; exact hw, hb, hd⟩
  intro g x h _
  have : x = placedFlight := by
    have e : (State.core (placed nop) 0).flights.get? g = if 0 = g then some placedFlight else none := by simp [placed, State.placeWord, State.core, KMap.single]
    rw [e] at h
    split at h <;> simp_all
  rw [this]
  rfl
/-- A run in progress on the slot; an engine thread at its turn; an event. -/
theorem witness_StepRuns_member : let s := { rig nop with turns := [.issue 0 0] }
    ∃ f r, Spec.turn s (.issue 0 0) { s with turns := [] } ∧ s.recovery = false ∧ ({ s with turns := [] } : State).mayRun f.ctx = true ∧
      (s.core 0).flights.get? 0 = some f ∧ f.slot = 0 ∧ f.run = some r ∧ r.waiting = false ∧
      (∀ g x, (s.core 0).flights.get? g = some x → x.slot = 0 → x.run.isSome = true → g = 0) ∧ decodeWord (r.words.getD r.pos 0) = .ok nop := by
  refine ⟨(hereOf (rig nop)).f, (hereOf (rig nop)).r, ⟨[], rfl, rfl⟩, rfl, by decide +kernel, by decide +kernel, by decide +kernel, by decide +kernel, by decide +kernel, ?_, by decide +kernel⟩
  intro g x h _ _
  have e : ((rig nop).core 0).flights.get? g = if 0 = g then ((rig nop).core 0).flights.get? 0 else none := by
    simp [rig, rigN, State.placeWord, State.core, KMap.single]
  by_cases c : 0 = g
  · exact c.symm
  · rw [show (({ rig nop with turns := [.issue 0 0] } : State).core 0).flights.get? g = _ from e, if_neg c] at h
    cases h
def eend : Instr := .eend (a0 .none 0 0)
theorem witness_StepRuns_engine : let s := placed eend
    let u := unturned eend
    Spec.turn s (.engine 0 0) u ∧ s.recovery = false ∧ u.nextEngine 0 = some 0 ∧
      (({ u.setCore 0 { u.core 0 with engTurn := (0 + 1) % 8 } with cur := ⟨0, 0, true⟩ } : State).fetch 0 (s.eng 0 0).ctx (s.eng 0 0).pc).2 = .ok (encode eend) ∧
      decodeWord (encode eend) = .ok eend := ⟨⟨[], rfl, rfl⟩, rfl, by decide +kernel, by decide +kernel, by decide +kernel⟩
theorem witness_StepRuns_event : ∃ s u, Spec.turn s (.event (.sleepExpiry 0 0 0)) u ∧ isEvent (.sleepExpiry 0 0 0) = true ∧ State.reset.turns = [] :=
  ⟨{ State.reset with turns := [.event (.sleepExpiry 0 0 0)] }, State.reset, ⟨[], rfl, rfl⟩, rfl, rfl⟩

-- The checks before an effect

/-- What `ChecksBeforeTheEffect` asks: a member with its view. -/
def seen (s : State) (i : Instr) : Prop := s.here? = some (hereOf s) ∧ i.view? = some (viewOf i, specOf i)
theorem seen_of {s : State} {i : Instr} (e : (s.here?.isSome && i.view?.isSome) = true) : seen s i := by
  rw [Bool.and_eq_true] at e
  obtain ⟨⟨h, hh⟩, ⟨x, hx⟩⟩ := And.intro (Option.isSome_iff_exists.mp e.1) (Option.isSome_iff_exists.mp e.2)
  exact ⟨by simp [hereOf, hh], by simp [viewOf, specOf, hx]⟩
/-- A fork instruction's racking form in a flight, a latch read by a first member, a CSRR of a context above 20, a word whose operands are illegal. -/
def csrr : Instr := .csrr (Spec.args (ds 1) (s_ 2) z0 z0 .none 0 0)
theorem witness_illegal :
    (∃ s i, seen s i ∧ (specOf i).engine = true) ∧ (∃ s i, seen s i ∧ latchOk (viewOf i) (specOf i) (hereOf s).r.pos = false) ∧
    (∃ s, seen s csrr ∧ Spec.systemInstr csrr ∧ 20 < (hereOf s).f.ctx) ∧ ∃ s i, seen s i ∧ (specOf i).legal (viewOf i) = false :=
  ⟨⟨rig (.eadd e2), .eadd e2, seen_of (by decide +kernel), by decide⟩,
    ⟨rig (.add (Spec.args (dv 1) (l_ 0) (v_ 2) z0 .i32 0 0)), .add (Spec.args (dv 1) (l_ 0) (v_ 2) z0 .i32 0 0), seen_of (by decide +kernel), by decide +kernel⟩,
    ⟨rig csrr, seen_of (by decide +kernel), ⟨_, .inl rfl⟩, by decide +kernel⟩, ⟨rig (.add (a2 .f32 0 0)), .add (a2 .f32 0 0), seen_of (by decide +kernel), by decide⟩⟩
/-- Legal members of a run's first place: every guard false; a guard that is not uniform; a register above the allotment. -/
def lawful (s : State) (i : Instr) : Prop := seen s i ∧ (specOf i).legal (viewOf i) = true ∧ (specOf i).engine = false ∧ latchOk (viewOf i) (specOf i) (hereOf s).r.pos = true ∧
  (hereOf s).r.pos = 0 ∧ (hereOf s).f.ctx = 21
def never : Instr := .add { a2 .i32 0 0 with grd := 0 }
def voteHalf : Instr := .vote { Spec.args (dp 1) (p_ 2) z0 z0 .none 0 0 with grd := 0 }
def half (l : Nat) : BitVec 7 := if l < 16 then 1 else 0
theorem witness_guards : (lawful (rig never) never ∧ guardMask 0 (hereOf (rig never)).r = 0 ∧ (hereOf (rig never)).r.exec ≠ 0) ∧
    (lawful (rig voteHalf (ps half)) voteHalf ∧ (specOf voteHalf).wide = true ∧ guardMask 0 (hereOf (rig voteHalf (ps half))).r = 0xFFFF) ∧
    ∃ s i, lawful s i ∧ guardMask 7 (hereOf s).r = (hereOf s).r.exec ∧ overAllot (specOf i) (viewOf i) (hereOf s).f.allot = some 2 :=
  ⟨⟨⟨seen_of (by decide +kernel), by decide +kernel⟩, by decide +kernel⟩, ⟨⟨seen_of (by decide +kernel), by decide +kernel⟩, by decide +kernel⟩,
    rig (.add (Spec.args (dv 1) (v_ 2) (v_ 16) z0 .i32 0 0)) (fun f => { f with allot := 16 }), .add (Spec.args (dv 1) (v_ 2) (v_ 16) z0 .i32 0 0),
    ⟨seen_of (by decide +kernel), by decide +kernel⟩, by decide +kernel⟩
/-- An engine thread without transfers and with one; its lantern takes the record. -/
theorem witness_engFault : (∃ g, ((rack eend).core 0).engs.get? 0 = some g ∧ g.slots.entries = [] ∧ (rack eend).cur = ⟨0, 0, true⟩ ∧
      ∀ cause, cause ∈ [1, 3, 4] → ∃ s1 seq, (rack eend).lantern g.ctx { ty := 3, kind := 0, cause := cause, stage := 0, core := 0, flight := g.flight } = .ok s1 seq) ∧
    (eend.view?.isSome = true ∧ (specOf nop).engine = false) ∧ ∃ g, ((nextOf (exec tcopy tcopied)).core 0).engs.get? 0 = some g ∧ g.slots.entries ≠ [] := by
  refine ⟨⟨(rack eend).eng 0 0, by decide +kernel, by decide +kernel, rfl, ?_⟩, by decide +kernel, ⟨(nextOf (exec tcopy tcopied)).eng 0 0, by decide +kernel, by decide +kernel⟩⟩
  have e : ∀ cause, cause ∈ [1, 3, 4] → isOkA ((rack eend).lantern 21 { ty := 3, kind := 0, cause := cause, stage := 0, core := 0, flight := 0 }) = true := by decide +kernel
  intro cause h
  obtain ⟨a, h⟩ := okA (e cause h)
  exact ⟨_, a, h⟩

-- Poison and refused operands

def isPoisoned (f : Flight) : Flight := vAll 4 (fun _ => 0x7FFFFFF3) true f
theorem witness_PoisonPropagates : (∀ i, i ∈ [Instr.add (a2 .i32 0 0), .faddI (Spec.argsI 7 (dv 1) (v_ 4) 0 .f32 0), .div (a2 .i32 0 0), .sel (Spec.args (dv 1) (v_ 2) (v_ 4) (p_ 0) .b32 0 0),
      .mov (Spec.args (dv 1) (v_ 4) z0 z0 .b32 0 0)] → here (rig i isPoisoned) i ∧ (viewOf i).dst.cls = .v) ∧
    Spec.dataflow (viewOf (.add (a2 .i32 0 0))) (.add (a2 .i32 0 0)) false ∧ Spec.dataflow (viewOf (.div (a2 .i32 0 0))) (.div (a2 .i32 0 0)) true ∧
    (∀ l, l < 32 → Spec.firstToken (rig (.add (a2 .i32 0 0)) isPoisoned) (hereOf (rig (.add (a2 .i32 0 0)) isPoisoned)) (viewOf (.add (a2 .i32 0 0))) (specOf (.add (a2 .i32 0 0))) l = some 3) ∧
    let i := Instr.cmp (Spec.args (dp 1) (v_ 2) (v_ 4) z0 .i32 0 0)
    here (rig i isPoisoned) i ∧ Spec.dataflow (viewOf i) i false ∧ ∀ l, l < 32 → ((BitVec.allOnes 32).getLsbD l = true ↔ (guardMask (viewOf i).grd (hereOf (rig i isPoisoned)).r).getLsbD l = true ∧
      (Spec.firstToken (rig i isPoisoned) (hereOf (rig i isPoisoned)) (viewOf i) (specOf i) l).isSome = true) := by
  have isAdd : Spec.dataflow (viewOf (.add (a2 .i32 0 0))) (.add (a2 .i32 0 0)) false := .inl ⟨rfl, .inl ⟨_, .inl rfl⟩⟩
  have isDiv : Spec.dataflow (viewOf (.div (a2 .i32 0 0))) (.div (a2 .i32 0 0)) true := .inr ⟨rfl, .inr ⟨⟨_, .inl rfl⟩, by decide⟩⟩
  refine ⟨?_, isAdd, isDiv, by decide +kernel, ?_, .inl ⟨rfl, .inl ⟨a2 .i32 0 0 |> fun a => { a with dst := dp 1 }, by simp [a2, Spec.args]⟩⟩, by decide +kernel⟩
  · intro i h
    have e : ∀ i, i ∈ [Instr.add (a2 .i32 0 0), .faddI (Spec.argsI 7 (dv 1) (v_ 4) 0 .f32 0), .div (a2 .i32 0 0), .sel (Spec.args (dv 1) (v_ 2) (v_ 4) (p_ 0) .b32 0 0),
      .mov (Spec.args (dv 1) (v_ 4) z0 z0 .b32 0 0)] → readyB (rig i isPoisoned) i = true ∧ (viewOf i).dst.cls = .v := by decide +kernel
    exact ⟨ready_of (e i h).1, (e i h).2⟩
  · exact ready_of (by decide +kernel)

/-- A flight of firmware, context 0. -/
def firm (f : Flight) : Flight := { f with ctx := 0 }
def refused (s : State) (i : Instr) (code opnd : Nat) : Prop := here s i ∧ Spec.refusesOperand s (hereOf s) (viewOf i) i code opnd
def alloc : Instr := .alloc (a0 .none 0 0)
def mxrel : Instr := .mxrel (a0 .none 0 0)
def rfork : Instr := .rfork (Spec.args (ds 12) (s_ 4) (s_ 8) z0 .none 0 0)
def tlbinv : Instr := .tlbinv (Spec.args no (s_ 4) z0 z0 .none 0 0)
def tgpost : Instr := .tgpost (Spec.args (ds 10) (s_ 6) z0 z0 .none 0 0)
def cdisc : Instr := .cdisc (Spec.args (ds 10) (s_ 4) (i_ 64) z0 .none 4 0)
/-- A disjunction's later parts. -/
theorem skip3 {a b c d : Prop} (h : d) : a ∨ b ∨ c ∨ d := .inr (.inr (.inr h))
theorem witness_refused_places :
    refused (rig1 alloc) alloc 5 0 ∧ refused (rig alloc fun f => { f with freed := true }) alloc 2 0 ∧ refused (rig1 rfork) rfork 5 0 ∧ refused (rig mxrel) mxrel 7 0 :=
  ⟨⟨ready_of (by decide +kernel), .inl ⟨rfl, rfl, by decide +kernel, _, .inl rfl⟩⟩,
   ⟨ready_of (by decide +kernel), .inr (.inl ⟨rfl, rfl, by decide +kernel, by decide +kernel, _, rfl⟩)⟩,
   ⟨ready_of (by decide +kernel), .inr (.inr (.inl ⟨rfl, rfl, by decide +kernel, _, .inl rfl⟩))⟩,
   ⟨ready_of (by decide +kernel), skip3 (.inl ⟨rfl, rfl, by decide +kernel, by decide +kernel, _, .inl rfl⟩)⟩⟩
theorem tlbinvSystem : Spec.systemInstr tlbinv := ⟨_, .inr (.inr (.inl rfl))⟩
theorem witness_refused_addresses :
    refused (rig rfork (ss [(4, 0x3002)])) rfork 6 1 ∧ refused (rig rfork (ss [(4, 0x8000000000000000)])) rfork 7 1 ∧
    (refused (rig tlbinv (fun f => firm (ss [(4, 4096)] f))) tlbinv 7 1 ∧ Spec.systemInstr tlbinv ∧ (hereOf (rig tlbinv (fun f => firm (ss [(4, 4096)] f)))).f.ctx ≤ 20) ∧
    refused (rig tgpost (fun f => firm (ss [(6, 0x3020)] f))) tgpost 6 1 ∧ refused (rig cdisc (ss [(4, 0x3020)])) cdisc 6 1 :=
  ⟨⟨ready_of (by decide +kernel), skip3 (.inr (.inl ⟨rfl, rfl, by decide +kernel, by decide +kernel, _, rfl⟩))⟩,
   ⟨ready_of (by decide +kernel), skip3 (.inr (.inr (.inl ⟨rfl, rfl, by decide +kernel, by decide +kernel, by decide +kernel, _, rfl⟩)))⟩,
   ⟨⟨ready_of (by decide +kernel), skip3 (skip3 (.inl ⟨rfl, rfl, fun h => absurd h.1 (by decide +kernel), .inl ⟨_, .inl rfl⟩⟩))⟩,
     tlbinvSystem, by decide +kernel⟩,
   ⟨ready_of (by decide +kernel), skip3 (skip3 (.inr ⟨rfl, rfl, by decide +kernel, _, .inl rfl⟩))⟩,
   ⟨ready_of (by decide +kernel), skip3 (skip3 (.inr ⟨rfl, rfl, by decide +kernel, _, .inr rfl⟩))⟩⟩
def divChk : Instr := .div (a2 .n32 0 1)
theorem witness_divide_check : here (rig divChk) divChk ∧ (viewOf divChk).opt.getLsbD 0 = true ∧ (specOf divChk).isScalar (viewOf divChk) = false ∧
    ∀ l, l < 32 → ((BitVec.allOnes 32).getLsbD l = true ↔ (guardMask (viewOf divChk).grd (hereOf (rig divChk)).r).getLsbD l = true ∧ (opA (rig divChk) divChk l).psn = false ∧
      (opB (rig divChk) divChk l).psn = false ∧ Spec.int (viewOf divChk).ty (opB (rig divChk) divChk l).bits = 0) :=
  ⟨ready_of (by decide +kernel), by decide +kernel, by decide +kernel, by decide +kernel⟩

-- Flights

def wideInstrs : List Instr := [.vote (Spec.args (dk 1) (p_ 1) z0 z0 .none 0 3), .vote (Spec.args (dp 2) (p_ 1) z0 z0 .none 0 2), .shfl (Spec.args (dv 2) (v_ 4) (v_ 6) (i_ 1) .b64 0 0),
    .shfl (Spec.args (dv 1) (v_ 4) (i_ 31) (i_ 32) .b32 0 2), .matchV (Spec.args (dv 5) (v_ 4) z0 z0 .b64 0 0), .matchV (Spec.args (dp 1) (v_ 4) z0 z0 .b32 0 1),
    .fredux (Spec.args (ds 8) (s_ 7) z0 z0 .i64 0 0), .fredux (Spec.args (dv 8) (v_ 7) z0 z0 .f32 0 1), .fredux (Spec.args (dv 8) (v_ 7) z0 z0 .b32 0 5),
    .fredux (Spec.args (dv 8) (v_ 7) z0 z0 .f32 4 6), .kmov (Spec.args (dk 1) (y_ 2) z0 z0 .none 0 0), .kmov (Spec.args (dp 1) (k_ 2) z0 z0 .none 0 0),
    .kmovI (Spec.argsI 7 (dk 7) z0 1 .none 0), .klop (Spec.args (dk 1) (k_ 2) (s_ 3) (i_ 0) .none 0 255), .kpopc (Spec.args (dv 1) (k_ 2) z0 z0 .none 0 2),
    .kfind (Spec.args (ds 1) (k_ 2) z0 z0 .none 0 1), .kfind (Spec.args (dv 1) (k_ 2) (v_ 5) z0 .none 0 2)]
theorem witness_FlightWideResults : ∀ i, i ∈ wideInstrs → Meets (rig i) i := all_meet (by decide +kernel)

/-- The lane that comes first, and a tree with a root. -/
theorem witness_ReductionResults : let i : Instr := .fredux (Spec.args (dv 8) (v_ 7) z0 z0 .f32 0 6)
    lanesOf (guardMask 7 (hereOf (rig i)).r) = 0 :: (List.range 31).map (· + 1) ∧ (viewOf i).opt.toNat = 6 ∧
    (Spec.node .rne false (fun l => if (guardMask 7 (hereOf (rig i)).r).getLsbD l then some (valueOf fmtF32 ((opA (rig i) i l).bits.toNat % 2 ^ 32) false) else none) 5 0).isSome = true := by
  decide +kernel

def rcv : Instr := .rcv (Spec.args no (k_ 2) (i_ 7) z0 .none 0 0)
theorem witness_ReconvergenceBarrier : here (rig rcv) rcv ∧ ∃ f : Flight, (f.thread 0).hold = .rcv 7 2 ∧ (f.thread 1).hold = .none :=
  ⟨ready_of (by decide +kernel), placedFlight.setThread 0 { placedFlight.thread 0 with hold := .rcv 7 2 }, rfl, rfl⟩

-- ALLOC, the grant and FREE

def blk (f : Block → Block) (s : State) : State :=
  match s.block? 0 0 with
  | some b => s.setBlock 0 0 (f b)
  | none => s
def free : Instr := .free (a0 .none 0 0)
def small (f : Flight) : Flight := { f with allot := 16 }
def ungranted (s : State) : State := blk (fun b => { b with granted := false, spadHeld := 0 }) s
def queued (s : State) : State := { ungranted s with cores := (ungranted s).cores.set 0 { (ungranted s).core 0 with grantQ := [(0, 0)] } }
def blkOf (s : State) : Block := (s.block? 0 0).getD placedBlock
abbrev ofBlock (s : State) : Prop := s.blockOf (hereOf s).f = some (0, blkOf s)
theorem witness_AllocCompletes :
    let full (s : State) : Nat := kRegs (s.kdesc (hereOf s).f.launch)
    let base (s : State) : Prop := here s alloc ∧ guardMask 7 (hereOf s).r = (hereOf s).f.liveMask ∧ (hereOf s).f.freed = false ∧ ofBlock s
    (base (rig alloc) ∧ (blkOf (rig alloc)).granted = true ∧ (hereOf (rig alloc)).f.allot = full (rig alloc)) ∧
    (base (rig alloc small) ∧ (blkOf (rig alloc small)).granted = true ∧ (hereOf (rig alloc small)).f.allot ≠ full (rig alloc small)) ∧
    (base (rig alloc small queued) ∧ (blkOf (rig alloc small queued)).granted = false ∧ ((rig alloc small queued).core 0).grantQ.head? = some (0, 0) ∧
      (rig alloc small queued).grantFits 0 (blkOf (rig alloc small queued)) = true ∧ (((rig alloc small queued).takeGrant 0 0).raiseAllot 0 0 |>.flight? 0 0).isSome = true) ∧
    (base (rig alloc small ungranted) ∧ (blkOf (rig alloc small ungranted)).granted = false ∧ ((rig alloc small ungranted).core 0).grantQ.head? ≠ some (0, 0) ∧
      (hereOf (rig alloc small ungranted)).r.isLast = true ∧ guardMask 7 (hereOf (rig alloc small ungranted)).r = (hereOf (rig alloc small ungranted)).r.exec) :=
  ⟨⟨⟨ready_of (by decide +kernel), by decide +kernel, by decide +kernel, by decide +kernel⟩, by decide +kernel⟩,
   ⟨⟨ready_of (by decide +kernel), by decide +kernel, by decide +kernel, by decide +kernel⟩, by decide +kernel⟩,
   ⟨⟨ready_of (by decide +kernel), by decide +kernel, by decide +kernel, by decide +kernel⟩, by decide +kernel⟩,
   ⟨⟨ready_of (by decide +kernel), by decide +kernel, by decide +kernel, by decide +kernel⟩, by decide +kernel⟩⟩
/-- A flight that waits for the grant at the head of the queue. -/
def waiter (s : State) : State := queued (s.setFlight 0 0 (small (placedFlight.setThread 3 { placedFlight.thread 3 with hold := .alloc ⟨0, [], [], 0x100C⟩ })))
theorem witness_GrantTaken : let s := waiter (State.reset.placeWord 0)
    s.block? 0 0 = some (blkOf s) ∧ (s.flight? 0 0).isSome = true ∧ s.blockOf ((s.flight? 0 0).getD Flight.fresh) = some (0, blkOf s) ∧ (s.core 0).grantQ.head? = some (0, 0) ∧
    (0, 0) ∈ (blkOf s).flights ∧ (((s.flight? 0 0).getD Flight.fresh).thread 3).hold = .alloc ⟨0, [], [], 0x100C⟩ ∧ s.grantFits 0 (blkOf s) = true := by decide +kernel
/-- A block of one flight, and of two of which one has not freed. -/
def twoFlights (s : State) : State := blk (fun b => { b with flights := [(0, 0), (0, 1)] }) (s.setFlight 0 1 { placedFlight with idx := 1 })
theorem witness_FreeCompletes : (∀ s, s ∈ [rig free, rig free id twoFlights] → here s free ∧ guardMask 7 (hereOf s).r = (hereOf s).f.liveMask ∧ ofBlock s) ∧
    (∀ e, e ∈ ((rig free).setFlight 0 0 { placedFlight with freed := true }).flightsOf (blkOf (rig free)) → e.2.2.freed = true) ∧
    (∃ e, e ∈ (rig free id twoFlights).flightsOf (blkOf (rig free id twoFlights)) ∧ e.2.1 = 1 ∧ e.2.2.freed = false) ∧
    ∀ l, l < 32 → ∀ i, i < 64 → 16 ≤ i → (((hereOf (rig free)).f.thread l).vreg i).pend = false := by
  refine ⟨?_, by decide +kernel, ⟨(0, 1, { placedFlight with idx := 1 }), by decide +kernel, rfl, rfl⟩, by decide +kernel⟩
  intro s h
  have e : ∀ s, s ∈ [rig free, rig free id twoFlights] → readyB s free = true ∧ guardMask 7 (hereOf s).r = (hereOf s).f.liveMask ∧ s.blockOf (hereOf s).f = some (0, blkOf s) := by decide +kernel
  exact ⟨ready_of (e s h).1, (e s h).2⟩

-- Barriers

def bar : Instr := .bar (Spec.args no (i_ 15) z0 z0 .none 0 0)
def cbar : Instr := .cbar (Spec.args no (i_ 7) z0 z0 .none 0 0)
/-- Arrivals at id 15: of some threads of the block, and of all. -/
def arrived (n : Nat) (s : State) : State := blk (fun b => { b with bars := .single 15 (List.range n) }) s
theorem witness_BarrierArrivals : (here (rig bar) bar ∧ ofBlock (rig bar)) ∧ (here (rig cbar) cbar ∧ ofBlock (rig cbar) ∧ ((rig cbar).groups.get? (blkOf (rig cbar)).group).isSome = true) ∧
    (∀ n, n ∈ [1, 31, 32] → ∃ b, (arrived n (State.reset.placeWord 0)).block? 0 0 = some b ∧ b.bars.getD 15 [] = List.range n) :=
  ⟨⟨ready_of (by decide +kernel), by decide +kernel⟩, ⟨ready_of (by decide +kernel), by decide +kernel⟩,
    fun n h => ⟨blkOf (arrived n (State.reset.placeWord 0)), (by decide +kernel : ∀ n, n ∈ [1, 31, 32] → (arrived n (State.reset.placeWord 0)).block? 0 0 =
      some (blkOf (arrived n (State.reset.placeWord 0))) ∧ (blkOf (arrived n (State.reset.placeWord 0))).bars.getD 15 [] = List.range n) n h⟩⟩
def cbs (b : CBar) (s : State) : State := s.setCb 0 63 b
/-- In range, at both ends of it and beyond; an armed barrier that reaches zero with a thread held at it; a queue whose head is covered; a saturated barrier; an armed one at zero. -/
theorem witness_CountedBarrierUpdate :
    (let b := ((cbs CBar.reset State.reset).cb 0 63); -(2 ^ 39) ≤ b.count + (2 ^ 39 - 1) ∧ b.count + (2 ^ 39 - 1) < 2 ^ 39 ∧ b.queue = [] ∧ b.armed = false ∧ ¬(b.count + 2 ^ 39 < 2 ^ 39)) ∧
    (let s := (cbs { CBar.reset with armed := true, count := 64 } (State.reset.placeWord 0)).setFlight 0 0 (placedFlight.setThread 0 { placedFlight.thread 0 with hold := .cbWait 63 ⟨0, [], [], 0x100C⟩ })
     (s.cb 0 63).armed = true ∧ (s.cb 0 63).count + -64 = 0 ∧ ((s.flight? 0 0).map fun f => (f.thread 0).hold) = some (.cbWait 63 ⟨0, [], [], 0x100C⟩)) ∧
    let s := (cbs { CBar.reset with queue := [(0, 0, 3)] } (State.reset.placeWord 0)).setFlight 0 0 (placedFlight.setThread 0 { placedFlight.thread 0 with hold := .cbAcq 63 3 ⟨0, [], [], 0x100C⟩ })
    ((s.cb 0 63).queue = [(0, 0, 3)] ∧ ((3 : Nat) : Int) ≤ (s.cb 0 63).count + 3 ∧ ((s.flight? 0 0).map fun f => (f.thread 0).hold) = some (.cbAcq 63 3 ⟨0, [], [], 0x100C⟩)) ∧
    (let b := (cbs { CBar.reset with sat := true, count := -(2 ^ 39) } State.reset).cb 0 63; b.sat = true ∧ b.queue = [] ∧ b.armed = false ∧ b.count ≠ 0) ∧
    let b := (cbs { CBar.reset with armed := true } State.reset).cb 0 63
    b.armed = true ∧ b.sat = false ∧ b.count = 0 := by
  decide +kernel
def cbarm : Instr := .cbarm (Spec.args no (i_ 63) (v_ 4) z0 .none 2 0)
def cbarmR : Instr := .cbarm (Spec.args no (i_ 0) (i_ 0) z0 .none 6 1)
def cbarmI : Instr := .cbarmI (Spec.argsI 7 no (i_ 5) 64 .none 4)
def cbadd : Instr := .cbadd (Spec.args no (i_ 63) (v_ 4) z0 .none 0 0)
def cbaddI : Instr := .cbaddI (Spec.argsI 7 no (i_ 63) 64 .none 0)
def cbwait : Instr := .cbwait (Spec.args no (i_ 63) z0 z0 .none 0 0)
def cbacq : Instr := .cbacq (Spec.args no (i_ 63) (v_ 4) z0 .none 0 0)
def cbread : Instr := .cbread (Spec.args (dv 2) (i_ 63) z0 z0 .none 0 0)
/-- The lanes of one thread in order, for a barrier instruction whose step is `t'`. -/
def cbOk (i : Instr) (t : State) (l : Nat) : Prop := (opA t i l).psn = false ∧ (opA t i l).bits.toNat % 2 ^ 32 < 64 ∧ (opB t i l).psn = false
def armedZero (s : State) : State := cbs { CBar.reset with armed := true, scope := 4 } s
theorem witness_CountedBarrierInstructions :
    (∀ i, i ∈ [cbarm, cbarmR, cbarmI, cbadd, cbaddI, cbacq, cbread] → Meets (rig1 i) i) ∧
    (∀ i, i ∈ [cbarm, cbarmR, cbarmI, cbadd, cbaddI, cbacq] → cbOk i (rig1 i) 0 ∧ lanesG (rig1 i) i = [0]) ∧
    (here (rig1 cbwait id armedZero) cbwait ∧ ((rig1 cbwait id armedZero).cb 0 63).armed = true ∧ ((rig1 cbwait id armedZero).cb 0 63).count = 0) ∧
    (here (rig cbwait) cbwait ∧ (hereOf (rig cbwait)).r.isLast = true ∧ ((rig cbwait).cb 0 63).armed = false) ∧
    (∃ m, (rig1 cbadd).release 0 21 ((rig1 cbadd).cb 0 63).scope = .ok m ()) ∧
    (let s := rig1 cbacq (vs [(4, 3)]) (cbs { CBar.reset with count := 3 }); Meets s cbacq ∧ (opB s cbacq 0).bits.setWidth 32 ≠ 0#32 ∧ (s.cb 0 63).queue = [] ∧ (3 : Int) ≤ (s.cb 0 63).count) ∧
    (let s := rig1 cbacq (vs [(4, 3)]) (cbs { CBar.reset with count := 2 }); Meets s cbacq ∧ (opB s cbacq 0).bits.setWidth 32 ≠ 0#32 ∧ (s.cb 0 63).count < 3) ∧
    ∀ l, l < 32 → cbOk cbread (rig cbread) l := by
  refine ⟨all_meet (by decide +kernel), by unfold cbOk; decide +kernel, ⟨ready_of (by decide +kernel), by decide +kernel⟩, ⟨ready_of (by decide +kernel), by decide +kernel⟩, ?_,
    ⟨meets_of (by decide +kernel), by decide +kernel⟩, ⟨meets_of (by decide +kernel), by decide +kernel⟩, by unfold cbOk; decide +kernel⟩
  obtain ⟨a, h⟩ := okA (x := (rig1 cbadd).release 0 21 ((rig1 cbadd).cb 0 63).scope) (by decide +kernel)
  exact ⟨_, h⟩
/-- An arrival from outside at a core that holds the launch, and at one that does not; a context that is saved; an arrival that is held; flights and threads at their limits. -/
def savedCtx (s : State) : State := s.setCtx 21 { s.ctx 21 with st := .saved }
theorem witness_CoreEventsComplete : let s := State.reset.placeWord 0
    ((s.ctx 21).st ≠ .saved ∧ (s.core 0).launch = some 0 ∧ (∃ la, s.launch? 0 = some la ∧ la.ctx = 21 ∧ la.id % 2 ^ 32 = 0) ∧ (s.core 1).launch = none) ∧
    ((savedCtx s).ctx 21).st = .saved ∧ ({ s with arrivals := [⟨0, 63, 21, 0, -64⟩] } : State).arrivals[0]? = some ⟨0, 63, 21, 0, -64⟩ ∧
    (∀ n, n ∈ [2047, 2048] → ((s.setFlight 0 0 { placedFlight with waited := n }).flight? 0 0).map (·.waited) = some n) ∧
    (∀ n, n ∈ [63, 64] → ∃ f : Flight, (f.thread 0).live = true ∧ (f.thread 0).agedCount = n) ∧
    (∀ e, e ∈ [true, false] → let t := blk (fun b => { b with ended := e }) s
      ∃ b, t.block? 0 0 = some b ∧ b.ended = e ∧ t.blockEngines 0 0 = false ∧ t.blockPress b = false ∧ (b.spadOpen = false ↔ False)) := by
  refine ⟨⟨by decide +kernel, by decide +kernel, ⟨placedLaunch, by decide +kernel⟩, by decide +kernel⟩, by decide +kernel, rfl, by decide +kernel,
    fun n _ => ⟨placedFlight.setThread 0 { placedFlight.thread 0 with agedCount := n }, rfl, rfl⟩, fun e he => ⟨blkOf (blk (fun b => { b with ended := e }) (State.reset.placeWord 0)), ?_⟩⟩
  exact (by decide +kernel : ∀ e, e ∈ [true, false] → let t := blk (fun b => { b with ended := e }) (State.reset.placeWord 0)
    t.block? 0 0 = some (blkOf t) ∧ (blkOf t).ended = e ∧ t.blockEngines 0 0 = false ∧ t.blockPress (blkOf t) = false ∧ ((blkOf t).spadOpen = false ↔ False)) e he

-- The press

def mxacq (o : Nat) : Instr := .mxacq (a0 .none 0 o)
def wholeB (s : State) (i : Instr) : Bool := readyB s i && guardMask (viewOf i).grd (hereOf s).r == BitVec.allOnes 32 && (hereOf s).f.liveMask == BitVec.allOnes 32
theorem whole_of {s : State} {i : Instr} (e : wholeB s i = true) : here s i ∧ Spec.whole (hereOf s) (viewOf i) := by
  simp only [wholeB, Bool.and_eq_true, beq_iff_eq] at e
  exact ⟨ready_of e.1.1, e.1.2, e.2⟩
theorem all_whole {l : List (Instr × State)} (e : (l.all fun x => wholeB x.2 x.1) = true) : ∀ x, x ∈ l → here x.2 x.1 ∧ Spec.whole (hereOf x.2) (viewOf x.1) :=
  fun x h => whole_of (List.all_eq_true.mp e x h)
def setP (c : Nat) (p : Press) (s : State) : State := s.setPress c p
def crowd (n : Nat) : State → State := setP 0 { Press.reset with owner := some 7, waiting := List.replicate n (3, false) }
/-- Owner, open, pair with a free odd press, pair with a slaved odd press, a taken press with 15 and with 16 waiters; MXWAIT and MXREL of the owner. -/
theorem witness_PressOwnership :
    (∀ x, x ∈ ([(mxacq 0, rig (mxacq 0) id owned), (mxacq 0, rig (mxacq 0)), (mxacq 1, rig (mxacq 1)), (mxacq 1, rig (mxacq 1) id (setP 1 { Press.reset with slaved := true })),
      (mxacq 0, rig (mxacq 0) id (crowd 15)), (mxacq 0, rig (mxacq 0) id (crowd 16)),
      (.mxwait (a0 .none 0 0), rig (.mxwait (a0 .none 0 0)) id owned), (.mxrel (a0 .none 0 0), rig (.mxrel (a0 .none 0 0)) id owned)] : List (Instr × State)) →
      here x.2 x.1 ∧ Spec.whole (hereOf x.2) (viewOf x.1)) ∧
    ((rig (mxacq 0) id owned).core 0).press.owner = some (hereOf (rig (mxacq 0) id owned)).fid ∧
    (let s := rig (mxacq 1); (s.core 0).press.owner = none ∧ (s.core 0).press.slaved = false ∧ (s.core 0).press.claim = false ∧ (s.core 0).press.waiting = [] ∧
      s.corePresent 1 = true ∧ (hereOf s).c = 0 ∧ (s.core 1).press.owner = none ∧ (s.core 1).press.slaved = false ∧ (s.core 1).press.claim = false) ∧
    (let s := rig (mxacq 1) id (setP 1 { Press.reset with slaved := true }); (s.core 1).press.slaved = true ∧ (hereOf s).r.isLast = true) ∧
    (let s := rig (mxacq 0) id (crowd 15); (s.core 0).press.owner ≠ some (hereOf s).fid ∧ (s.core 0).press.waiting.length < 16 ∧ (hereOf s).r.isLast = true ∧ s.olderAsks (hereOf s) = false) ∧
    let s := rig (mxacq 0) id (crowd 16)
    (s.core 0).press.owner ≠ some (hereOf s).fid ∧ 16 ≤ (s.core 0).press.waiting.length ∧ s.olderAsks (hereOf s) = false := by
  refine ⟨all_whole (by decide +kernel), ?_⟩
  decide +kernel
def mma : Instr := .mma (Spec.args no (i_ 0) (i_ 64) (i_ 1) .f32 0 0x44)
def mmas : Instr := .mmas (Spec.args no (i_ 0) (i_ 64) (i_ 1) .f32 0 0x44)
def mxzero : Instr := .mxzero (a0 .i32 1 0)
def mxldz : Instr := .mxldz (Spec.args no (i_ 0) (s_ 2) (i_ 27) .f32 0 0)
def mxstz (o : Nat) : Instr := .mxstz (Spec.args no (i_ 0) (s_ 2) (i_ 27) .f32 0 o)
def mxstzReg : Instr := .mxstzReg (Spec.args (dv 8) (i_ 184) (i_ 160) z0 .f32 0 128)
def mxstzSup : Instr := .mxstzReg (Spec.args { dv 8 with n := true } (i_ 184) (i_ 160) z0 .f32 0 128)
/-- The band ranges reach 12, the pitch is just enough, the columns and rows of the register form are the last; the queue holds 7. -/
def seven (s : State) : State := setP 0 { Press.reset with owner := some 0, queue := List.replicate 7 (.zero 0 .f32) } s
def pitched (f : Flight) : Flight := ss [(2, 768)] f
theorem witness_PressInstructionsIssue :
    (∀ x, x ∈ ([mma, mmas, mxzero, mxldz, mxstz 0, mxstz 1, mxstz 10, mxstzReg, mxstzSup].map fun i => (i, rig i pitched seven)) → here x.2 x.1 ∧ Spec.whole (hereOf x.2) (viewOf x.1)) ∧
    ∀ i, i ∈ [mma, mmas, mxzero, mxldz, mxstz 0, mxstz 1, mxstz 10, mxstzReg, mxstzSup] → let s := rig i pitched seven
      (s.core 0).press.owner = some (hereOf s).fid ∧ (s.core 0).press.queue.length = 7 ∧ s.blockOf (hereOf s).f = some (0, (s.block? 0 0).getD placedBlock) ∧
      Spec.bankType (s.core 0).press 0 = .f32 ∧ 0 + 12 * 1 * (64 * pressWidth 4 + 96) ≤ 0x10000 ∧ 64 + 192 / 16 * 1 * (64 * pressWidth 4 + 96) ≤ 0x10000 ∧
      (s.readSrc 0 (hereOf s).f (hereOf s).r 0 (viewOf mxldz).sbSrc false).bits.toNat = 768 ∧ 27 % 16 + 27 / 16 = 12 ∧ 192 * 4 ≤ 768 ∧
      0 + (16 * 1 - 1) * 768 + 192 * 4 ≤ ((s.block? 0 0).getD placedBlock).spadHeld := by
  refine ⟨all_whole (by decide +kernel), ?_⟩
  decide +kernel
theorem witness_PressInstructionsPerform : ∀ q, q ∈ [PressOp.zero 1 .i32, .ldz 0 0 768 11 1, .mma false 0 0 64 4 4 1, .stz 0 0 768 11 1 0 false, .stzReg 0 8 184 160 false] →
    let s := setP 0 { Press.reset with owner := some 0, queue := [q] } (State.reset.placeWord 0)
    (s.core 0).press.owner = some 0 ∧ (s.core 0).press.queue = [q] ∧ s.pressBlock 0 = some (0, 0, (s.block? 0 0).getD placedBlock) ∧ (s.core 0).press.closing = false := by
  decide +kernel
def pressLand : PressLand := ⟨0, 8, false, (List.range 32).map fun l => (l, List.replicate 8 (BitVec.ofNat 32 l, false))⟩
theorem witness_PressEventsComplete :
    (let s := setP 0 { Press.reset with waiting := [(0, false)] } ((State.reset.placeWord 0).setFlight 0 0 (placedFlight.setThread 31 { placedFlight.thread 31 with hold := .mxacq false ⟨0, [], [], 0x100C⟩ }))
     (s.core 0).press.owner = none ∧ (s.core 0).press.waiting = [(0, false)] ∧ ((s.flight? 0 0).map fun f => (f.thread 31).hold) = some (.mxacq false ⟨0, [], [], 0x100C⟩)) ∧
    (let s := setP 0 { Press.reset with owner := some 0, acquiring := true } (setP 1 { Press.reset with claim := true } (State.reset.placeWord 0))
     1 % 2 = 1 ∧ (s.core 1).press.owner = none ∧ (s.core 1).press.slaved = false ∧ (s.core 1).press.claim = true ∧ (s.core (1 - 1)).press.owner = some 0) ∧
    let s := setP 0 { Press.reset with owner := some 0, lands := [pressLand] } (State.reset.placeWord 0)
    (s.core 0).press.lands = pressLand :: [] ∧ pressLand.vals = ((List.range 32).map fun l => (l, (fun l => List.replicate 8 (BitVec.ofNat 32 l, false)) l)) ∧
      (∀ l, (List.replicate 8 (BitVec.ofNat 32 l, false)).length = 8) ∧ (s.flight? 0 pressLand.flight).isSome = true := by
  refine ⟨by decide +kernel, by decide +kernel, by decide +kernel, rfl, fun l => by rw [List.length_replicate], by decide +kernel⟩

-- Memory

def addr (s : State) (i : Instr) (l : Nat) : W64 := Spec.address s (hereOf s) (viewOf i) (specOf i) l
def trans (s : State) (i : Instr) (k : Access) : Acc (Except XFail (List Piece)) :=
  s.transPieces (hereOf s).c (hereOf s).f.ctx k (piecesOf (addr s i 0) (viewOf i).ty.bytes)
def reads (s : State) (i : Instr) : Acc (Except (Nat × Nat × Nat) (Nat × Bool)) :=
  (stA (trans s i .read)).readPieces (hereOf s).c (hereOf s).f.ctx (Spec.site (stA (trans s i .read)) (hereOf s) (viewOf i)) ((stA (trans s i .read)).funcOf (hereOf s).f.ctx)
    (vA (trans s i .read))
def cleanAt (s : State) (i : Instr) (l : Nat) : Prop := Spec.clean s (hereOf s) (viewOf i) (specOf i) l
def at3000 (f : Flight) : Flight := ss [(2, 0x3000), (3, 0x3020)] f
def loadForms : List Instr := [.ld (Spec.args (dv 1) (s_ 2) (i_ 4) z0 .n16 0 0), .ld (Spec.args (dv 2) (s_ 2) (v_ 4) z0 .b64 4 0xA5), .ldI (Spec.argsI 7 (dv 1) (s_ 2) 0xFFFFFFFC .i8 0),
  .ld (Spec.args (dv 12) (s_ 2) (i_ 0) z0 .xa320 5 0)]
theorem witness_LoadsComplete : ∀ i, i ∈ loadForms → let s := rig1 i at3000; here s i ∧ ∃ (s1 : State) (y : Nat → Nat) (psn : Nat → Bool),
    InOrder (fun t l t' => ∃ m ps, cleanAt t i l ∧ (addr t i l).toNat % (viewOf i).ty.align = 0 ∧
      t.transPieces (hereOf s).c (hereOf s).f.ctx .read (piecesOf (addr t i l) (viewOf i).ty.bytes) = .ok m (.ok ps) ∧
      m.readPieces (hereOf s).c (hereOf s).f.ctx (Spec.site m (hereOf s) (viewOf i)) (m.funcOf (hereOf s).f.ctx) ps = .ok t' (.ok (y l, psn l))) (lanesG s i) s s1 := by
  intro i h
  have e : ∀ i, i ∈ loadForms → let s := rig1 i at3000; readyB s i = true ∧ lanesG s i = [0] ∧ cleanAt s i 0 ∧ (addr s i 0).toNat % (viewOf i).ty.align = 0 ∧
      isOkE (trans s i .read) = true ∧ isOkE (reads s i) = true := by unfold cleanAt Spec.clean Spec.slotClean; decide +kernel
  obtain ⟨a, b, c, d, t, r⟩ := e i h
  exact ⟨ready_of a, _, fun _ => (vA (reads (rig1 i at3000) i)).1, fun _ => (vA (reads (rig1 i at3000) i)).2, one b ⟨_, _, c, d, okE' t, okE' r⟩⟩

def storeForms : List (Instr × Bool) := [(.st (Spec.args no (s_ 2) (i_ 3) (v_ 4) .n8 0 0), false), (.st (Spec.args no (s_ 2) (v_ 4) (v_ 12) .xa320 5 2), false),
  (.rst (Spec.args no (s_ 2) (i_ 0) (v_ 4) .b32 0 0), true)]
def writes (i : Instr) (s : State) (n : Nat) (remote : Bool) : State :=
  let t := stA (trans s i .write)
  if remote then t else stA (({ t with free := n } : State).writePieces (hereOf s) (Spec.site { t with free := n } (hereOf s) (viewOf i)) (Spec.data s (hereOf s) (viewOf i) (specOf i) 0) (vA (trans s i .write)))
/-- The addresses translate, the release comes and, whatever number the free order leaves behind, the store is done. -/
theorem witness_StoresComplete : ∀ x, x ∈ storeForms → let i := x.1; let s := rig1 i at3000; let t := stA (trans s i .write)
    here s i ∧ InOrder (fun t l t' => cleanAt t i l ∧ (addr t i l).toNat % (viewOf i).ty.align = 0 ∧
        Spec.data t (hereOf s) (viewOf i) (specOf i) l = Spec.data s (hereOf s) (viewOf i) (specOf i) l ∧
        t.transPieces (hereOf s).c (hereOf s).f.ctx .write (piecesOf (addr t i l) (viewOf i).ty.bytes) = .ok t' (.ok (vA (trans s i .write)))) (lanesG s i) s t ∧
      ((viewOf i).opt.getLsbD 1 = true ∧ t.release (hereOf s).c (hereOf s).f.ctx (viewOf i).scp = .ok (stA (t.release (hereOf s).c (hereOf s).f.ctx (viewOf i).scp)) () ∨
        (viewOf i).opt.getLsbD 1 = false) ∧
      ∃ s3 f, s3.flight? (hereOf s).c (hereOf s).fid = some f ∧ InOrder (fun t l t' => Spec.storeLane (hereOf s) (viewOf i) x.2
        ⟨l, Spec.address s (hereOf s) (viewOf i) (specOf i) l, vA (trans s i .write), Spec.data s (hereOf s) (viewOf i) (specOf i) l⟩ t t') [0] { t with free := 7 } s3 := by
  intro x h i s t
  have e : ∀ x, x ∈ storeForms → let i := x.1; let s := rig1 i at3000; let t := stA (trans s i .write)
      readyB s i = true ∧ lanesG s i = [0] ∧ cleanAt s i 0 ∧ (addr s i 0).toNat % (viewOf i).ty.align = 0 ∧ isOkE (trans s i .write) = true ∧
      ((viewOf i).opt.getLsbD 1 = true ∧ isOkA (t.release (hereOf s).c (hereOf s).f.ctx (viewOf i).scp) = true ∨ (viewOf i).opt.getLsbD 1 = false) ∧
      (∀ p, p ∈ vA (trans s i .write) → ({ t with free := 7 } : State).isRemote (({ t with free := 7 } : State).funcOf (hereOf s).f.ctx) p.gpa = false) ∧
      isOkA (({ t with free := 7 } : State).writePieces (hereOf s) (Spec.site { t with free := 7 } (hereOf s) (viewOf i)) (Spec.data s (hereOf s) (viewOf i) (specOf i) 0)
        (vA (trans s i .write))) = true ∧
      ((stA (({ t with free := 7 } : State).writePieces (hereOf s) (Spec.site { t with free := 7 } (hereOf s) (viewOf i)) (Spec.data s (hereOf s) (viewOf i) (specOf i) 0)
        (vA (trans s i .write)))).flight? (hereOf s).c (hereOf s).fid).isSome = true := by unfold cleanAt Spec.clean Spec.slotClean; decide +kernel
  obtain ⟨a, b, c, d, tr, re, m, w, f⟩ := e x h
  obtain ⟨f, hf⟩ := Option.isSome_iff_exists.mp f
  refine ⟨ready_of a, one b ⟨c, d, rfl, okE' tr⟩, re.imp (fun r => ⟨r.1, okN r.2⟩) id, _, f, hf, one rfl (.inr ⟨.inr m, okN w⟩)⟩

/-- A store at the home of the first bytes of a sector, in the core's L1, at the memory controller and at the end of one, where no core and no L2 holds anything; the line so made dirty, evicted; and a
sector that the L2 does not hold yet, read at its home. -/
def bare : State := { State.reset with exts := State.reset.exts.set 0 ⟨true, true, false, 0, 0, 0x4000, 0, 0, 0, 0⟩, vfs := State.reset.vfs.set 0 ⟨some 0, true, 1, 0, false⟩, recovery := false, booted := true }
def settledB (s : State) (func gpa : Nat) : Bool :=
  match (s.home (secKey func (gpa / 64))).copy, s.second func (gpa / 64 * 64) false false with
  | some x, .ok (t, _) => (List.range 64).all fun k => (!x.dirty.getLsbD k || x.valid.getLsbD k) &&
      (!x.valid.getLsbD k || x.dirty.getLsbD k || x.data.extractLsb' (8 * k) 8 == (s.fetchMem t).2.1.extractLsb' (8 * k) 8)
  | _, _ => true
theorem settled_of {s : State} {func gpa : Nat} (e : settledB s func gpa = true) : Spec.settled s func gpa := by
  intro x t d k hc hs _ hk
  simp only [settledB, hc, hs] at e
  have := List.all_eq_true.mp e k (List.mem_range.mpr hk)
  simp only [Bool.and_eq_true, Bool.or_eq_true, Bool.not_eq_true', beq_iff_eq] at this
  refine ⟨fun a => this.1.resolve_left (by simp [a]), fun a b => this.2.resolve_left ?_⟩
  simp [a, b]
def wayFree (s : State) (func gpa : Nat) : Prop :=
  (s.waysOf func).getLsbD 0 = true ∧ ∀ e, e ∈ s.l2Ways.entries → e.1 ≠ secKey func (gpa / 64) / 4 → sameSet e.1 (secKey func (gpa / 64) / 4) = true → s.lineHeld e.1 = true → e.2 ≠ 0
theorem room_of {s : State} {func gpa : Nat} (e : wayFree s func gpa) : Spec.room s func gpa := .inr ⟨0, by decide, e⟩
def wrote : State := stA (bare.writeN 0 .home 0 0x3000 false 1 0xAB)
theorem witness_StoreFrame :
    (bare.MemOk ∧ (∀ a, a ∈ [0x3000, 0x303C] → Spec.registered bare 0 a ∧ Spec.settled bare 0 a ∧ Spec.room bare 0 a ∧ Spec.room1 bare 0 0 a ∧ a < 2 ^ 57) ∧ 1 ≤ 4 ∧ 0x303C % 64 + 4 ≤ 64 ∧
      bare.writeN 0 .home 0 0x3000 false 1 0xAB = .ok wrote () ∧
      bare.writeN 0 .own 0 0x303C false 4 0xAB = .ok (stA (bare.writeN 0 .own 0 0x303C false 4 0xAB)) () ∧
      bare.writeN 0 .ctl 0 0x303C false 4 0xAB = .ok (stA (bare.writeN 0 .ctl 0 0x303C false 4 0xAB)) () ∧
      Spec.byteAt wrote 0 0x3000 = some 0xAB ∧ Spec.byteAt bare 0 0x3001 = some 0 ∧ Spec.sector bare 0 0x4000 ≠ Spec.sector bare 0 0x3000) ∧
    (wrote.MemOk ∧ Spec.sector wrote 0 (0xC0 * 64) = some (0, 0xC0) ∧ Spec.settled wrote 0 (0xC0 * 64) ∧ (0, 0x3000 / 64) = (0, 0xC0) ∧ Spec.byteAt wrote 0 0x3000 = some 0xAB ∧
      Spec.byteAt (wrote.evictL2 (secKey 0 0xC0)) 0 0x3000 = some 0xAB) ∧
    ∃ d p, Spec.room bare 0 0x3001 ∧ bare.lookSec 0 (0x3001 / 64) = .ok (stA (bare.lookSec 0 (0x3001 / 64))) (d, p) ∧ Spec.byteAt bare 0 0x3001 = some 0 := by
  refine ⟨⟨⟨by decide +kernel, by decide +kernel⟩, ?_, by decide, by decide, okN (by decide +kernel), okN (by decide +kernel), okN (by decide +kernel), by decide +kernel⟩,
    ⟨⟨by decide +kernel, by decide +kernel⟩, by decide +kernel, settled_of (by decide +kernel), rfl, by decide +kernel⟩, _, _, room_of (by unfold wayFree; decide +kernel), okN (by decide +kernel), by decide +kernel⟩
  intro a h
  have w : ∀ a, a ∈ [0x3000, 0x303C] → settledB bare 0 a = true ∧ wayFree bare 0 a ∧ a < 2 ^ 57 := by unfold wayFree; decide +kernel
  refine ⟨fun c x hx => ?_, settled_of (w a h).1, room_of (w a h).2.1, .inr (by decide +kernel +revert), (w a h).2.2⟩
  have : bare.l1? c (secKey 0 (a / 64)) = none := rfl
  rw [this] at hx
  cases hx

def lds : Instr := .lds (Spec.args (dv 1) (v_ 2) (i_ 2) z0 .i16 0 0)
def ldsI : Instr := .ldsI (Spec.argsI 7 (dv 1) (v_ 2) 0xC .b32 0)
def sts : Instr := .sts (Spec.args no (v_ 2) (i_ 1) (v_ 4) .n8 0 0)
def ldt : Instr := .ldt (Spec.args (dv 16) (v_ 1) (i_ 64) z0 .n8 0 0)
def ldc : Instr := .ldc (Spec.args (dv 1) (v_ 2) (i_ 8) z0 .b32 0 0)
def ldcI : Instr := .ldcI (Spec.argsI 7 (dv 2) (v_ 2) 4 .b64 0)
def spadAddr (s : State) (i : Instr) : Nat := Spec.spadAddress s (hereOf s) (viewOf i) (specOf i) 0
def constAddr (s : State) (i : Instr) (off : W32) : Nat := ((opA s i 0).bits.setWidth 32 + off).toNat
/-- The last words of a grant of 64 KiB; the first and last bytes of the constant bank. -/
theorem witness_ScratchpadAndConstantAccess :
    (∀ i, i ∈ [lds, ldsI, sts] → let s := rig1 i (vs [(2, 0xFFF0)]); here s i ∧ lanesG s i = [0] ∧ cleanAt s i 0 ∧ spadAddr s i % (viewOf i).ty.align = 0 ∧
      (s.spadPlace (hereOf s) ((viewOf i).opt.getLsbD 2) (spadAddr s i) (viewOf i).ty.bytes).isSome = true) ∧
    (let s := rig1 ldt (vs [(1, 0xFF30)]); here s ldt ∧ lanesG s ldt = [0] ∧ cleanAt s ldt 0 ∧ ((opA s ldt 0).bits.toNat % 2 ^ 32) % 8 = 0 ∧ ((opB s ldt 0).bits.toNat % 2 ^ 32) % 8 = 0 ∧
      ∀ r, r < 4 → s.spadPlace (hereOf s) ((viewOf ldt).opt.getLsbD 2) ((opA s ldt 0).bits.toNat % 2 ^ 32 + r * ((opB s ldt 0).bits.toNat % 2 ^ 32)) 16 =
        some (0, 0, 0xFF30 + 64 * r)) ∧
    ∀ x, x ∈ [(ldc, 0xFFFFFFF8, 8), (ldc, 2036, 8), (ldcI, 0xFFFFFFFC, 4), (ldcI, 2036, 4)] → let s := rig1 x.1 (vs [(2, x.2.1)]); here s x.1 ∧ lanesG s x.1 = [0] ∧
      (opA s x.1 0).psn = false ∧ constAddr s x.1 x.2.2 % (viewOf x.1).ty.bytes = 0 ∧ constAddr s x.1 x.2.2 < 2048 := by
  have e1 : ∀ i, i ∈ [lds, ldsI, sts] → let s := rig1 i (vs [(2, 0xFFF0)]); readyB s i = true ∧ lanesG s i = [0] ∧ cleanAt s i 0 ∧ spadAddr s i % (viewOf i).ty.align = 0 ∧
      (s.spadPlace (hereOf s) ((viewOf i).opt.getLsbD 2) (spadAddr s i) (viewOf i).ty.bytes).isSome = true := by
    unfold cleanAt Spec.clean Spec.slotClean
    decide +kernel
  have e2 : cleanAt (rig1 ldt (vs [(1, 0xFF30)])) ldt 0 := by
    unfold cleanAt Spec.clean Spec.slotClean
    decide +kernel
  have e3 : ∀ x, x ∈ [(ldc, 0xFFFFFFF8, 8), (ldc, 2036, 8), (ldcI, 0xFFFFFFFC, 4), (ldcI, 2036, 4)] → let s := rig1 x.1 (vs [(2, x.2.1)]); readyB s x.1 = true ∧ lanesG s x.1 = [0] ∧
      (opA s x.1 0).psn = false ∧ constAddr s x.1 x.2.2 % (viewOf x.1).ty.bytes = 0 ∧ constAddr s x.1 x.2.2 < 2048 := by decide +kernel
  exact ⟨fun i h => ⟨ready_of (e1 i h).1, (e1 i h).2⟩, ⟨ready_of (by decide +kernel), by decide +kernel, e2, by decide +kernel⟩, fun x h => ⟨ready_of (e3 x h).1, (e3 x h).2⟩⟩

-- Atomics

def atom : Instr := .atom (Spec.args (dv 1) (s_ 2) (v_ 4) z0 .n32 4 0)
def casRel : Instr := .atom (Spec.args (dv 1) (s_ 2) (v_ 4) (v_ 5) .b32 5 0x1F)
def red : Instr := .red (Spec.args no (s_ 2) (v_ 4) z0 .f32 4 0x2C)
def atoms : Instr := .atoms (Spec.args (dv 1) (v_ 2) (v_ 4) z0 .n32 2 0)
def opOf (i : Instr) : Nat := (viewOf i).opt.toNat / 4 % 16
def sizeOf' (i : Instr) : Nat := if opOf i = 11 then 48 else (viewOf i).ty.bytes
def transA (s : State) (i : Instr) : Acc (Except XFail (List Piece)) := s.transPieces (hereOf s).c (hereOf s).f.ctx .rmw [((opA s i 0).bits, sizeOf' i)]
def pieceA (s : State) (i : Instr) : Piece := (vA (transA s i)).headD ⟨0, false, 0⟩
def freed (s : State) : State := { s with free := 7 }
def drainA (s : State) (i : Instr) : Acc Unit := (freed (stA (transA s i))).drainFor (hereOf s).c (hereOf s).f.ctx (pieceA s i).gpa
def rmwA (s : State) (i : Instr) : Acc (Nat × Bool) :=
  let u := stA (drainA s i)
  u.rmwN (hereOf s).c (u.siteOf (hereOf s).c (hereOf s).f (viewOf i).scp) (u.funcOf (hereOf s).f.ctx) (pieceA s i).gpa (pieceA s i).cls (sizeOf' i)
    (fun m => Spec.atomic (opOf i) (viewOf i).ty m ((opB s i 0).bits.toNat % 2 ^ (viewOf i).ty.width) ((opC s i 0).bits.toNat % 2 ^ (viewOf i).ty.width))
def relA (s : State) (i : Instr) : Acc Unit := (stA (transA s i)).release (hereOf s).c (hereOf s).f.ctx (viewOf i).scp
theorem witness_AtomicsComplete :
    (∀ i, i ∈ [atom, casRel, red] → let s := rig1 i (fun f => vs [(4, 7), (5, 9)] (at3000 f)); here s i ∧ ∃ (p : Nat → Piece) (m : Nat → Nat) (psn : Nat → Bool) (s1 : State),
      InOrder (fun t l t' => cleanAt t i l ∧ (opA t i l).bits.toNat % (if opOf i = 11 then 64 else sizeOf' i) = 0 ∧ (opB t i l).bits = (opB s i l).bits ∧
        (opOf i = 7 → (opC t i l).bits = (opC s i l).bits) ∧ t.transPieces (hereOf s).c (hereOf s).f.ctx .rmw [((opA t i l).bits, sizeOf' i)] = .ok t' (.ok [p l])) (lanesG s i) s s1 ∧
      ((viewOf i).opt.getLsbD 1 = true ∧ s1.release (hereOf s).c (hereOf s).f.ctx (viewOf i).scp = .ok (stA (s1.release (hereOf s).c (hereOf s).f.ctx (viewOf i).scp)) () ∨ (viewOf i).opt.getLsbD 1 = false) ∧
      ∃ s3 f, s3.flight? (hereOf s).c (hereOf s).fid = some f ∧ InOrder (fun t l t' => ∃ u, t.drainFor (hereOf s).c (hereOf s).f.ctx (p l).gpa = .ok u () ∧
          u.rmwN (hereOf s).c (u.siteOf (hereOf s).c (hereOf s).f (viewOf i).scp) (u.funcOf (hereOf s).f.ctx) (p l).gpa (p l).cls (sizeOf' i)
            (fun m => Spec.atomic (opOf i) (viewOf i).ty m ((opB s i l).bits.toNat % 2 ^ (viewOf i).ty.width) ((opC s i l).bits.toNat % 2 ^ (viewOf i).ty.width)) = .ok t' (m l, psn l))
        [0] (freed s1) s3) ∧
    let s := rig1 atoms (vs [(2, 0xFFFC), (4, 5)]) (spad 0x3FFF ⟨7, false⟩)
    here s atoms ∧ lanesG s atoms = [0] ∧ (viewOf atoms).opt.getLsbD 1 = false ∧ cleanAt s atoms 0 ∧ (opA s atoms 0).bits.toNat % 2 ^ 32 % 4 = 0 ∧
      s.spadPlace (hereOf s) ((viewOf atoms).opt.getLsbD 6) ((opA s atoms 0).bits.toNat % 2 ^ 32) 4 = some (0, 0, 0xFFFC) ∧
      (s.block? 0 0).map (fun b => (b.spadNum 0xFFFC 4, b.spadPsn 0xFFFC 4)) = some (7, false) := by
  have e : ∀ i, i ∈ [atom, casRel, red] → let s := rig1 i (fun f => vs [(4, 7), (5, 9)] (at3000 f)); readyB s i = true ∧ lanesG s i = [0] ∧ cleanAt s i 0 ∧
      (opA s i 0).bits.toNat % (if opOf i = 11 then 64 else sizeOf' i) = 0 ∧ isOkE (transA s i) = true ∧ vA (transA s i) = [pieceA s i] ∧
      ((viewOf i).opt.getLsbD 1 = true ∧ isOkA (relA s i) = true ∨ (viewOf i).opt.getLsbD 1 = false) ∧ isOkA (drainA s i) = true ∧ isOkA (rmwA s i) = true ∧
      ((stA (rmwA s i)).flight? (hereOf s).c (hereOf s).fid).isSome = true := by
    unfold cleanAt Spec.clean Spec.slotClean
    decide +kernel
  refine ⟨fun i h => ?_, ready_of (by decide +kernel), by decide +kernel, by decide +kernel, by unfold cleanAt Spec.clean Spec.slotClean; decide +kernel, by decide +kernel⟩
  obtain ⟨a, b, c, d, tr, one', re, dr, rm, f⟩ := e i h
  obtain ⟨f, hf⟩ := Option.isSome_iff_exists.mp f
  have tr := okE' tr
  rw [one'] at tr
  exact ⟨ready_of a, fun _ => pieceA _ i, fun _ => (vN (rmwA _ i)).1, fun _ => (vN (rmwA _ i)).2, _, one b ⟨c, d, rfl, fun _ => rfl, tr⟩,
    re.imp (fun r => ⟨r.1, okN r.2⟩) id, _, f, hf, one rfl ⟨_, okN dr, okN rm⟩⟩

-- Maintenance

def cwb : Instr := .cwb (Spec.args no (s_ 2) (i_ 64) z0 .none 5 0)
def cinv : Instr := .cinv (Spec.args no (s_ 2) (i_ 64) z0 .none 2 0)
def discard : Instr := .cdisc (Spec.args (ds 10) (s_ 4) (i_ 128) z0 .none 4 0)
def fence : Instr := .fence (a0 .none 5 3)
def wcfl : Instr := .wcfl (a0 .none 0 0)
/-- The page of the range and its one sector. -/
def pageX (s : State) : State × Xl := s.translate (hereOf s).c (hereOf s).f.ctx 0x3000 .read
def maintX (s : State) (i : Instr) (inv : Bool) (gpa : Nat) : Acc Unit := (pageX s).1.maintSector (hereOf s) (viewOf i) inv ((pageX s).1.funcOf (hereOf s).f.ctx) (gpa / 64)
def mapped (x : State × Xl) : Bool :=
  match x.2 with
  | .ok gpa _ => gpa == 0x3000
  | _ => false
theorem mapped_of {x : State × Xl} (e : mapped x = true) : ∃ cls, x = (x.1, .ok 0x3000 cls) := by
  obtain ⟨a, b⟩ := x
  cases b with
  | ok g c =>
    simp only [mapped, beq_iff_eq] at e
    subst e
    exact ⟨c, rfl⟩
  | _ => cases e
def dirtyL2 (s : State) : State := s.setHome (secKey 0 0xC0) { Home.reset with copy := some ⟨0xFF, BitVec.allOnes 64, 1, 0, false, 0⟩ }
def discX (s : State) : Acc (Except Unit (List Nat)) := s.cdiscPages (hereOf s) 0 [] (pagesOf 0x3000 128)
def discS : State := rig discard (ss [(4, 0x3000)]) dirtyL2
def drains (s : State) (sec : Nat) : Acc Unit := s.drainFor (hereOf discS).c (hereOf discS).f.ctx (sec * 64)
theorem two {R : State → Nat → State → Prop} {a b : Nat} {s t u : State} (h1 : R s a t) (h2 : R t b u) : InOrder R [a, b] s u := ⟨t, h1, u, h2, rfl⟩
def disc1 : State := stA (discX discS)
def disc2 : State := stA (drains disc1 0xC0)
theorem drained1 : drains disc1 0xC0 = .ok disc2 () := okU (by decide +kernel)
theorem drained2 : drains disc2 0xC1 = .ok (stA (drains disc2 0xC1)) () := okU (by decide +kernel)
theorem witness_MaintenanceCompletes :
    (let s := rig fence; here s fence ∧ (viewOf fence).opt.getLsbD 1 = true ∧ ∃ s1 f, s.release (hereOf s).c (hereOf s).f.ctx (viewOf fence).scp = .ok s1 () ∧
      (s1.acquireBy (hereOf s).c (hereOf s).f (viewOf fence).scp).flight? (hereOf s).c (hereOf s).fid = some f) ∧
    (∀ x, x ∈ [(cwb, false), (cinv, true)] → let s := rig1 x.1 at3000; here s x.1 ∧ ∃ s', InOrder (fun t l t' => cleanAt t x.1 l ∧
      InOrder (Spec.maintains (hereOf s) (viewOf x.1) x.2) (pagesOf (opA t x.1 l).bits ((opB t x.1 l).bits.toNat % 2 ^ 32)) t t') (lanesG s x.1) s s') ∧
    (∀ x, x ∈ [(cwb, false), (cinv, true)] → bare.MemOk ∧ (bare.core (hereOf (rig1 x.1)).c).wcb = [] ∧ Spec.registered bare 0 (0xC0 * 64) ∧ Spec.settled bare 0 (0xC0 * 64) ∧ Spec.room bare 0 (0xC0 * 64) ∧
      ∃ t b, bare.maintSector (hereOf (rig1 x.1)) (viewOf x.1) x.2 0 0xC0 = .ok t () ∧ Spec.byteAt bare 0 0x3000 = some b ∧ Spec.byteAt t 0 0x3000 = some b) ∧
    (let s := discS; here s discard ∧ guardMask (viewOf discard).grd (hereOf s).r = (hereOf s).r.exec ∧ (opA s discard 0).bits = 0x3000 ∧ canonical (opA s discard 0).bits = true ∧ lanesG s discard = List.range 32 ∧
      (opB s discard 0).bits.toNat % 2 ^ 32 = 128 ∧ ∃ s1 s2 f, s.cdiscPages (hereOf s) 0 [] (pagesOf 0x3000 128) = .ok s1 (.ok [0xC0, 0xC1]) ∧
        InOrder (fun t sec t' => drains t sec = .ok t' ()) [0xC0, 0xC1] s1 s2 ∧ (∀ k, k ∈ uniqN ([0xC0, 0xC1].map (secKey (s1.funcOf (hereOf s).f.ctx))) → (s2.home k).owner = none) ∧
        s2.flight? (hereOf s).c (hereOf s).fid = some f) ∧
    let s := rig wcfl; here s wcfl ∧ ∃ s' f, s.drainWcb (hereOf s).c (hereOf s).f.ctx = .ok s' () ∧ s'.flight? (hereOf s).c (hereOf s).fid = some f := by
  refine ⟨⟨ready_of (by decide +kernel), by decide +kernel, _, _, okN (by decide +kernel), Option.some_get (by decide +kernel) |>.symm⟩, fun x h => ?_, fun x h => ⟨⟨by decide +kernel, by decide +kernel⟩, rfl, ?_, ?_, room_of (by unfold wayFree; decide +kernel), ?_⟩,
    ⟨ready_of (by decide +kernel), by decide +kernel, by decide +kernel, by decide +kernel, by decide +kernel, by decide +kernel, disc1, stA (drains disc2 0xC1), _, ?_,
      two drained1 drained2, by decide +kernel, Option.some_get (by decide +kernel) |>.symm⟩,
    ready_of (by decide +kernel), _, _, okN (by decide +kernel), Option.some_get (by decide +kernel) |>.symm⟩
  · have e : ∀ x, x ∈ [(cwb, false), (cinv, true)] → let s := rig1 x.1 at3000; readyB s x.1 = true ∧ lanesG s x.1 = [0] ∧ cleanAt s x.1 0 ∧
        pagesOf (opA s x.1 0).bits ((opB s x.1 0).bits.toNat % 2 ^ 32) = [(0x3000, 64)] ∧ mapped (pageX s) = true ∧ isOkA (maintX s x.1 x.2 0x3000) = true := by
      unfold cleanAt Spec.clean Spec.slotClean
      decide +kernel
    obtain ⟨a, b, c, d, m, k⟩ := e x h
    obtain ⟨cls, hm⟩ := mapped_of m
    refine ⟨ready_of a, stA (maintX (rig1 x.1 at3000) x.1 x.2 0x3000), one b ⟨c, ?_⟩⟩
    have hp : pagesOf (opA (rig1 x.1 at3000) x.1 0).bits ((opB (rig1 x.1 at3000) x.1 0).bits.toNat % 2 ^ 32) = [(0x3000, 64)] := d
    rw [hp]
    exact ⟨_, .inr ⟨_, 0x3000, cls, hm, _, okU k, rfl⟩, rfl⟩
  · intro c x h
    have : bare.l1? c (secKey 0 (0xC0 * 64 / 64)) = none := rfl
    rw [this] at h
    cases h
  · intro x t d k h
    have : (bare.home (secKey 0 (0xC0 * 64 / 64))).copy = none := rfl
    rw [this] at h
    cases h
  · have e : ∀ x, x ∈ [(cwb, false), (cinv, true)] → isOkA (bare.maintSector (hereOf (rig1 x.1)) (viewOf x.1) x.2 0 0xC0) = true ∧
        Spec.byteAt (stA (bare.maintSector (hereOf (rig1 x.1)) (viewOf x.1) x.2 0 0xC0)) 0 0x3000 = some 0 := by decide +kernel
    exact ⟨_, 0, okN (e x h).1, by decide +kernel, (e x h).2⟩
  · have e := okE' (x := discX discS) (by decide +kernel)
    have v : vA (discX discS) = [0xC0, 0xC1] := by decide +kernel
    rw [v] at e
    exact e

-- Prefetch, monitoring, poison tests and replay

def pref : Instr := .pref (Spec.args no (s_ 2) (i_ 0) z0 .none 2 0)
def prefI : Instr := .prefI (Spec.argsI 7 no (s_ 2) 0 .none 4)
def ptst : Instr := .ptst (Spec.args (dv 1) (v_ 4) z0 z0 .b32 0 1)
def replay : Instr := .replay (Spec.args no (v_ 4) z0 z0 .none 0 0)
def faulted (x : State × Xl) : Bool :=
  match x.2 with
  | .fault _ _ _ _ => true
  | _ => false
theorem faulted_of {x : State × Xl} (e : faulted x = true) : ∃ k m st g, x = (x.1, .fault k m st g) := by
  obtain ⟨a, b⟩ := x
  cases b with
  | fault k m st g => exact ⟨k, m, st, g, rfl⟩
  | _ => cases e
def fillX (u : State) (j : Nat) : Acc (Tgt × Bool) := u.readyHome 0 (0x3000 / 256 * 4 + j) true false false false
def filled (u : State) (j : Nat) : State :=
  match fillX u j with
  | .ok m (t, coh) => m.fillHome (secKey 0 (0x3000 / 256 * 4 + j)) t coh
  | _ => u
theorem fills {h : Here} {v : View} {cls : Bool} {u : State} {j : Nat} (sc : v.scp ≠ 2) (e : isOkA (fillX u j) = true) : Spec.prefetches h v 0 0x3000 cls u j (filled u j) := by
  unfold Spec.prefetches
  rw [if_neg sc]
  cases x : fillX u j with
  | ok m y => exact .inl ⟨m, y.1, y.2, x, by simp [filled, x]⟩
  | bad => rw [x] at e; cases e
  | wait => rw [x] at e; cases e
def pref0 : State := (pageX (rig1 prefI at3000)).1
theorem witness_prefetch :
    (let s := rig1 pref (ss [(2, 0x40000000), (3, 0)]); here s pref ∧ lanesG s pref = [0] ∧ cleanAt s pref 0 ∧ addr s pref 0 = 0x40000000 ∧
      ∃ k m st g, s.translate 0 21 0x40000000 .read = ((s.translate 0 21 0x40000000 .read).1, .fault k m st g)) ∧
    let s := rig1 prefI at3000
    here s prefI ∧ lanesG s prefI = [0] ∧ cleanAt s prefI 0 ∧ addr s prefI 0 = 0x3000 ∧ pref0.funcOf 21 = 0 ∧ ∃ cls s1 f, pageX s = (pref0, .ok 0x3000 cls) ∧
      InOrder (Spec.prefetches (hereOf s) (viewOf prefI) 0 0x3000 cls) [0, 1, 2, 3] pref0 s1 ∧ s1.flight? (hereOf s).c (hereOf s).fid = some f := by
  obtain ⟨cls, hm⟩ := mapped_of (x := pageX (rig1 prefI at3000)) (by decide +kernel)
  refine ⟨⟨ready_of (by decide +kernel), by decide +kernel, by unfold cleanAt Spec.clean Spec.slotClean; decide +kernel, by decide +kernel, faulted_of (by decide +kernel)⟩,
    ready_of (by decide +kernel), by decide +kernel, by unfold cleanAt Spec.clean Spec.slotClean; decide +kernel, by decide +kernel, by decide +kernel, cls,
    filled (filled (filled (filled pref0 0) 1) 2) 3, _, hm, ⟨_, fills (by decide +kernel) (by decide +kernel), _, fills (by decide +kernel) (by decide +kernel), _,
      fills (by decide +kernel) (by decide +kernel), _, fills (by decide +kernel) (by decide +kernel), rfl⟩, Option.some_get (by decide +kernel) |>.symm⟩
theorem witness_ptst : ∀ x, x ∈ [(0x7FFFFFF0, true), (0x7FFFFFF1, true), (5, false)] → here (rig ptst (vAll 4 (fun _ => x.1) x.2)) ptst := by
  intro x h
  exact ready_of (List.all_eq_true.mp (by decide +kernel : ([(0x7FFFFFF0, true), (0x7FFFFFF1, true), (5, false)].all fun x => readyB (rig ptst (vAll 4 (fun _ => x.1) x.2)) ptst) = true) x h)

/-- MONW on a word of 7 with the comparands 5 and 7. -/
def monS (cmp : W32) : State := rig1 monw (fun f => vs [(4, cmp)] (at3000 f)) fun s => coherent (put 0x3000 [7] s)
def monT (s : State) : Acc (Except XFail (List Piece)) := s.transPieces (hereOf s).c (hereOf s).f.ctx .read [((opA s monw 0).bits, 4)]
def monP (s : State) : Piece := (vA (monT s)).headD ⟨0, false, 0⟩
def monR (s : State) : Acc (Except (Nat × Nat × Nat) (Nat × Bool)) :=
  (stA (monT s)).readPieces (hereOf s).c (hereOf s).f.ctx ((stA (monT s)).siteOf (hereOf s).c (hereOf s).f (viewOf monw).scp) ((stA (monT s)).funcOf (hereOf s).f.ctx) [monP s]
/-- The premises of MONW that a state with a comparand meets. -/
def MonOk (s : State) (c : Nat) : Prop :=
  here s monw ∧ vA (monR s) = (7, false) ∧ (opB s monw 0).bits.toNat % 2 ^ 32 = c ∧ (hereOf s).r.isLast = true ∧ (∃ f, (stA (monR s)).flight? (hereOf s).c (hereOf s).fid = some f) ∧
    InOrder (fun t l t' => ∃ u p, cleanAt t monw l ∧ (opA t monw l).bits.toNat % 4 = 0 ∧ t.transPieces (hereOf s).c (hereOf s).f.ctx .read [((opA t monw l).bits, 4)] = .ok u (.ok [p]) ∧
      u.isCoherent (u.funcOf (hereOf s).f.ctx) p.gpa p.cls = true ∧
      u.readPieces (hereOf s).c (hereOf s).f.ctx (u.siteOf (hereOf s).c (hereOf s).f (viewOf monw).scp) (u.funcOf (hereOf s).f.ctx) [p] = .ok t' (.ok ((vA (monR s)).1, (vA (monR s)).2)))
      (lanesG s monw) s (stA (monR s))
theorem mon_of {s : State} {c : Nat} (a : readyB s monw = true) (b : vA (monR s) = (7, false)) (d : (opB s monw 0).bits.toNat % 2 ^ 32 = c) (l : (hereOf s).r.isLast = true)
    (f : ((stA (monR s)).flight? (hereOf s).c (hereOf s).fid).isSome = true) (g : lanesG s monw = [0]) (cl : cleanAt s monw 0) (al : (opA s monw 0).bits.toNat % 4 = 0)
    (tr : isOkE (monT s) = true) (o : vA (monT s) = [monP s]) (co : (stA (monT s)).isCoherent ((stA (monT s)).funcOf (hereOf s).f.ctx) (monP s).gpa (monP s).cls = true)
    (re : isOkE (monR s) = true) : MonOk s c := by
  have tr := okE' tr
  rw [o] at tr
  exact ⟨ready_of a, b, d, l, Option.isSome_iff_exists.mp f, one g ⟨_, _, cl, al, tr, co, okE' re⟩⟩
theorem witness_monitor : MonOk (monS 5) 5 ∧ MonOk (monS 7) 7 := by
  constructor <;> refine mon_of ?_ ?_ ?_ ?_ ?_ ?_ ?_ ?_ ?_ ?_ ?_ ?_ <;> (try unfold cleanAt Spec.clean Spec.slotClean) <;> decide +kernel

/-- REPLAY of an unpoisoned register, and of token 1 that a load at 0x3000 left: a token still open, and one that LQDONE answered with RETRY, where an acquire comes first. -/
def tok1 (r : Resolved) : Tok := ⟨0, 0x3000, 4, 1, none, r, 0⟩
def tokI : Instr := .ld (Spec.args (dv 4) (s_ 2) (i_ 4) z0 .n16 0 0)
def tokS (r : Resolved) : State := rig1 replay (fun f => { vAll 4 (fun _ => 0x7FFFFFF1) true (at3000 f) with toks := .single 1 (tok1 r) }) (code 0x3000 tokI)
def tokF (r : Resolved) : State × Fetch := (tokS r).fetch (hereOf (tokS r)).c (hereOf (tokS r)).f.ctx 0x3000
def tokA (r : Resolved) : State := if r = .retry then (tokF r).1.acquire (hereOf (tokS r)).c 4 false else (tokF r).1
def tokL (r : Resolved) : Acc (Unit × LaneOut) := (tokA r).replayLoad (hereOf (tokS r)) tokI 0x3000 0
def fetched (x : State × Fetch) (w : W96) : Bool :=
  match x.2 with
  | .ok y => y == w
  | _ => false
theorem fetched_of {x : State × Fetch} {w : W96} (e : fetched x w = true) : x = (x.1, .ok w) := by
  obtain ⟨a, b⟩ := x
  cases b with
  | ok y =>
    simp only [fetched, beq_iff_eq] at e
    subst e
    rfl
  | _ => cases e
def goesOn (x : Acc (Unit × LaneOut)) : Bool :=
  match x with
  | .ok _ y => y == ((), LaneOut.plain 0 .next)
  | _ => false
theorem goesOn_of {x : Acc (Unit × LaneOut)} (e : goesOn x = true) : x = .ok (stA x) ((), LaneOut.plain 0 .next) := by
  cases x with
  | ok s y =>
    simp only [goesOn, beq_iff_eq] at e
    subst e
    rfl
  | _ => cases e
theorem witness_replay : (∃ s, here s replay ∧ lanesG s replay = [0] ∧ (opA s replay 0).psn = false) ∧
    ∀ r, r ∈ [Resolved.open, Resolved.retry] → let s := tokS r; here s replay ∧ lanesG s replay = [0] ∧ (opA s replay 0).psn = true ∧
      ∃ s1, (∃ e m w i, (hereOf s).f.toks.get? ((opA s replay 0).bits.toNat % 16) = some e ∧ (e.kind = 0 ∨ e.kind = 3) ∧
        e.lanes.getLsbD 0 = true ∧ e.res ≠ .refused ∧ (e.res = .open → e.lrec = none) ∧ s.fetch (hereOf s).c (hereOf s).f.ctx e.lpc = (m, .ok w) ∧ replayable w e.dest = some i ∧
        (if e.res = .retry then m.acquire (hereOf s).c 4 false else m).replayLoad (hereOf s) i e.lpc 0 = .ok s1 ((), LaneOut.plain 0 .next)) ∧
      (s1.flight? (hereOf s).c (hereOf s).fid).isSome = true := by
  refine ⟨⟨rig1 replay, ready_of (by decide +kernel), by decide +kernel⟩, fun r h => ?_⟩
  have e : ∀ r, r ∈ [Resolved.open, Resolved.retry] → let s := tokS r; readyB s replay = true ∧ lanesG s replay = [0] ∧ (opA s replay 0).psn = true ∧
      (hereOf s).f.toks.get? ((opA s replay 0).bits.toNat % 16) = some (tok1 r) ∧ r ≠ .refused ∧ fetched (tokF r) (encode tokI) = true ∧
      replayable (encode tokI) 4 = some tokI ∧ goesOn (tokL r) = true ∧ ((stA (tokL r)).flight? (hereOf s).c (hereOf s).fid).isSome = true := by decide +kernel
  obtain ⟨a, b, c, d, n, w, i, l, f⟩ := e r h
  exact ⟨ready_of a, b, c, stA (tokL r), ⟨tok1 r, (tokF r).1, _, tokI, d, .inl rfl, (by decide : (1 : W32).getLsbD 0 = true), n, fun _ => rfl, fetched_of w, i, goesOn_of l⟩, f⟩

-- The events of memory

def base' : State := State.reset.placeWord 0
def landing (p : PLoad) (s : State) : State := s.setFlight 0 0 { placedFlight with loads := .single 3 p }
def landW : PLoad := ⟨0x1000, 8, 2, false, none, [(0, .words [(1, false), (2, true)]), (31, .tok 2)], 9, []⟩
def landL : PLoad := ⟨0x1000, 8, 2, false, none, [(5, .late 2 3 true 0x3000 0x3000)], 9, []⟩
/-- A suppressed destination, and a late failure of the KIND that token 2 of the same issue has. -/
def landN : PLoad := { landW with sup := true, res := [(0, .words [(1, false), (2, true)])] }
def landT : State := let s := landing landL base'; s.setFlight 0 0 { placedFlight with loads := .single 3 landL, toks := .single 2 ⟨2, 0x1000, 8, 1, none, .open, 9⟩ }
def failed : State := { base' with failures := [⟨21, 0, 0, true, 3, 2, 0x3000, 0x3000, true⟩] }
def recordX : Acc (Option Nat) := ((landing landL base').setFlight 0 0 { placedFlight with loads := .single 3 landL }).lantern 21
  { ty := 1, kind := 2, stage := 3, tok := 1, malf := true, core := 0, flight := 0, va := 0x3000, gpa := 0x3000, info := some (placedFlight.thread 5).trapaddr }
def failX : Acc (Option Nat) := ({ failed with failures := [] } : State).lantern 21
  { ty := 4, kind := 2, cause := 2, stage := 3, wrt := true, core := 0, flight := 0, va := 0x3000, gpa := 0x3000 }
def wcb0 : Wcb := ⟨21, 0, 0x30, false, 1, 0xAB, 0⟩
def buffered (n : Nat) : State := { base' with clock := n, cores := base'.cores.set 0 { base'.core 0 with wcb := [wcb0] } }
def monwHeld (lim clock : Nat) (cmp : W64) : State := { (coherent (put 0x3000 [7] base')).setFlight 0 0 (placedFlight.setThread 0
  { placedFlight.thread 0 with hold := .monw 0x3000 4 false false cmp lim 0 (dv 1) 0x1000 9 ⟨0, [], [], 0x100C⟩ }) with clock := clock }
def heldT (s : State) : Acc (Except XFail (List Piece)) := s.transPieces 0 placedFlight.ctx .read [(0x3000, Ty.bytes .b32)]
def heldR (s : State) : Acc (Except (Nat × Nat × Nat) (Nat × Bool)) := (stA (heldT s)).readPieces 0 placedFlight.ctx ((stA (heldT s)).siteOf 0 (fl s) 4) ((stA (heldT s)).funcOf placedFlight.ctx) [(vA (heldT s)).headD ⟨0, false, 0⟩]
theorem witness_MemoryEventsComplete :
    (∀ p, p ∈ [landW, landL] → ((landing p base').flight? 0 0).isSome = true ∧ (fl (landing p base')).loads.get? 3 = some p ∧ (p.res.map (·.1)).Nodup) ∧
    (∀ x, x ∈ landW.res → (∃ ws, x.2 = .words ws ∧ ws.length = landW.n) ∨ ∃ k, x.2 = .tok k) ∧
    (∃ s1 seq, recordX = .ok s1 seq) ∧ (fl (landing landL base')).toks.get? 1 = none ∧ ((fl (landing landL base')).thread 5).live = true ∧
    (fl (landing landN base')).loads.get? 3 = some landN ∧ (∀ x, x ∈ landN.res → ∀ k, x.2 ≠ .tok k) ∧
    ((fl landT).loads.get? 3 = some landL ∧ (fl landT).toks.get? 2 = some ⟨2, 0x1000, 8, 1, none, .open, 9⟩ ∧
      ∀ j e, (fl landT).toks.get? j = some e → e.issue = 9 → e.kind = 2 → j = 2) ∧
    (∃ f : Flight, f.longs.get? 3 = some ⟨[(31, [.v 8 1 false])], [.s 3 5], [(31, .v 8 0 false)]⟩) ∧
    (failed.failures[0]? = some ⟨21, 0, 0, true, 3, 2, 0x3000, 0x3000, true⟩ ∧ ∃ s1 r, failX = .ok s1 r) ∧
    (∀ x, x ∈ [(0, 5, 7), (100, 99, 7), (100, 100, 7), (0, 5, 8)] → let s := monwHeld x.1 x.2.1 (BitVec.ofNat 64 x.2.2)
      ((fl s).thread 0).hold = .monw 0x3000 4 false false (BitVec.ofNat 64 x.2.2) x.1 0 (dv 1) 0x1000 9 ⟨0, [], [], 0x100C⟩ ∧ isOkE (heldT s) = true ∧ (vA (heldT s)).length = 1 ∧
      isOkE (heldR s) = true ∧ vA (heldR s) = (7, false)) ∧
    (∀ n, n ∈ [4095, 4096] → ((buffered n).core 0).wcb[0]? = some wcb0 ∧ (buffered n).clock - wcb0.start = n) ∧
    ∃ s1, (buffered 4096).drainEntry 0 wcb0 = .ok s1 () := by
  refine ⟨by decide +kernel, ?_, ⟨_, _, okN (by decide +kernel)⟩, by decide +kernel, by decide +kernel, by decide +kernel, ?_, ⟨by decide +kernel, by decide +kernel, ?_⟩, ⟨{ Flight.fresh with longs := .single 3 _ }, rfl⟩, ⟨by decide +kernel, _, _, okN (by decide +kernel)⟩,
    by decide +kernel, by decide +kernel, _, okU (by decide +kernel)⟩
  · intro x h
    simp only [landW, List.mem_cons, List.not_mem_nil, or_false] at h
    rcases h with rfl | rfl
    · exact .inl ⟨_, rfl, rfl⟩
    · exact .inr ⟨_, rfl⟩
  · intro x h k
    simp only [landN, List.mem_cons, List.not_mem_nil, or_false] at h
    simp [h]
  · intro j e h _ _
    have : (fl landT).toks = .single 2 ⟨2, 0x1000, 8, 1, none, .open, 9⟩ := by decide +kernel
    rw [this] at h
    by_cases x : j = 2
    · exact x
    · exact absurd h (by simp [KMap.single, Ne.symm x])

-- System registers

def privB (s : State) (i : Instr) : Bool := readyB s i && decide ((hereOf s).f.ctx ≤ 20) && guardMask (viewOf i).grd (hereOf s).r == (hereOf s).r.exec
def priv (s : State) (i : Instr) : Prop := Spec.privileged s (hereOf s) i (viewOf i) (specOf i)
theorem priv_of {s : State} {i : Instr} (e : privB s i = true) : priv s i := by
  simp only [privB, Bool.and_eq_true, decide_eq_true_eq, beq_iff_eq] at e
  exact ⟨ready_of e.1.1, e.1.2, e.2⟩
def uni (s : State) (i : Instr) (x : Src) (w : Bool) : W64 := Spec.uniform s (hereOf s) (viewOf i) x w
/-- A flight of firmware with s4, s6 and s8. -/
def fw (a b c : W64) (f : Flight) : Flight := ss [(4, a), (5, 0), (6, b), (8, c)] (firm f)
def csrR : Instr := .csrr (Spec.args (ds 10) (s_ 4) z0 z0 .none 0 0)
def csrW : Instr := .csrw (Spec.args no (s_ 4) (s_ 6) z0 .none 0 0)
def csrS (x : W64) : State := rig csrR (fw x 0 0)
def csrRB (x : W64) : Bool :=
  privB (csrS x) csrR && uni (csrS x) csrR (viewOf csrR).sa false == x && (hereOf (csrS x)).f.ctx == 0 && ((csrS x).ctx 21).st != .free
theorem csrR_of {x : W64} (e : csrRB x = true) : priv (csrS x) csrR ∧ uni (csrS x) csrR (viewOf csrR).sa false = x ∧ (hereOf (csrS x)).f.ctx = 0 ∧ Spec.reaches (csrS x) 0 21 := by
  simp only [csrRB, Bool.and_eq_true, beq_iff_eq, bne_iff_ne] at e
  exact ⟨priv_of e.1.1.1, e.1.1.2, e.1.2, by decide, e.2, .inl rfl⟩
def csrWS : State := rig csrW (fw 0x15023 0x4003 0)
theorem csrW_writes : privB csrWS csrW = true ∧ uni csrWS csrW (viewOf csrW).sa false = 0x15023 ∧ uni csrWS csrW (viewOf csrW).sbSrc true = 0x4003 ∧ (hereOf csrWS).f.ctx = 0 ∧
    (csrWS.ctx 21).st ≠ .free := by decide +kernel
theorem reads_of (s : State) (h : Spec.reaches s 0 21) (x : Nat) (hx : x ∈ [0x15023, 0x15029, 0x500, 0x501, 0xA00]) : ∃ y, Spec.csrHolds s 0 x y := by
  simp only [List.mem_cons, List.not_mem_nil, or_false] at hx
  rcases hx with rfl | rfl | rfl | rfl | rfl
  · exact ⟨(s.ctx 21).tvec, by decide, .inl ⟨by decide, h, by simp⟩⟩
  · exact ⟨BitVec.ofNat 64 (s.funcOf 21), by decide, .inl ⟨by decide, h, by simp⟩⟩
  · exact ⟨BitVec.ofNat 64 ((s.core 0).spk % 16 + if (s.core 0).busy then 2 ^ 8 else 0), by decide, .inr (.inl ⟨by decide, ⟨by decide, .inl rfl⟩, by simp⟩)⟩
  · exact ⟨(s.core 0).errc, by decide, .inr (.inl ⟨by decide, ⟨by decide, .inl rfl⟩, by simp⟩)⟩
  · exact ⟨(s.die 0).errc, by decide, .inr (.inr ⟨by decide, by decide, .inl (by simp)⟩)⟩
theorem writes_of (s : State) (h : Spec.reaches s 0 21) : ∃ t, Spec.csrWrites s 0 0x15023 0x4003 t := ⟨_, by decide, .inl ⟨by decide, h, .inl ⟨by decide, rfl⟩⟩⟩
theorem reaches_placed : Spec.reaches (State.reset.placeWord 0) 0 21 ∧ Spec.reaches (State.reset.placeWord 0) 0 4 :=
  ⟨⟨by decide, by decide +kernel, .inl rfl⟩, ⟨by decide, by decide +kernel, .inl rfl⟩⟩
/-- Registers of a context, at both ends of their list, of a core and of a die; a write of a context's TVEC by instruction and by event; the translation of an idle context and of one on a core. -/
theorem witness_SystemRegisters :
    (∀ x, x ∈ [0x15023, 0x15029, 0x500, 0x501, 0xA00] → priv (csrS x) csrR ∧ ∃ y, Spec.csrHolds (csrS x) (hereOf (csrS x)).f.ctx (uni (csrS x) csrR (viewOf csrR).sa false).toNat y) ∧
    (priv csrWS csrW ∧ ∃ t, Spec.csrWrites csrWS (hereOf csrWS).f.ctx (uni csrWS csrW (viewOf csrW).sa false).toNat (uni csrWS csrW (viewOf csrW).sbSrc true) t) ∧
    (∃ t, Spec.csrWrites (State.reset.placeWord 0) 0 0x15023 0x4003 t) ∧ (State.reset.placeWord 0).occupied 21 = true ∧ (∃ t, Spec.translates (State.reset.placeWord 0) 4 0x25 0x12345 t) := by
  have e : ([0x15023, 0x15029, 0x500, 0x501, 0xA00].all csrRB) = true := by decide +kernel
  refine ⟨fun x h => ?_, ⟨priv_of csrW_writes.1, ?_⟩, writes_of _ reaches_placed.1, by decide +kernel, _, by decide +kernel, _, rfl, .inr (.inr (.inr ⟨rfl, rfl⟩))⟩
  · obtain ⟨a, b, c, d⟩ := csrR_of (List.all_eq_true.mp e x h)
    rw [b, c]
    exact ⟨a, reads_of _ d _ (by simpa [← BitVec.toNat_inj] using h)⟩
  · obtain ⟨-, b, c, d, f⟩ := csrW_writes
    rw [b, c, d]
    exact writes_of _ ⟨by decide, f, .inl rfl⟩

-- The lantern queue and the TLB

def placed0 : State := State.reset.placeWord 0
def sized (x : Ctx) : Ctx := { x with lsize := 4, lhead := 0, ltail := 1 }
/-- The lantern of context 21 holds one record of a load, with token 1, in slot 0: not taken, and taken. -/
def lit (st : Nat) (s : State) : State := put 0x20000 ([0x11] ++ List.replicate 27 0 ++ [st]) (s.setCtx 21 (sized (s.ctx 21)))
def lqpop : Instr := .lqpop (Spec.args (ds 10) (s_ 4) z0 z0 .none 0 0)
def lqdone : Instr := .lqdone (Spec.args no (s_ 4) (s_ 6) z0 .none 0 0)
def tlbinvR : Instr := .tlbinv (Spec.args no (s_ 4) (s_ 6) (s_ 8) .none 0 1)
def slotX (s : State) : Acc (BitVec 512 × BitVec 16) := s.lookSec (s.funcOf 21) ((s.ctx 21).slotAddr 0 / 64)
def slotRec (s : State) : Nat := secNum (vN (slotX s)).1 ((s.ctx 21).slotAddr 0 % 64) 32
theorem holds_of {s : State} {psn : Bool} (e : isOkA (slotX s) = true) (h : ((vN (slotX s)).2 &&& wordsTouched (maskOf ((s.ctx 21).slotAddr 0 % 64) 32) != 0) = psn) :
    Spec.lanternHolds s 21 0 (slotRec s) psn (stA (slotX s)) := ⟨_, _, okN e, rfl, h.symm⟩
def stateWrite (s : State) (byte : Nat) : Acc Unit :=
  let u := stA (slotX s)
  let a := (u.ctx 21).slotAddr 0 + 28
  u.writeAtHome none (u.funcOf 21) (a / 64) false true (numSec byte (a % 64)) (maskOf (a % 64) 1) 0
/-- A slot with STATE 00 at the head of the queue, and one with STATE 10. -/
theorem pops_of {s : State} (h : (s.ctx 21).lhead = 0) (t : (s.ctx 21).ltail = 1) (e : isOkA (slotX s) = true)
    (w : isOkA (stateWrite s (slotRec s / 2 ^ 224 % 256 / 4 * 4 + 2)) = true)
    (f : let m := stA (stateWrite s (slotRec s / 2 ^ 224 % 256 / 4 * 4 + 2)); (((m.setCtx 21 { m.ctx 21 with lhead := ((s.ctx 21).lhead + 1) % 2 ^ 16 }).acquire 0 4 false).flight? 0 0).isSome = true) :
    ∃ y t, Spec.pops s 21 y t ∧ ((t.acquire 0 4 false).flight? 0 0).isSome = true := by
  refine ⟨_, _, .inr ⟨by rw [h, t]; decide, slotRec s, ((vN (slotX s)).2 &&& wordsTouched (maskOf ((s.ctx 21).slotAddr 0 % 64) 32) != 0), stA (slotX s), stA (stateWrite s (slotRec s / 2 ^ 224 % 256 / 4 * 4 + 2)), ?_, ?_, rfl, rfl⟩, f⟩
  · rw [h]; exact holds_of e rfl
  · rw [h]; exact okU w
theorem resolves_of {s : State} (rfs : Bool) (e : isOkA (slotX s) = true) (q : ((vN (slotX s)).2 &&& wordsTouched (maskOf ((s.ctx 21).slotAddr 0 % 64) 32) != 0) = false)
    (r : slotRec s / 2 ^ 224 % 4 = 2 ∧ slotRec s / 2 ^ 48 % 2 ^ 16 = 0)
    (st : (s.ctx 21).st = .saved) (w : isOkA (stateWrite s (slotRec s / 2 ^ 224 % 256 / 8 * 8 + 3 + if rfs then 4 else 0)) = true) : ∃ t, Spec.resolves s 21 (2 ^ 63) rfs t := by
  have z : BitVec.toNat (2 ^ 63 : W64) % 2 ^ 16 = 0 := by decide +kernel
  refine ⟨stA (stateWrite s (slotRec s / 2 ^ 224 % 256 / 8 * 8 + 3 + if rfs then 4 else 0)), ?_⟩
  simp only [Spec.resolves, z]
  exact ⟨by decide +kernel, slotRec s, stA (slotX s), s, holds_of e q, r.1, r.2, .inl ⟨st, okU w⟩⟩
def saved21 (s : State) : State := s.setCtx 21 { s.ctx 21 with st := .saved }
def selected (s : State) : State := s.setVf 0 { s.vf 0 with lqsel := 21 }
theorem witness_LanternQueueAndTlb :
    (let s := rig tlbinvR (fw 21 0x3000 0x1000); priv s tlbinvR ∧ Spec.reaches s (hereOf s).f.ctx 21 ∧ (uni s tlbinvR (viewOf tlbinvR).sa false).toNat = 21 ∧
      (uni s tlbinvR (viewOf tlbinvR).sbSrc true).toNat % 4096 = 0 ∧ (uni s tlbinvR (viewOf tlbinvR).sc true).toNat % 4096 = 0 ∧
      ∃ s1 f, s.release (hereOf s).c (hereOf s).f.ctx 4 = .ok s1 () ∧ s1.piecesOut 21 = false ∧ s1.flight? (hereOf s).c (hereOf s).fid = some f) ∧
    (let s := lit 0 (rig lqpop (fw 21 0 0)); priv s lqpop ∧ Spec.reaches s (hereOf s).f.ctx 21 ∧ (uni s lqpop (viewOf lqpop).sa false).toNat = 21 ∧ ∃ y t, Spec.pops s 21 y t ∧ ((t.acquire 0 4 false).flight? 0 0).isSome = true) ∧
    (let s := saved21 (lit 2 (rig lqdone (fw 21 0x8000000000000000 0))); priv s lqdone ∧ Spec.reaches s (hereOf s).f.ctx 21 ∧ uni s lqdone (viewOf lqdone).sbSrc true = 2 ^ 63 ∧
      ∃ s1, s.release (hereOf s).c (hereOf s).f.ctx 4 = .ok s1 () ∧ ∃ t, Spec.resolves s1 21 (2 ^ 63) false t) ∧
    (let s := selected (lit 0 placed0); (21 ≤ (s.vf 0).lqsel ∧ (s.ctx (s.vf 0).lqsel).st ≠ .free ∧ (s.ctx (s.vf 0).lqsel).func = 0) ∧ (s.vf 0).lqsel = 21 ∧ ∃ y t, Spec.pops s 21 y t ∧ ((t.acquire 0 4 false).flight? 0 0).isSome = true) ∧
    (∀ r, r ∈ [true, false] → let s := saved21 (selected (lit 2 placed0)); ((s.ctx 21).st ≠ .free ∧ (s.ctx 21).func = 0 ∧ (s.vf 0).lqsel = 21) ∧ ∃ t, Spec.resolves s 21 (2 ^ 63) r t) ∧
    ¬(21 ≤ (placed0.vf 0).lqsel) := by
  refine ⟨⟨priv_of (by decide +kernel), ⟨by decide, by decide +kernel, .inl rfl⟩, by decide +kernel, by decide +kernel, by decide +kernel, _, _, okN (by decide +kernel), by decide +kernel,
      Option.some_get (by decide +kernel) |>.symm⟩,
    ⟨priv_of (by decide +kernel), ⟨by decide, by decide +kernel, .inl rfl⟩, by decide +kernel, pops_of (by decide +kernel) (by decide +kernel) (by decide +kernel) (by decide +kernel) (by decide +kernel)⟩,
    ⟨priv_of (by decide +kernel), ⟨by decide, by decide +kernel, .inl rfl⟩, by decide +kernel, _, okN (by decide +kernel),
      resolves_of false (by decide +kernel) (by decide +kernel) (by decide +kernel) (by decide +kernel) (by decide +kernel)⟩,
    ⟨by decide +kernel, by decide +kernel, pops_of (by decide +kernel) (by decide +kernel) (by decide +kernel) (by decide +kernel) (by decide +kernel)⟩, fun r h => ?_, by decide +kernel⟩
  have e : ∀ r, r ∈ [true, false] → isOkA (stateWrite (saved21 (selected (lit 2 placed0))) (slotRec (saved21 (selected (lit 2 placed0))) / 2 ^ 224 % 256 / 8 * 8 + 3 + if r then 4 else 0)) = true := by
    decide +kernel
  exact ⟨by decide +kernel, resolves_of r (by decide +kernel) (by decide +kernel) (by decide +kernel) (by decide +kernel) (e r h)⟩

-- Contexts saved and loaded

def ctxsave : Instr := .ctxsave (Spec.args (ds 10) (s_ 4) (s_ 6) (s_ 8) .none 0 0)
def ctxdrop : Instr := .ctxsaveDrop (Spec.args (ds 10) (s_ 4) z0 z0 .none 0 1)
def ctxload : Instr := .ctxload (Spec.args (ds 10) (s_ 4) (s_ 6) z0 .none 0 0)
def ctxres : Instr := .ctxloadRes (Spec.args (ds 10) (s_ 4) z0 z0 .none 0 1)
def opened (f : Ctx → Ctx) (s : State) : State := s.setCtx 22 (f { Ctx.reset 22 with st := .idle, func := 0 })
/-- The flight at the cursor waits in a transfer of context 22. -/
def transferring22 (s : State) : State :=
  let s := s.setFlight 0 0 { fl s with run := (fl s).run.map fun r => { r with waiting := true } }
  s.setCtx 22 { s.ctx 22 with saving := some (0, 0) }
def saveS (f : Ctx → Ctx) : State := opened f (rig ctxsave (fw 22 0x3000 0x1000))
def midSave : State := transferring22 (saveS id)
def rel (s : State) : Acc Unit := s.release (hereOf s).c (hereOf s).f.ctx 4
/-- The image of an idle context: a header, its tag, and no cores. -/
def imageOf (s : State) : List Byte := imageBytes (imageHeader (s.funcOf 22) 22 1 256 [] false 0) 256 s.free
def savedBytes : List Byte := bytesN (imageHeader 0 22 1 256 [] false 0) 256
def savedImage : Image := ⟨22, 5, savedBytes, [], .empty⟩
def loadS (st : CtxSt) (cnt : Nat) : State :=
  let s := rig ctxload (fw 22 0x3000 0)
  opened (fun x => { x with st := st, saveCnt := cnt, loadable := true, key := 5 }) { put 0x3000 (savedBytes.map (·.toNat)) s with images := [savedImage] }
def loadX (s : State) : Acc (Except Nat Image) := (stA (rel s)).readSaved 22 0x3000
def imageRead (x : Acc (Except Nat Image)) (y : Except Nat Image) : Bool :=
  match x, y with
  | .ok _ (.ok im), .ok im' => im == im'
  | .ok _ (.error c), .error c' => c == c'
  | _, _ => false
theorem imageRead_of {x : Acc (Except Nat Image)} {y : Except Nat Image} (e : imageRead x y = true) : x = .ok (stA x) y := by
  unfold imageRead at e
  split at e
  · rw [beq_iff_eq.mp e]; rfl
  · rw [beq_iff_eq.mp e]; rfl
  · cases e
def reachable (s : State) (i : Instr) : Prop := priv s i ∧ (uni s i (viewOf i).sa false).toNat = 22 ∧ ((s.ctx 22).st = .free ∨ Spec.reaches s (hereOf s).f.ctx 22)
def reachB (s : State) (i : Instr) : Bool := privB s i && (uni s i (viewOf i).sa false).toNat == 22 && (hereOf s).f.ctx == 0
theorem reach_of {s : State} {i : Instr} (e : reachB s i = true) : reachable s i := by
  simp only [reachB, Bool.and_eq_true, beq_iff_eq] at e
  refine ⟨priv_of e.1.1, e.1.2, ?_⟩
  by_cases h : (s.ctx 22).st = .free
  · exact .inl h
  · exact .inr ⟨by decide, h, .inl e.2⟩
/-- CTXSAVE of a context that is free, one that another flight saves, one that begins, and one whose image is due, with a limit of exactly its length. -/
theorem witness_ctxsave :
    (∀ f, f ∈ [fun (x : Ctx) => { x with st := .free }, fun x => { x with st := .saved }, fun x => x] → reachable (saveS f) ctxsave ∧
      (uni (saveS f) ctxsave (viewOf ctxsave).sbSrc true).toNat = 0x3000 ∧ (uni (saveS f) ctxsave (viewOf ctxsave).sc false).toNat = 0x1000 ∧ (hereOf (saveS f)).r.waiting = false) ∧
    (((saveS id).ctx 22).st = .idle ∧ (saveS id).transferring 22 = false ∧ (saveS id).covered ((saveS id).funcOf 22) 0x3000 0x1000 = true ∧ ∃ s1, rel (saveS id) = .ok s1 ()) ∧
    reachable midSave ctxsave ∧ (hereOf midSave).r.waiting = true ∧ (midSave.ctx 22).saving = some ((hereOf midSave).c, (hereOf midSave).fid) ∧ midSave.quiet 22 = true ∧
    ∃ s1 m f, midSave.releaseCtx 22 = .ok s1 () ∧ s1.coresOf 22 = [] ∧ s1.imageLen [] = 256 ∧ (s1.ctx 22).saveCnt = 0 ∧
      ({ s1 with free := s1.free + 1 } : State).writeImage (s1.funcOf 22) 0x3000 5 (imageOf s1) = .ok m none ∧ (m.freeCtx 22).flight? (hereOf midSave).c (hereOf midSave).fid = some f := by
  have e : ∀ f, f ∈ [fun (x : Ctx) => { x with st := .free }, fun x => { x with st := .saved }, fun x => x] → reachB (saveS f) ctxsave = true ∧
      (uni (saveS f) ctxsave (viewOf ctxsave).sbSrc true).toNat = 0x3000 ∧ (uni (saveS f) ctxsave (viewOf ctxsave).sc false).toNat = 0x1000 ∧ (hereOf (saveS f)).r.waiting = false := by decide +kernel
  let s1 := stA (midSave.releaseCtx 22)
  let w := ({ s1 with free := s1.free + 1 } : State).writeImage (s1.funcOf 22) 0x3000 5 (imageOf s1)
  have hw : isOkA w = true := by decide +kernel
  have ho : vN w = none := by decide +kernel
  refine ⟨fun f h => ⟨reach_of (e f h).1, (e f h).2⟩, ⟨by decide +kernel, by decide +kernel, by decide +kernel, _, okN (by decide +kernel)⟩, reach_of (by decide +kernel), by decide +kernel,
    by decide +kernel, by decide +kernel, s1, stA w, _, okN (by decide +kernel), by decide +kernel, by decide +kernel, by decide +kernel, ?_, Option.some_get (by decide +kernel) |>.symm⟩
  have h := okN hw
  rw [ho] at h
  exact h
/-- CTXLOAD of a context that is not SAVED, of an image with the counter the context holds, and of one with another. -/
theorem witness_ctxload :
    (∀ x, x ∈ [(CtxSt.idle, 1), (.saved, 1), (.saved, 2)] → reachable (loadS x.1 x.2) ctxload ∧ (uni (loadS x.1 x.2) ctxload (viewOf ctxload).sbSrc true).toNat = 0x3000) ∧
    (∃ s1 m t f, rel (loadS .saved 1) = .ok s1 () ∧ (loadS .saved 1).transferring 22 = false ∧ s1.readSaved 22 0x3000 = .ok m (.ok savedImage) ∧ m.loadImage 22 savedImage = .ok t () ∧
      (t.acquire 0 4 false).flight? 0 0 = some f ∧ savedImage.cores = [] ∧ (m.ctx 22).heldCause = none ∧ numOfBytes (savedImage.bytes.take 36) / 2 ^ 264 % 2 = 0) ∧
    ∃ s1 m f, rel (loadS .saved 2) = .ok s1 () ∧ s1.readSaved 22 0x3000 = .ok m (.error 5) ∧ m.flight? 0 0 = some f := by
  have e : ∀ x, x ∈ [(CtxSt.idle, 1), (.saved, 1), (.saved, 2)] → reachB (loadS x.1 x.2) ctxload = true ∧ (uni (loadS x.1 x.2) ctxload (viewOf ctxload).sbSrc true).toNat = 0x3000 := by
    decide +kernel
  refine ⟨fun x h => ⟨reach_of (e x h).1, (e x h).2⟩, ⟨_, stA (loadX (loadS .saved 1)), stA ((stA (loadX (loadS .saved 1))).loadImage 22 savedImage), _, okN (by decide +kernel), by decide +kernel,
    imageRead_of (by decide +kernel), okU (by decide +kernel), Option.some_get (by decide +kernel) |>.symm, rfl, by decide +kernel, by decide +kernel⟩,
    ⟨_, stA (loadX (loadS .saved 2)), _, okN (by decide +kernel), imageRead_of (by decide +kernel), Option.some_get (by decide +kernel) |>.symm⟩⟩
def dropS (f : Ctx → Ctx) : State := opened f (rig ctxdrop (fw 22 0 0))
def resS (st : CtxSt) (cause : Nat) : State := opened (fun x => { x with st := st, cause := cause }) (rig ctxres (fw 22 0 0))
theorem witness_ctxdrop_and_resume :
    (∀ f, f ∈ [fun (x : Ctx) => { x with st := .free }, fun x => x] → reachable (dropS f) ctxdrop) ∧ ((dropS id).ctx 22).st ≠ .free ∧ (dropS id).transferring 22 = false ∧
    (∃ t f, (dropS id).dropCtx 22 = .ok t () ∧ t.flight? 0 0 = some f) ∧
    ∀ x, x ∈ [(CtxSt.idle, 0), (.halted, 4), (.halted, 8), (.halted, 5)] → reachable (resS x.1 x.2) ctxres ∧ (resS x.1 x.2).transferring 22 = false ∧ ((resS x.1 x.2).ctx 22).cause = x.2 := by
  have e : ∀ f, f ∈ [fun (x : Ctx) => { x with st := .free }, fun x => x] → reachB (dropS f) ctxdrop = true := by decide +kernel
  have r : ∀ x, x ∈ [(CtxSt.idle, 0), (.halted, 4), (.halted, 8), (.halted, 5)] → reachB (resS x.1 x.2) ctxres = true ∧ (resS x.1 x.2).transferring 22 = false ∧ ((resS x.1 x.2).ctx 22).cause = x.2 := by
    decide +kernel
  exact ⟨fun f h => reach_of (e f h), by decide +kernel, by decide +kernel, ⟨_, _, okU (by decide +kernel), Option.some_get (by decide +kernel) |>.symm⟩, fun x h => ⟨reach_of (r x h).1, (r x h).2⟩⟩

-- Forks and the racking processor

def rjoin : Instr := .rjoin (Spec.args no (s_ 4) z0 z0 .none 0 0)
def rstat : Instr := .rstat (Spec.args (ds 10) (s_ 4) z0 z0 .none 0 0)
/-- The flight's block has made fork 3, in engine thread 0, live and ended. -/
def forked (r : EngRun) (s : State) : State :=
  let s := s.setEng 0 0 { Eng.reset with run := r, gen := 3, ctx := 21 }
  s.setCore 0 { s.core 0 with nextFork := 4, forks := .single 3 (0, 0) }
theorem own_of {s : State} {h : Here} {b : Block} (e : h.c = 0 ∧ h.f.block = 0 ∧ (s.core 0).nextFork = 4 ∧ (s.core 0).forks.get? 3 = some (0, 0)) (d : s.blockOf h.f = some (0, b)) :
    Spec.ownFork s h 24 3 := by
  obtain ⟨a, f, c, d'⟩ := e
  refine ⟨by decide, by decide, ?_, 0, b, d, ?_⟩
  · rw [a, c]; decide
  · rw [a, d', f]
def forkS (i : Instr) (r : EngRun) : State := rig i (ss [(4, 24)]) (forked r)
theorem witness_ForksComplete :
    (let s := rig rfork (ss [(4, 0x3000), (8, 5), (11, 6)]); here s rfork ∧ guardMask (viewOf rfork).grd (hereOf s).r = BitVec.allOnes 32 ∧ (∀ l, l < 32 → ((hereOf s).f.thread l).live = true) ∧
      (opA s rfork 0).bits = 0x3000 ∧ (s.eng 0 0).active = false ∧ (hereOf s).c = 0 ∧ (s.blockOf (hereOf s).f).isSome = true) ∧
    (let s := forkS rfork .running; here s rfork ∧ (s.eng 0 0).active = true ∧ (s.eng 0 1).active = false) ∧
    (∀ i, i ∈ [rjoin, rstat] → ∀ r, r ∈ [EngRun.running, .ended false 0] → here (forkS i r) i ∧ ((forkS i r).eng 0 0).active = (r == .running) ∧ ((forkS i r).eng 0 0).gen = 3 ∧
      (hereOf (forkS i r)).r.isLast = true ∧ ∀ l, l < 32 → (opA (forkS i r) i l).psn = false ∧ (opA (forkS i r) i l).bits = 24 ∧ Spec.ownFork (forkS i r) (hereOf (forkS i r)) 24 3) := by
  refine ⟨⟨ready_of (by decide +kernel), by decide +kernel⟩, ⟨ready_of (by decide +kernel), by decide +kernel⟩, fun i hi r hr => ?_⟩
  have e : ∀ i, i ∈ [rjoin, rstat] → ∀ r, r ∈ [EngRun.running, .ended false 0] → readyB (forkS i r) i = true ∧ (((forkS i r).eng 0 0).active = (r == .running) ∧ ((forkS i r).eng 0 0).gen = 3 ∧
      (hereOf (forkS i r)).r.isLast = true) ∧ (∀ l, l < 32 → (opA (forkS i r) i l).psn = false ∧ (opA (forkS i r) i l).bits = 24) ∧
      ((hereOf (forkS i r)).c = 0 ∧ (hereOf (forkS i r)).f.block = 0 ∧ ((forkS i r).core 0).nextFork = 4 ∧ ((forkS i r).core 0).forks.get? 3 = some (0, 0)) ∧
      (forkS i r).blockOf (hereOf (forkS i r)).f = some (0, ((forkS i r).block? 0 0).getD placedBlock) := by decide +kernel
  obtain ⟨a, ⟨b, c, d⟩, f, g, k⟩ := e i hi r hr
  exact ⟨ready_of a, b, c, d, fun l hl => ⟨(f l hl).1, (f l hl).2, own_of g k⟩⟩

def racks (s : State) (i : Instr) : Prop := Spec.racking s 0 0 (s.eng 0 0) i (viewOf i) (specOf i)
def racksB (s : State) (i : Instr) : Bool := s.cur == ⟨0, 0, true⟩ && (s.core 0).engs.get? 0 == some (s.eng 0 0) && i.view?.isSome && (specOf i).legal (viewOf i)
theorem racks_of {s : State} {i : Instr} (e : racksB s i = true) : racks s i := by
  simp only [racksB, Bool.and_eq_true, beq_iff_eq, Option.isSome_iff_exists] at e
  obtain ⟨⟨⟨a, b⟩, ⟨v, o⟩, d⟩, f⟩ := e
  refine ⟨a, b, ?_, f⟩
  simp [viewOf, specOf, d]
theorem all_rack {l : List (Instr × State)} (e : (l.all fun x => racksB x.2 x.1) = true) : ∀ x, x ∈ l → racks x.2 x.1 := fun x h => racks_of (List.all_eq_true.mp e x h)
def scalars : List Instr := [.eadd e2, .eaddI (ei 1), .esub e2, .esubI (ei 1), .emul e2, .eand e2, .eandI (ei 1), .eor e2, .eorI (ei 1), .exor e2, .exorI (ei 1), .eshl e2, .eshlI (ei 63), .eshr e2,
  .eshrI (ei 63), .ecmp { e2 with ty := .i64, z := 2 }, .ecmpI { ei 0 with ty := .n64, z := 2 }, .emov (Spec.args (dv 1) (y_ 5) z0 z0 .none 0 0), .emovi (Spec.argsI 7 (dv 1) z0 7 .none 1),
  .ebr (Spec.args no (v_ 2) (v_ 3) z0 .none 0 0), .ebrI (Spec.argsI 7 no (v_ 2) 0xFFFFFFF7 .none 1), .ejmp (Spec.args no (v_ 2) z0 z0 .none 0 0), .ejmpI (Spec.argsI 7 no z0 3 .none 0),
  .eloop (Spec.args (dv 6) (v_ 6) (v_ 7) z0 .none 0 0), .eloopI (Spec.argsI 7 (dv 6) (v_ 6) 0xFFFFFFF7 .none 0)]
/-- Every scalar instruction; branches taken and not, to targets that are aligned, misaligned and not canonical. -/
theorem witness_EngineScalarResults : (∀ x, x ∈ scalars.map (fun i => (i, rack i)) → racks x.2 x.1) ∧
    (∀ w, w ∈ [(0, 1), (1, 0)] → (BitVec.ofNat 64 w.1 = 0#64 ↔ w.2 = 1)) ∧
    (0x3000 % 4 = 0 ∧ canonical 0x3000 = true) ∧ 0x3002 % 4 ≠ 0 ∧ (0x8000000000000000 % 4 = 0 ∧ canonical 0x8000000000000000 = false) :=
  ⟨all_rack (by decide +kernel), by decide, by decide, by decide, by decide⟩

def eld : Instr := .eld (Spec.args (dv 1) (v_ 2) (i_ 4) z0 .n16 0 0)
def eldI : Instr := .eldI (Spec.argsI 7 (dv 1) (v_ 2) 4 .n16 0)
def eldS : Instr := .eld (Spec.args (dv 1) (v_ 2) (i_ 12) z0 .n32 0 1)
def est : Instr := .est (Spec.args no (v_ 2) (i_ 4) (v_ 3) .n16 0 0)
def estS : Instr := .est (Spec.args no (v_ 2) (i_ 12) (v_ 3) .n32 0 1)
def wset : Instr := .wset (Spec.args (ds 1) (v_ 2) z0 z0 .none 0 2)
def wsetLd : Instr := .wsetLd (Spec.args (ds 1) (v_ 2) (i_ 64) z0 .none 0 0)
def wstep : Instr := .wstep (Spec.args (ds 1) (i_ 0) (i_ 3) z0 .none 0 0)
def at2 (g : Eng) : Eng := regs [(2, 0x3000)] g
def placeE (s : State) (a : W64) (write : Bool) : Acc (ERes (Nat × Bool)) := s.engTranslate 0 (s.eng 0 0).ctx a write
def mappedE (s : State) (a : W64) (write : Bool) : Nat × Bool :=
  match placeE s a write with
  | .ok _ (.ok x) => x
  | _ => (0, false)
def mapsE (s : State) (a : W64) (write : Bool) : Bool :=
  match placeE s a write with
  | .ok _ (.ok _) => true
  | _ => false
theorem mapsE_of {s : State} {a : W64} {write : Bool} (e : mapsE s a write = true) :
    s.engTranslate 0 (s.eng 0 0).ctx a write = .ok (stA (placeE s a write)) (.ok ((mappedE s a write).1, (mappedE s a write).2)) := by
  unfold mapsE at e
  unfold mappedE
  cases h : placeE s a write with
  | ok m x => cases x with
    | ok g => exact h
    | _ => rw [h] at e; cases e
  | _ => rw [h] at e; cases e
def readE (s : State) (a : W64) (n : Nat) : Acc (Nat × Bool) :=
  let m := stA (placeE s a false)
  m.readN 0 .home (m.funcOf (s.eng 0 0).ctx) (mappedE s a false).1 (mappedE s a false).2 n
def readsE (s : State) (a : W64) (n : Nat) : Bool :=
  let m := stA (placeE s a false)
  a.toNat % n == 0 && mapsE s a false && (m.home (secKey (m.funcOf (s.eng 0 0).ctx) ((mappedE s a false).1 / 64))).owner == none && isOkA (readE s a n)
theorem readsE_of {s : State} {a : W64} {n scp : Nat} (h : scp ≠ 5 ∧ scp ≠ 6) (e : readsE s a n = true) :
    Spec.rackReads s 0 (s.eng 0 0) scp a n (vN (readE s a n)).1 (vN (readE s a n)).2 (stA (readE s a n)) := by
  simp only [readsE, Bool.and_eq_true, beq_iff_eq] at e
  obtain ⟨⟨⟨a1, b⟩, c⟩, d⟩ := e
  refine ⟨_, _, _, a1, mapsE_of b, c, ?_⟩
  rw [if_neg h.1, if_neg h.2]
  exact okN d
def writeE (s : State) : Acc Unit :=
  let m := stA (placeE s 0x3004 true)
  m.writeN 0 .home (m.funcOf (s.eng 0 0).ctx) (mappedE s 0x3004 true).1 (mappedE s 0x3004 true).2 2 0xBCDE
def topSpad (g : Eng) : Eng := regs [(2, 0xFFF0)] g
theorem witness_EngineMemoryAndWalkers :
    (∀ x, x ∈ [(eld, rack eld at2), (eldI, rack eldI at2), (wsetLd, rack wsetLd at2), (eldS, rack eldS topSpad (spad 0x3FFF ⟨5, false⟩)), (est, rack est at2), (estS, rack estS topSpad), (wset, rack wset),
      (wstep, rack wstep (walks 1 (walker 0x1000 1 1 0 [16] [64]))), (wstep, rack wstep (walks 1 (walker 0x1000 0 1 0 [16] [1])))] → racks x.2 x.1) ∧
    (∀ i, i ∈ [eld, eldI] → ∃ z psn t, Spec.rackReads (rack i at2) 0 ((rack i at2).eng 0 0) (viewOf i).scp 0x3004 2 z psn t) ∧
    (∃ z psn t, Spec.rackReads (rack wsetLd at2) 0 ((rack wsetLd at2).eng 0 0) 4 0x3040 64 z psn t) ∧
    (let s := rack eldS topSpad (spad 0x3FFF ⟨5, false⟩); ∃ b, s.block? (s.eng 0 0).home (s.eng 0 0).block = some b ∧ b.granted = true ∧ 0xFFFC + 4 ≤ b.spadHeld ∧
      b.spadNum 0xFFFC 4 = 5 ∧ b.spadPsn 0xFFFC 4 = false) ∧
    (let s := rack est at2; (s.eng 0 0).slots.entries = [] ∧ ∃ m gpa cls t, s.engTranslate 0 (s.eng 0 0).ctx 0x3004 true = .ok m (.ok (gpa, cls)) ∧ m.isRemote (m.funcOf (s.eng 0 0).ctx) gpa = false ∧
      m.writeN 0 .home (m.funcOf (s.eng 0 0).ctx) gpa cls 2 0xBCDE = .ok t ()) ∧
    (∀ l, l ∈ [none, some (EngLoad.reg 1 5), some (.walker 1 5)] → ((rack eld fun g => { g with load := l }).eng 0 0).load = l ∧ (rack eld fun g => { g with load := l }).mayRun 21 = true) := by
  have e : ∀ i, i ∈ [eld, eldI] → readsE (rack i at2) 0x3004 2 = true ∧ (viewOf i).scp = 0 := by decide +kernel
  refine ⟨all_rack (by decide +kernel), fun i h => ⟨_, _, _, readsE_of (by rw [(e i h).2]; decide) (e i h).1⟩, ⟨_, _, _, readsE_of (by decide) (by decide +kernel)⟩,
    ⟨((rack eldS topSpad (spad 0x3FFF ⟨5, false⟩)).block? 0 0).getD placedBlock, by decide +kernel⟩,
    ⟨by decide +kernel, _, _, _, _, mapsE_of (by decide +kernel), by decide +kernel, okU (x := writeE (rack est at2)) (by decide +kernel)⟩, by decide +kernel⟩

def ecbadd : Instr := .ecbadd (Spec.args no (k_ 63) (i_ 64) z0 .none 0 0)
def ecbwait : Instr := .ecbwait (Spec.args no (v_ 2) z0 z0 .none 0 0)
def efence : Instr := .efence (Spec.args no z0 z0 z0 .none 5 3)
def eendI : Instr := .eend (Spec.args no z0 z0 z0 .none 0 0)
def releaseE (s : State) (scp : Nat) : Acc Unit := s.release 0 (s.eng 0 0).ctx scp
theorem witness_EngineSynchronisation :
    (∀ x, x ∈ [(ecbadd, rack ecbadd), (ecbwait, rack ecbwait (regs [(2, 63)])), (ecbwait, rack ecbwait (regs [(2, 63)]) (cbs { CBar.reset with armed := true })), (efence, rack efence), (eendI, rack eendI)] →
      racks x.2 x.1 ∧ (x.2.eng 0 0).slots.entries = []) ∧
    (∃ s1, releaseE (rack ecbadd) ((rack ecbadd).cb 0 63).scope = .ok s1 ()) ∧ (∃ s1, releaseE (rack efence) (viewOf efence).scp = .ok s1 ()) ∧ (viewOf ecbadd).sa.cls = .k ∧
    ((63 = (Spec.rackSrc (rack ecbwait (regs [(2, 63)])) 0 0 ((rack ecbwait (regs [(2, 63)])).eng 0 0) (viewOf ecbwait).sa).toNat) ∧ 63 < 64) ∧
    ((rack ecbwait (regs [(2, 63)]) (cbs { CBar.reset with armed := true })).cb 0 63).armed = true ∧ ((rack ecbwait (regs [(2, 63)])).cb 0 63).armed = false ∧
    (∃ t : Transfer, ((rack eendI fun g => { g with slots := .single 0 t }).eng 0 0).slots.entries ≠ []) := by
  have e : ([(ecbadd, rack ecbadd), (ecbwait, rack ecbwait (regs [(2, 63)])), (ecbwait, rack ecbwait (regs [(2, 63)]) (cbs { CBar.reset with armed := true })), (efence, rack efence),
    (eendI, rack eendI)].all fun x => racksB x.2 x.1 && (x.2.eng 0 0).slots.entries == []) = true := by decide +kernel
  refine ⟨fun x h => ?_, ⟨_, okU (x := releaseE (rack ecbadd) ((rack ecbadd).cb 0 63).scope) (by decide +kernel)⟩, ⟨_, okU (x := releaseE (rack efence) (viewOf efence).scp) (by decide +kernel)⟩,
    by decide +kernel, by decide +kernel, by decide +kernel, by decide +kernel, ?_⟩
  · have := List.all_eq_true.mp e x h
    simp only [Bool.and_eq_true, beq_iff_eq] at this
    exact ⟨racks_of this.1, this.2⟩
  · exact ⟨⟨0, e2, 0, 0, 0, 0, 0, none, 0, .empty, [], .empty, 0, .empty, false⟩, by decide +kernel⟩

-- Transfers

def transfers : List (Instr × Nat) := [(tcopy, 0), (.texp (Spec.args no (v_ 2) (s_ 0) z0 .none 0 0x84), 1), (.tpack (Spec.args no (s_ 0) (s_ 1) z0 .none 0 0x94), 2),
  (.tgath (Spec.args no (s_ 0) (s_ 1) (s_ 2) .none 0 0x80), 3), (.tscat (Spec.args (dk 63) (s_ 0) (s_ 1) (s_ 2) .none 0 0), 4), (.treg (Spec.args no (s_ 0) (v_ 2) (i_ 8) .none 0 0x80), 5)]
def blankT (n : Nat) : Transfer := ⟨0, e2, 0, 0, 0, 0, n, none, 0, .empty, [], .empty, 0, .empty, false⟩
def fullSlots (g : Eng) : Eng := { g with slots := (List.range 4).foldl (fun m k => m.set k (blankT k)) .empty }
def issued : Transfer := { blankT 0 with args := Spec.args no (s_ 1) (s_ 0) z0 .none 0 0x80, wa := walker 0x100 3 1 1 [16] [4], wb := walker 0x3000 3 1 0 [16] [4] }
def ownX : Acc (KMap Nat) := tcopied.takeOwners 0 0 0 21 issued ((List.range issued.pieces.length).zip issued.pieces)
/-- TCOPY with a barrier, after its piece has been read. -/
def tcopyB : Instr := .tcopy (Spec.args (dk 63) (s_ 1) (s_ 0) z0 .none 0 0)
def readPiece (i : Instr) : State := nextOf (exec (.pieceLand 0 0 0 9) (nextOf (exec i (rack i (fun g => walks 1 (walker 0x100 3 1 1 [16] [4]) (walks 0 (walker 0x3000 3 1 0 [16] [4]) g))
  (fun s => put 0x3000 [1, 2, 3, 4, 5] ((List.range 16).foldl (fun s k => spad (0x40 + k) ⟨0, false⟩ s) s))))))
def slot0 (s : State) : Transfer := ((s.eng 0 0).slots.get? 0).getD (blankT 0)
def piece0 (s : State) : Cap := ((slot0 s).flight.get? 0).getD ⟨0, 0, false, 0, 0, 0, []⟩
theorem witness_TransfersComplete :
    (∀ x, x ∈ transfers → racks (rack x.1) x.1 ∧ racks (rack x.1 fullSlots) x.1 ∧ (∃ a b c d, Spec.transferForm (viewOf x.1) x.1 = some (x.2, a, b, c, d)) ∧
      ((rack x.1).eng 0 0).slots.get? 0 = none ∧ ∀ k, k < 4 → (((rack x.1 fullSlots).eng 0 0).slots.get? k).isSome = true) ∧
    (∃ cause, (rack tcopy).transferBad ((rack tcopy).eng 0 0) (blankT 0) = some cause) ∧
    (tcopied.transferBad (tcopied.eng 0 0) issued = none ∧ ∃ s1 own, ownX = .ok s1 own) ∧
    (let w := walker 0x3000 3 2 0 [16, 2] [4, 64]; w.toNat / 2 ^ 384 % 8 ≠ 0 ∧ wSpace w = 0 ∧ ∀ d, d < 5 → (fun d => if d = 0 then 15 else if d = 1 then 1 else 0) d < wExt w d) ∧
    (∀ i, i ∈ [tcopy, tcopyB] → let s := readPiece i
      (s.eng 0 0).run = .running ∧ s.mayRun (s.eng 0 0).ctx = true ∧ (s.eng 0 0).slots.get? 0 = some (slot0 s) ∧ (slot0 s).flight.get? 0 = some (piece0 s) ∧ (piece0 s).space = 1 ∧
      (s.block? (piece0 s).core (piece0 s).block).isSome = true ∧ (∀ x, x ∈ (piece0 s).bytes → x.val < 256) ∧ ((piece0 s).bytes.map (·.pos)).Nodup ∧ (slot0 s).owned.get? 0 = none ∧
      ((slot0 s).args.opt.getLsbD 7 = (i == tcopy)) ∧ -(2 ^ 39) ≤ (s.cb 0 63).count - (piece0 s).count ∧ (s.cb 0 63).count - (piece0 s).count < 2 ^ 39) := by
  have e : ∀ x, x ∈ transfers → racksB (rack x.1) x.1 = true ∧ racksB (rack x.1 fullSlots) x.1 = true ∧ (Spec.transferForm (viewOf x.1) x.1).map (·.1) = some x.2 ∧
      ((rack x.1).eng 0 0).slots.get? 0 = none ∧ ∀ k, k < 4 → (((rack x.1 fullSlots).eng 0 0).slots.get? k).isSome = true := by decide +kernel
  refine ⟨fun x h => ?_, ⟨_, Option.some_get (by decide +kernel) |>.symm⟩, ⟨by decide +kernel, stA ownX, okA (by decide +kernel)⟩, by decide +kernel, by decide +kernel⟩
  obtain ⟨a, b, c, d⟩ := e x h
  rw [Option.map_eq_some_iff] at c
  obtain ⟨⟨n, p, q, r, t⟩, c1, c2⟩ := c
  exact ⟨racks_of a, racks_of b, ⟨p, q, r, t, by rw [c1, ← c2]⟩, d⟩

-- The Trellis

/-- A steward's flight: context 1 of partition 0, whose function is 0; two clusters, a quota of 4 nodes, a slice of one unit. -/
def stew (a : W64) (f : Flight) : Flight := ss [(4, a), (6, a), (7, 0), (5, 0)] { f with ctx := 1 }
def withPart (f : Part → Part) (s : State) : State :=
  let s := s.setCtx 1 { s.ctx 1 with st := .resident, func := 0, ptroot := 0x10000 }
  { s with parts := s.parts.set 0 (f { s.part 0 with desc := BitVec.ofNat 512 (3 + 4 * 2 ^ 192 + 2 ^ 272 + 0x3000 * 2 ^ 384), nodes := .empty, counts := .empty }) }
/-- Node records: no successors; an event node and a kernel node of one block. -/
def succs : Nat := ((List.range 16).map fun i => 0xFFFF * 2 ^ (576 + 16 * i)).sum
def eventRec : Nat := 5 + 21 * 2 ^ 16 + 2 ^ 31 + succs
def kernelRec : Nat := 4095 + 21 * 2 ^ 16 + 0x4000 * 2 ^ 64 + 2 ^ 128 + 2 ^ 160 + 2 ^ 192 + 0x1000 * 2 ^ 224 + 0x80000 * 2 ^ 256 + succs
def recBytes (r n : Nat) : List Nat := (List.range n).map fun k => r / 256 ^ k % 256
def tgp : Instr := .tgpost (Spec.args (ds 10) (s_ 6) z0 z0 .none 0 0)
def tgd : Instr := .tgdone (Spec.args (ds 10) (s_ 6) z0 z0 .none 0 0)
def postS (r : Nat) (f : Part → Part) : State := withPart f (put 0x4000 (recBytes (simpleDesc 64 1 0).toNat 25) (put 0x3048 (List.replicate 32 0xFF) (put 0x3000 (recBytes (r % 2 ^ 320) 40) (rig tgp (stew 0x3000)))))
def readsR (x : State × VaRd) (r : Nat) : Bool := x.2 == .ok r
theorem readsR_of {x : State × VaRd} {r : Nat} (e : readsR x r = true) : x = (x.1, .ok r) := by
  rw [readsR, beq_iff_eq] at e
  rw [← e]
def postX (r : Nat) (f : Part → Part) : State × VaRd := (postS r f).readBytes 1 0x3000 256
def eventNode (st : NodeSt) : Node := ⟨BitVec.ofNat 2048 eventRec, 0, st, 0, 0, 0, none⟩
def kernelNode (st : NodeSt) (l : Option Nat) : Node := ⟨BitVec.ofNat 2048 kernelRec, simpleDesc 64 1 0, st, 0, 0, 0, l⟩
def nodes (ns : List (Nat × Node)) (p : Part) : Part := { p with nodes := .ofList ns }
theorem fields_ok : ∀ r, r ∈ [eventRec, kernelRec] → Spec.nodeRecord r := by
  unfold Spec.nodeRecord
  decide +kernel
theorem fields_bad : ∀ r, r ∈ [eventRec + 2 ^ 12] → ¬Spec.nodeRecord r := by
  unfold Spec.nodeRecord
  decide +kernel
def kdX : State × VaRd := (postX kernelRec id).1.readBytes (kernelRec / 2 ^ 16 % 2 ^ 12) (BitVec.ofNat 64 (kernelRec / 2 ^ 64 % 2 ^ 64)) 64
/-- Records with a reserved bit, of an EMPTY id, of a busy one, with a quota of none, of a context of no partition; an event node and a kernel node. -/
theorem witness_tgpost :
    (∀ r, r ∈ [eventRec, kernelRec, eventRec + 2 ^ 12] → let s := postS r id; priv s tgp ∧ uni s tgp (viewOf tgp).sa true = 0x3000 ∧ s.readBytes 1 0x3000 256 = ((postX r id).1, .ok r)) ∧
    (∀ r, r ∈ [eventRec, kernelRec] → Spec.nodeRecord r ∧ Spec.postsTo (postX r id).1 1 21 0 ∧ ((postX r id).1.part 0).nodes.has (r % 2 ^ 12) = false ∧
      ((postX r id).1.part 0).nodes.entries.length < ((postX r id).1.part 0).desc.toNat / 2 ^ 192 % 2 ^ 16) ∧ ¬Spec.nodeRecord (eventRec + 2 ^ 12) ∧
    (let f := nodes [(5, eventNode .waiting)]; (((postX eventRec f).1.part 0).nodes.has 5) = true ∧ Spec.postsTo (postX eventRec f).1 1 21 0) ∧
    (let f (p : Part) : Part := { p with desc := 3 }; ((postX eventRec f).1.part 0).nodes.has 5 = false ∧ ((postX eventRec f).1.part 0).desc.toNat / 2 ^ 192 % 2 ^ 16 ≤ ((postX eventRec f).1.part 0).nodes.entries.length) ∧
    (∀ p, ¬Spec.postsTo (State.reset) 1 21 p) ∧ (Spec.nodeParts (postX eventRec id).1 eventRec (postX eventRec id).1 0 0 0) ∧
    Spec.nodeParts (postX kernelRec id).1 kernelRec kdX.1 0 0 (simpleDesc 64 1 0) := by
  have e : ∀ r, r ∈ [eventRec, kernelRec, eventRec + 2 ^ 12] → privB (postS r id) tgp = true ∧ uni (postS r id) tgp (viewOf tgp).sa true = 0x3000 ∧ readsR (postX r id) r = true := by decide +kernel
  have p (s : State) (e : (s.ctx 21).st ≠ .free ∧ s.partOf 21 = some 0 ∧ s.partOf 1 = some 0) : Spec.postsTo s 1 21 0 :=
    ⟨⟨by decide, e.1, .inr ⟨by decide, 0, e.2.1, e.2.2⟩⟩, e.2.1, .inr e.2.2⟩
  have q : ∀ r, r ∈ [eventRec, kernelRec] → let s := (postX r id).1; ((s.ctx 21).st ≠ .free ∧ s.partOf 21 = some 0 ∧ s.partOf 1 = some 0) ∧ (s.part 0).nodes.has (r % 2 ^ 12) = false ∧
      (s.part 0).nodes.entries.length < (s.part 0).desc.toNat / 2 ^ 192 % 2 ^ 16 := by decide +kernel
  refine ⟨fun r h => ⟨priv_of (e r h).1, (e r h).2.1, readsR_of (e r h).2.2⟩, fun r h => ⟨fields_ok r h, p _ (q r h).1, (q r h).2⟩, fields_bad _ (.head _),
    ⟨by decide +kernel, p _ (by decide +kernel)⟩, by decide +kernel, fun p h => h.1.2.1 rfl, ⟨(postX eventRec id).1, .inl ⟨.inl (by decide +kernel), rfl, rfl, rfl⟩, .inl ⟨by decide +kernel, rfl, rfl⟩⟩,
    ⟨(postX kernelRec id).1, .inl ⟨.inr (by decide +kernel), rfl, rfl, rfl⟩, .inr ⟨by decide +kernel, (simpleDesc 64 1 0).toNat, readsR_of (x := kdX) (by decide +kernel), by decide +kernel, by decide +kernel⟩⟩⟩
def doneS (ns : List (Nat × Node)) (id' : W64) : State := withPart (nodes ns) (rig tgd (stew id'))
def doneX (s : State) (id' : Nat) : Acc Unit := s.nodeComplete 0 id'
theorem witness_tgdone :
    (∀ x, x ∈ [([], 4096), ([], 4095), ([(4095, kernelNode .ready none)], 4095), ([(5, eventNode .waiting)], 5), ([(5, eventNode .ready)], 5)] → let s := doneS x.1 (BitVec.ofNat 64 x.2)
      priv s tgd ∧ s.partOf (hereOf s).f.ctx = some 0 ∧ (uni s tgd (viewOf tgd).sa false).toNat = x.2 ∧ ∀ id' n, (id', n) ∈ x.1 → (s.part 0).nodes.get? id' = some n) ∧
    eventRec / 2 ^ 31 % 2 = 1 ∧ ¬(kernelRec / 2 ^ 31 % 2 = 1) ∧ ∃ m f, (doneS [(5, eventNode .ready)] 5).nodeComplete 0 5 = .ok m () ∧ m.flight? 0 0 = some f := by
  have e : ([([], 4096), ([], 4095), ([(4095, kernelNode .ready none)], 4095), ([(5, eventNode .waiting)], 5), ([(5, eventNode .ready)], 5)].all fun x => let s := doneS x.1 (BitVec.ofNat 64 x.2)
    privB s tgd && s.partOf (hereOf s).f.ctx == some 0 && (uni s tgd (viewOf tgd).sa false).toNat == x.2 && x.1.all fun n => (s.part 0).nodes.get? n.1 == some n.2) = true := by decide +kernel
  refine ⟨fun x h => ?_, by decide +kernel, by decide +kernel, _, _, okU (x := doneX (doneS [(5, eventNode .ready)] 5) 5) (by decide +kernel), Option.some_get (by decide +kernel) |>.symm⟩
  have := List.all_eq_true.mp e x h
  simp only [Bool.and_eq_true, beq_iff_eq] at this
  obtain ⟨⟨⟨a, b⟩, c⟩, d⟩ := this
  exact ⟨priv_of a, b, c, fun i n hn => beq_iff_eq.mp (List.all_eq_true.mp d (i, n) hn)⟩

/-- A launch of two more blocks in groups of one, in partition 0; nodes that can start here and one whose bank cannot be read. -/
def more : Launch := { placedLaunch with desc := simpleDesc 64 2 0x100, grid := (3, 1, 1), next := 1, stop := 3 }
def placedP (f : Part → Part) (g : State → State) : State := withPart f (g (State.reset.placeWord 0))
def admitS : State := placedP id fun s => { s with launches := s.launches.set 0 more }
def noBank : Node := { kernelNode .ready none with recd := BitVec.ofNat 2048 (kernelRec + 0x50000000 * 2 ^ 320), desc := simpleDesc 64 1 0 + BitVec.ofNat 512 (1 * 2 ^ 160) }
def dispatchS (n : Node) : State := placedP (nodes [(4095, n)]) id
def goX (s : State) : Acc (Option (Nat × Node × Going)) := s.firstGoing 0 (s.readyNodes 0)
def picks (s : State) (g : Option (Nat × Node × Going)) : Bool := isOkA (goX s) && vN (goX s) == g
theorem picks_of {s : State} {g : Option (Nat × Node × Going)} (e : picks s g = true) : s.firstGoing 0 (s.readyNodes 0) = .ok (stA (goX s)) g := by
  simp only [picks, Bool.and_eq_true, beq_iff_eq] at e
  exact e.2 ▸ okN e.1
/-- A node that ships to the pool of package 9: one tile there, and a code handle for its kernel descriptor. -/
def shipNode : Node := { kernelNode .ready none with recd := BitVec.ofNat 2048 (kernelRec + 2 ^ 30 + 0x20000000 * 2 ^ 1024 + 0x100 * 2 ^ 1088) }
def pooled (s : State) : State :=
  { s with exts := (s.exts.set 0 ⟨true, true, false, 0, 0, 0x2000, 0, 0, 0, 0⟩).set 1 ⟨true, true, false, 2, 0x2000, 0x2000, 0, 1, 9, 0⟩
           dies := s.dies.set 0 { s.die 0 with fports := .single 0 { Port.reset with up := true, peer := 9 } } }
def shipS : State := placedP (fun p => { nodes [(4095, shipNode)] p with handles := .single (0x4000 * 2 ^ 16 + 9) 0x77 }) pooled
/-- The same with no link to that package left. -/
def unlinkedS : State := { shipS with dies := shipS.dies.set 0 { shipS.die 0 with fports := .single 0 Port.reset } }
/-- What the bank of the node reads as once it has been picked. -/
def bankOf (s : State) (n : Node) : VaRd := ((stA (goX s)).readBank n).2
theorem witness_block_admit :
    (State.reset.launch? 0 = none) ∧ admitS.launch? 0 = some more ∧ admitS.mayPlace more.ctx false = true ∧ 1 ≤ more.group ∧ (∃ t, admitS.admitNext 0 = some t) ∧
    ({ placedLaunch with stop := 1 } = placedLaunch ∧ (State.reset.placeWord 0).admitNext 0 = none) :=
  ⟨rfl, by decide +kernel, by decide +kernel, by decide, ⟨_, Option.some_get (by decide +kernel) |>.symm⟩, rfl, by decide +kernel⟩
theorem witness_node_dispatch :
    (placedP id id).firstGoing 0 ((placedP id id).readyNodes 0) = .ok (stA (goX (placedP id id))) none ∧
    (let s := dispatchS (kernelNode .ready none); s.firstGoing 0 (s.readyNodes 0) = .ok (stA (goX s)) (some (4095, kernelNode .ready none, .cores 0)) ∧ bankOf s (kernelNode .ready none) = .ok 0) ∧
    (let s := dispatchS noBank; s.firstGoing 0 (s.readyNodes 0) = .ok (stA (goX s)) (some (4095, noBank, .cores 0)) ∧ bankOf s noBank = .fault) ∧
    (∀ x, x ∈ [(shipS, true), (unlinkedS, false)] → x.1.recovery = false ∧ x.1.firstGoing 0 (x.1.readyNodes 0) = .ok (stA (goX x.1)) (some (4095, shipNode, .ship 9 0x77)) ∧ bankOf x.1 shipNode = .ok 0 ∧
      ((stA (goX x.1)).readBank shipNode).1.linked 9 = x.2) := by
  have e : ∀ x, x ∈ [(shipS, true), (unlinkedS, false)] → x.1.recovery = false ∧ picks x.1 (some (4095, shipNode, .ship 9 0x77)) = true ∧ bankOf x.1 shipNode = .ok 0 ∧
      ((stA (goX x.1)).readBank shipNode).1.linked 9 = x.2 := by decide +kernel
  exact ⟨picks_of (by decide +kernel), ⟨picks_of (by decide +kernel), by decide +kernel⟩, ⟨picks_of (by decide +kernel), by decide +kernel⟩,
    fun x h => ⟨(e x h).1, picks_of (e x h).2.1, (e x h).2.2⟩⟩
def running (la : Launch) (s : State) : State := { s with launches := .single 0 la, cores := s.cores.set 0 { s.core 0 with flights := .empty, blocks := .empty } }
def ended : Launch := { placedLaunch with node := some (0, 4095), next := 1, stop := 1, live := 0 }
def endS (la : Launch) : State := placedP (nodes [(4095, kernelNode .running (some 0))]) (running la)
theorem witness_launch_complete :
    (∀ la, la ∈ [ended, { ended with live := 1 }, { ended with stop := 2 }] → (endS la).launch? 0 = some la ∧ la.node = some (0, 4095)) ∧
    (((endS ended).ctx 21).st = .resident ∧ (endS ended).transferring 21 = false ∧ ((endS ended).part 0).nodes.get? 4095 = some (kernelNode .running (some 0)) ∧
      ∃ m, (endS ended).nodeComplete 0 4095 = .ok m ()) :=
  ⟨by decide +kernel, by decide +kernel, by decide +kernel, by decide +kernel, _, okU (x := doneX (endS ended) 4095) (by decide +kernel)⟩
/-- The steward's root program at guest-physical address 0x3000. -/
def rootS : State := withPart id (put 0x3000 (recBytes (simpleDesc 64 1 0).toNat 25) (bare.setVf 0 { bare.vf 0 with part := some 0 }))
theorem witness_root_start :
    (rootS.recovery = false ∧ (rootS.part 0).desc.toNat % 2 ^ 32 ≠ 0 ∧ (rootS.vf ((rootS.part 0).desc.toNat / 2 ^ 256 % 2 ^ 8)).en = true ∧ (rootS.part 0).rootUp = false ∧ (rootS.ctx 1).st ≠ .halted ∧
      (rootS.part 0).badRoot = false ∧ rootS.waiting 1 = false ∧ (rootS.part 0).desc.toNat / 2 ^ 384 % 2 ^ 64 % 64 = 0 ∧ (rootS.readGpa 0 (0x3000 % 2 ^ 57) 64).2 = .ok (simpleDesc 64 1 0).toNat ∧ kValid (simpleDesc 64 1 0) = true ∧
      kFlights (simpleDesc 64 1 0) = 1) ∧
    ({ rootS with recovery := true } : State).recovery = true ∧ (State.reset.part 0).desc.toNat % 2 ^ 32 = 0 := by decide +kernel
/-- Two VFs of a partition that is sliced, of which the second has a ready node; before and at the end of a slice. -/
def slicedS (n clock : Nat) : State :=
  let s := placedP (nodes (if n = 0 then [] else [(4095, kernelNode .ready none)])) id
  { s.setVf 1 { s.vf 0 with part := some 0, en := true } with clock := clock }
theorem witness_slice_expiry : (∀ x, x ∈ [(0, 4095), (0, 4096), (1, 4096)] → let s := slicedS x.1 x.2; s.sliced 0 = true ∧ s.clock - (s.part 0).since = x.2 ∧ (s.part 0).desc.toNat / 2 ^ 272 % 2 ^ 32 * 4096 = 4096) ∧
    ((slicedS 1 4096).vfsOf 0 = [0, 1] ∧ ((slicedS 1 4096).part 0).nodes.get? 4095 = some (kernelNode .ready none) ∧ kernelRec / 2 ^ 16 % 2 ^ 12 = 21 ∧ (slicedS 1 4096).funcOf 21 = 0) := by decide +kernel

-- Event rings

def ringS (b : Bool) (h : List (BitVec 128)) : State := { State.reset.placeWord 0 with rings := .single 0 ⟨0, 0x3000, 4, 15, h, true, b⟩ }
def ringSlot (b : Bool) : Acc (BitVec 512 × BitVec 16) := (ringS b [5]).lookSec 0 (0x30F0 / 64)
def ringX (b : Bool) : Acc Unit := (stA (ringSlot b)).writeAtCtl none 0 (0x30F0 / 64) false true (numSec (5 + 2 ^ 28 + 15 * 2 ^ 48) (0x30F0 % 64)) (maskOf (0x30F0 % 64) 16) 0
/-- A free slot, and one that still holds a record; a ring of no size. -/
def fullRing (b : Bool) : State := put 0x30F0 [1] (ringS b [5])
def fullSlot (b : Bool) : Acc (BitVec 512 × BitVec 16) := (fullRing b).lookSec 0 (0x30F0 / 64)
theorem witness_EventRingsComplete : ∀ b, b ∈ [true, false] → ((ringS b []).ring 0).held = [] ∧ ((ringS b [5]).ring 0).broken = b ∧ ((ringS b [5]).ring 0).held = [5] ∧ ((ringS b [5]).ring 0).size ≠ 0 ∧
    ((ringS b [5]).ring 0).base + 16 * (((ringS b [5]).ring 0).eseq % 2 ^ ((ringS b [5]).ring 0).size) = 0x30F0 ∧ ((ringS b [5]).ring 0).func = 0 ∧
    (∃ u d p, (ringS b [5]).lookSec 0 (0x30F0 / 64) = .ok u (d, p) ∧ secNum d (0x30F0 % 64) 1 = 0 ∧
      ∃ m, u.writeAtCtl none 0 (0x30F0 / 64) false true (numSec (5 + 2 ^ 28 + 15 * 2 ^ 48) (0x30F0 % 64)) (maskOf (0x30F0 % 64) 16) 0 = .ok m ()) ∧
    (∃ u d p, (fullRing b).lookSec 0 (0x30F0 / 64) = .ok u (d, p) ∧ secNum d (0x30F0 % 64) 1 ≠ 0) ∧
    ∃ s : State, (s.ring 0).size = 0 ∧ (s.ring 0).held ≠ [] ∧ (s.ring 0).broken = b := by
  intro b h
  have e : ∀ b, b ∈ [true, false] → (((ringS b []).ring 0).held = [] ∧ ((ringS b [5]).ring 0).broken = b ∧ ((ringS b [5]).ring 0).held = [5] ∧ ((ringS b [5]).ring 0).size ≠ 0 ∧
    ((ringS b [5]).ring 0).base + 16 * (((ringS b [5]).ring 0).eseq % 2 ^ ((ringS b [5]).ring 0).size) = 0x30F0 ∧ ((ringS b [5]).ring 0).func = 0) ∧ isOkA (ringSlot b) = true ∧
    secNum (vN (ringSlot b)).1 (0x30F0 % 64) 1 = 0 ∧ isOkA (ringX b) = true ∧ isOkA (fullSlot b) = true ∧ secNum (vN (fullSlot b)).1 (0x30F0 % 64) 1 ≠ 0 := by decide +kernel
  obtain ⟨⟨a, c, d, z, f, g⟩, k, l, m, n, o⟩ := e b h
  exact ⟨a, c, d, z, f, g, ⟨_, _, _, okN k, l, _, okU m⟩, ⟨_, _, _, okN n, o⟩, { State.reset with rings := .single 0 ⟨0, 0, 0, 0, [5], false, b⟩ }, rfl, List.cons_ne_nil _ _, rfl⟩

-- Chunk graphs

def cgload : Instr := .cgload (Spec.args (ds 10) (s_ 4) z0 z0 .none 0 0)
def cgfree : Instr := .cgloadFree (Spec.args (ds 10) (s_ 4) z0 z0 .none 0 1)
def cgrun : Instr := .cgrun (Spec.args (ds 10) (s_ 4) (s_ 16) (i_ 9) .none 0 0)
/-- An operation without successors of a kind; the header of a graph of n operations, with a time-out of one unit. -/
def opNum (k : Nat) : Nat := k + 0x7FF * 2 ^ 224 + 0x7FF * 2 ^ 235 + (if k ≤ 1 then 2 * 2 ^ 64 + 2 * 2 ^ 104 + 2 * 2 ^ 112 else if k = 3 then 2 ^ 142 else if k = 2 then 2 ^ 64 else 0)
def opBits (k : Nat) : BitVec 256 := BitVec.ofNat 256 (opNum k)
def hdr1 : BitVec 512 := BitVec.ofNat 512 (1 + 2 ^ 128)
def graph1 (k : Nat) (r : Option CgRun) : Graph := ⟨21, 1, hdr1, [opBits k], r⟩
def handle1 : W64 := 2 ^ 32
def cgS (i : Instr) (x : W64) (g : State → State) : State := rig i (fun f => ss [(4, x), (5, 0)] f) g
def graphs (n : Nat) (s : State) : State := { s with dies := s.dies.set 0 { s.die 0 with graphs := (List.range n).foldl (fun m k => m.set k (graph1 4 none)) .empty } }
def rel5 (s : State) : Acc Unit := s.release (hereOf s).c (hereOf s).f.ctx 5
def bundleB (s : State) (i : Instr) : Bool := readyB s i && guardMask (viewOf i).grd (hereOf s).r == (hereOf s).r.exec && isOkA (rel5 s)
def bundle (s : State) (i : Instr) : Prop := Spec.bundle s (hereOf s) i (viewOf i) (specOf i) (stA (rel5 s))
theorem bundle_of {s : State} {i : Instr} (e : bundleB s i = true) : bundle s i := by
  simp only [bundleB, Bool.and_eq_true, beq_iff_eq] at e
  exact ⟨ready_of e.1.1, e.1.2, okU e.2⟩
def image (s : State) : State := put 0x3040 (recBytes (opNum 4) 32) (put 0x3000 (recBytes hdr1.toNat 17) s)
def farX (s : State) (a : W64) (n : Nat) (t : State) : State × VaRd := t.readFar (hereOf s).f.ctx ((stA (rel5 s)).tableOf (hereOf s).f.launch) a n
def headX (s : State) : State × VaRd := farX s 0x3000 64 (stA (rel5 s))
def bodyX (s : State) : State × VaRd := farX s (0x3000 + 64) 32 (headX s).1
theorem witness_cgload :
    (∀ x, x ∈ [(0x3004, 0), (0x40000000, 0), (0x3000, 0), (0x3000, 7), (0x3000, 8)] → let s := cgS cgload (BitVec.ofNat 64 x.1) (fun s => graphs x.2 (image s))
      bundle s cgload ∧ (uni (stA (rel5 s)) cgload (viewOf cgload).sa true).toNat = x.1 ∧ (((stA (rel5 s)).die 0).graphs.entries.length = x.2)) ∧
    (let s := cgS cgload 0x40000000 image; (farX s 0x40000000 64 (stA (rel5 s))).2 = .fault) ∧
    (let s := cgS cgload 0x3000 (fun s => graphs 7 (image s)); (headX s).2 = .ok hdr1.toNat ∧ (bodyX s).2 = .ok (opNum 4)) ∧
    gHeadBad hdr1 = false ∧ graphBad hdr1 [opBits 4] = false ∧ graphBad hdr1 [opBits 5] = true ∧ hdr1.toNat % 2 ^ 11 = 1 := by
  have e : ([(0x3004, 0), (0x40000000, 0), (0x3000, 0), (0x3000, 7), (0x3000, 8)].all fun x => let s := cgS cgload (BitVec.ofNat 64 x.1) (fun s => graphs x.2 (image s))
      bundleB s cgload && (uni (stA (rel5 s)) cgload (viewOf cgload).sa true).toNat == x.1 && (((stA (rel5 s)).die 0).graphs.entries.length == x.2)) = true := by decide +kernel
  refine ⟨fun x h => ?_, by decide +kernel, by decide +kernel, by decide +kernel⟩
  have := List.all_eq_true.mp e x h
  simp only [Bool.and_eq_true, beq_iff_eq] at this
  exact ⟨bundle_of this.1.1, this.1.2, this.2⟩
def run0 : CgRun := ⟨List.replicate 8 0, 9, 0, 0, 3, [], 0, .empty, .empty, .empty, .empty, none, false, false⟩
def withRun (k : Nat) (r : Option CgRun) (s : State) : State := { s with dies := s.dies.set 0 { s.die 0 with graphs := .single 0 (graph1 k r) } }
/-- The launch with a process-group table of one healthy member, this package, and of none. -/
def table (healthy : Bool) (s : State) : State :=
  let s := put 0x3100 ([1, 0, 0, 0, 3, 0, 0, 0, 0, 0, if healthy then 1 else 0]) s
  { s with launches := s.launches.set 0 { placedLaunch with pgt := 0x3100 } }
def named (s : State) (i : Instr) (g : Graph) : Prop := let x := uni (stA (rel5 s)) i (viewOf i).sa true
  (stA (rel5 s)).graph? 0 (x.toNat % 8) = some g ∧ x.toNat / 8 % 4 = 0 ∧ x.toNat / 2 ^ 5 % 2 ^ 27 = 0 ∧ x.toNat / 2 ^ 32 = g.gen ∧ g.ctx = (hereOf s).f.ctx
def pgtX (s : State) : State × PgtRd := ((stA (rel5 s)).acquireL2 6).readPgt 21 0x3100
theorem witness_cgrun :
    (∀ i, i ∈ [cgfree, cgrun] → ∀ r, r ∈ [none, some run0] → let s := cgS i handle1 (withRun 4 r); bundle s i ∧ named s i (graph1 4 r)) ∧
    (∀ i, i ∈ [cgfree, cgrun] → let s := cgS i handle1 id; bundle s i ∧ (stA (rel5 s)).graph? 0 0 = none) ∧
    (∀ b, b ∈ [true, false] → let s := cgS cgrun handle1 (fun s => table b (withRun 4 none s)); bundle s cgrun ∧ named s cgrun (graph1 4 none) ∧
      (∃ la, (stA (rel5 s)).launch? (hereOf s).f.launch = some la ∧ la.pgt = 0x3100) ∧ (pgtX s).2 = .ok ⟨3, [(0, b)], []⟩ ∧ (stA (rel5 s)).ident.toNat = 0) := by
  have e : ∀ i, i ∈ [cgfree, cgrun] → ∀ r, r ∈ [none, some run0] → let s := cgS i handle1 (withRun 4 r); bundleB s i = true ∧ named s i (graph1 4 r) := by unfold named; decide +kernel
  have f : ∀ i, i ∈ [cgfree, cgrun] → let s := cgS i handle1 id; bundleB s i = true ∧ (stA (rel5 s)).graph? 0 0 = none := by decide +kernel
  have g : ∀ b, b ∈ [true, false] → let s := cgS cgrun handle1 (fun s => table b (withRun 4 none s)); bundleB s cgrun = true ∧ named s cgrun (graph1 4 none) ∧
      (stA (rel5 s)).launch? (hereOf s).f.launch = some { placedLaunch with pgt := 0x3100 } ∧ (pgtX s).2 = .ok ⟨3, [(0, b)], []⟩ ∧ (stA (rel5 s)).ident.toNat = 0 := by unfold named; decide +kernel
  exact ⟨fun i hi r hr => ⟨bundle_of (e i hi r hr).1, (e i hi r hr).2⟩, fun i hi => ⟨bundle_of (f i hi).1, (f i hi).2⟩,
    fun b hb => ⟨bundle_of (g b hb).1, (g b hb).2.1, ⟨_, (g b hb).2.2.1, rfl⟩, (g b hb).2.2.2⟩⟩

/-- A run with one operation of a kind in a state, before and at its time-out of 4096 cycles, with its member reachable and not. -/
def runS (k : Nat) (st : OpSt) (clock : Nat) (stop up : Bool) : State :=
  let s := withRun k (some { run0 with sts := .single 0 st, sent := .single 0 [1, 2], pools := [5], stopping := stop }) placed0
  let s := { s with clock := clock }
  s.setDie 0 { s.die 0 with fports := .single 0 { Port.reset with up := up, peer := 5 } }
def opOf1 (s : State) : Graph × CgRun := match s.graph? 0 0 with
  | some g => (g, g.run.getD run0)
  | none => (graph1 4 none, run0)
theorem witness_SequencerEventsComplete :
    (∀ st, st ∈ [OpSt.waiting, .retrying, .completed, .failed, .started] → ∀ k, k ∈ [0, 1, 3] → let s := runS k st 0 false true
      s.graph? 0 0 = some (opOf1 s).1 ∧ (opOf1 s).1.run = some (opOf1 s).2 ∧ (opOf1 s).2.st 0 = st ∧ ((opOf1 s).1.op 0).toNat % 16 = k ∧ s.reachable ((opOf1 s).2.member ((opOf1 s).1.op 0)) = true) ∧
    (runS 0 .started 0 false false).reachable 5 = false ∧
    (∀ p, p ∈ [true, false] → (opOf1 (runS 3 .started 0 p true)).2.stopping = p) ∧
    (let s := runS 3 .started 0 false true; s.holdsLaunch (oCcore (opBits 3)) 21 0 = true ∧ (s.cb (oCcore (opBits 3)) (oCb (opBits 3))).armed = false ∧
      let t := s.setCb 0 0 { CBar.reset with armed := true, scope := 4 }
      t.holdsLaunch (oCcore (opBits 3)) 21 0 = true ∧ (t.cb (oCcore (opBits 3)) (oCb (opBits 3))).armed = true ∧ (t.cb (oCcore (opBits 3)) (oCb (opBits 3))).count = 0) ∧
    (∀ n, n ∈ [2047, 2048] → let s := runS 0 .retrying n false true; (opOf1 s).2.sent.get? 0 = some [1, 2] ∧ s.clock - (opOf1 s).2.began.getD 0 0 = n) ∧
    ∀ n, n ∈ [4095, 4096] → let s := runS 1 .started n false true; (opOf1 s).1.hdr.toNat / 2 ^ 128 % 2 ^ 32 * 4096 = 4096 ∧ s.clock - (opOf1 s).2.began.getD 0 0 = n := by
  decide +kernel

-- Vats, pool memory and task packets

def vk : VatKey := ⟨9, 1⟩
def vat1 (st : VatSt) (got : Nat) : Vat := ⟨0, vk, st, 2, 2, 0, 2, got, 0, .empty, 0⟩
/-- A package of either build that function 3 of package 5 is bound to function 0 of, with a quota of vats. -/
def poolS (b : Build) (vs : List (Nat × Vat)) (q : Nat) : State :=
  let s := withPart (fun p => { p with desc := BitVec.ofNat 512 (3 + q * 2 ^ 208 + 4 * 2 ^ 240 + 8 * 2 ^ 224 + 2 ^ 64) }) placed0
  { s with build := b, binds := [((5, 3), 0)], vats := .ofList vs }
def vreq (p n : Nat) : VatReq := ⟨p, 5, 3, vk, 0, 2, 2, n, [1, 2]⟩
/-- A contribution without a vat that waits for the end of its cycle; two of one cycle, at the ports next to q on both sides of the wrap; and contributions served at their vat. -/
theorem witness_VatEventsComplete :
    (State.reset.bound 5 3 = none ∧ 31 < 32) ∧
    (∀ q, q ∈ [0, 1] → (poolS .gzC [] q).recovery = false ∧ (poolS .gzC [] q).bound 5 3 = some 0 ∧ (poolS .gzC [] q).vat? 0 vk = none ∧ (poolS .gzC [] q).vatQuota 0 = (q == 1) ∧
      (poolS .gzC [] q).vats.has 0 = false) ∧
    (∀ x, x ∈ [(VatSt.filling, 1), (.full, 2), (.aborted, 0)] → let s := poolS .gzC [(4095, vat1 x.1 x.2)] 1; s.bound 5 3 = some 0 ∧ s.vat? 0 vk = some (4095, vat1 x.1 x.2) ∧
      s.vats.get? 4095 = some (vat1 x.1 x.2) ∧ (vreq 0 2).ncon = (vat1 x.1 x.2).ncon ∧ (vreq 0 2).count = (vat1 x.1 x.2).count ∧ (vreq 0 3).count ≠ (vat1 x.1 x.2).count) ∧
    (∀ b, b ∈ [true, false] → let s : State := { poolS .gzC [] 1 with vatPort := 31, vatQ := if b then [vreq 31 2, vreq 0 2] else [vreq 0 2, vreq 31 2] }
      s.vatPort < 32 ∧ ((31 : Nat) + 32 - s.vatPort) % 32 < (0 + 32 - s.vatPort) % 32 ∧ (s.vatQ = [vreq 31 2, vreq 0 2] ∨ s.vatQ = [vreq 0 2, vreq 31 2])) ∧
    (∃ s u n, Spec.turn s (.tick n) u ∧ n ≠ 0) ∧
    ∀ n, n ∈ [2 ^ 24 - 1, 2 ^ 24] → let s : State := { poolS .gzC [(4095, vat1 .aborted 0)] 1 with clock := n }
      s.vats.get? 4095 = some (vat1 .aborted 0) ∧ s.clock - (vat1 .aborted 0).since = n :=
  ⟨by decide +kernel, by decide +kernel, by decide +kernel, by decide +kernel, ⟨{ State.reset with turns := [.tick 1] }, _, 1, ⟨[], rfl, rfl⟩, by decide⟩, by decide +kernel⟩

/-- A request of package 5 for package `dst`. -/
def reqTo (dst : BitVec 16) (k : ReqKind) (a : W64) : MemReq := ⟨5, dst, 3, k, false, a, 0, BitVec.allOnes 64, 0, 0, false⟩
def req (k : ReqKind) (a : W64) : MemReq := reqTo 0 k a
/-- Function 0's extent grants reads but no writes; another package holds the sector. -/
def readOnly (s : State) : State := { s with exts := s.exts.set 0 ⟨true, false, false, 0, 0, 0x4000, 0, 0, 0, 0⟩ }
def ported (peer : BitVec 16) (s : State) : State := { s with dies := s.dies.set 0 { s.die 0 with fports := .single 0 { Port.reset with up := true, peer := peer } } }
def heldBy (k : Nat) (s : State) : State := ported 7 { s with pfilter := s.pfilter.set (0x3000 / 64) [(k, .a)] }
def theExt : Extent := ⟨true, true, false, 0, 0, 0x4000, 0, 0, 0, 0⟩
def peerR : Acc (BitVec 512 × BitVec 16) := (poolS .gzX [] 1).readAtHome 0 (0x3000 / 64) (BitVec.allOnes 64)
def peerW : Acc Unit := (poolS .gzX [] 1).writeAtHome none 0 (0x3000 / 64) false false 0 (BitVec.allOnes 64) 0
def cleared : State := { poolS .gzX [] 1 with pfilter := (poolS .gzX [] 1).pfilter.erase (0x3000 / 64) }
def sendpX : Acc Unit := (poolS .gzC [] 1).writeUnit 0 0x3000 false 5 (BitVec.allOnes 64) true
/-- What is for package 7, with and without a link to it, passes or is refused; the rest of the requests are for this package. -/
theorem witness_requests :
    (∀ b, b ∈ [true, false] → let s := if b then ported 7 (poolS .gzX [] 1) else poolS .gzX [] 1
      s.recovery = false ∧ ¬(s.build ≠ .gzX ∨ (reqTo 7 .read 0x3000).dst = s.ident) ∧ s.linked (reqTo 7 .read 0x3000).dst.toNat = b) ∧
    ((poolS .gzX [] 1).recovery = false ∧ (req .read 0x3000).dst = (poolS .gzX [] 1).ident ∧ (poolS .gzX [] 1).extentAt none 0x80000000000 1 = none ∧
      (poolS .gzX [] 1).extentAt none 0x3000 1 = some (0, theExt) ∧ State.reset.bound 5 3 = none ∧ (poolS .gzX [] 1).bound 5 3 = some 0 ∧
      (poolS .gzX [] 1).extentAt (some 0) 0x80000000000 1 = none ∧ (poolS .gzX [] 1).extentAt (some 0) 0x3000 1 = some (0, theExt)) ∧
    ((readOnly (poolS .gzX [] 1)).extentAt none 0x3000 1 = some (0, ⟨true, false, false, 0, 0, 0x4000, 0, 0, 0, 0⟩) ∧ reqWr (req .write 0x3000) = true ∧ (readOnly (poolS .gzX [] 1)).conflict (req .write 0x3000) = none) ∧
    ((poolS .gzX [] 1).home (secKey 0 (0x3000 / 64))).owner = none ∧ (∃ t d p, peerR = .ok t (d, p)) ∧ (∃ t, peerW = .ok t ()) ∧
    ((poolS .gzX [] 1).isLeaving 0 0x3000 = false ∧ ({ poolS .gzX [] 1 with leaving := [0] } : State).isLeaving 0 0x3000 = true) ∧
    (∀ k, k ∈ [ReqKind.read, .readOwn, .readSite, .write, .own, .atomic 0 6] → (heldBy 7 (poolS .gzX [] 1)).conflict (req k 0x3000) = some 7 ∧ (poolS .gzX [] 1).conflict (req k 0x3000) = none ∧
      isOkA (cleared.serveHome 0 0x3000 (req k 0x3000)) = true) ∧
    ∀ k, k ∈ [ReqKind.writeBack, .disown] → (poolS .gzX [] 1).conflict (req k 0x3000) = none ∧ isOkA (cleared.serveHome 0 0x3000 (req k 0x3000)) = true := by
  refine ⟨by decide +kernel, by decide +kernel, by decide +kernel, by decide +kernel, ⟨_, _, _, okN (by decide +kernel)⟩, ⟨_, okU (by decide +kernel)⟩, ?_⟩
  decide +kernel
theorem witness_sendp :
    (∀ b, b ∈ [true, false] → let s := if b then ported 7 (poolS .gzX [] 1) else poolS .gzX [] 1; ¬(s.build ≠ .gzX ∨ (7 : BitVec 16) = s.ident) ∧ s.linked 7 = b) ∧
    ((poolS .gzC [] 1).recovery = false ∧ (poolS .gzC [] 1).build ≠ .gzX ∧ (poolS .gzC [] 1).extentAt none 0x80000000000 64 = none ∧ (poolS .gzC [] 1).extentAt none 0x3000 64 = some (0, theExt) ∧ 0x3001 % 64 ≠ 0 ∧
      (poolS .gzC [] 1).funcOf 21 = 0 ∧ (poolS .gzC [] 1).funcOf 0 ≠ 0) ∧ (∃ t, sendpX = .ok t () ∧ (t.ctx 21).st ≠ .saved ∧ t.holdsLaunch 0 21 0 = true) ∧
    (∀ st, st ∈ [CtxSt.saved, .resident] → (({ poolS .gzC [] 1 with ctxs := (poolS .gzC [] 1).ctxs.set 21 { (poolS .gzC [] 1).ctx 21 with st := st } } : State).ctx 21).st = st) ∧
    (poolS .gzC [] 1).holdsLaunch 0 21 0 = true ∧ (poolS .gzC [] 1).holdsLaunch 1 21 0 = false := by
  refine ⟨by decide +kernel, by decide +kernel, ⟨stA sendpX, okU (by decide +kernel), by decide +kernel⟩, by decide +kernel⟩
/-- A grant of 256 MiB of function 0 at index 255; its blocks within all of memory, and outside the one region of its logical device. -/
def capArg (bad : Nat) : BitVec 512 := BitVec.ofNat 512 (bad + 2 + 4 + 0x20000000 + 4096 * 2 ^ 64 + 2 ^ 28 * 2 ^ 128 + 255 * 2 ^ 256)
def capExt : Extent := ⟨true, true, false, 0, 0x20000000, 4096, 2 ^ 28, 0, 0, 0⟩
def capS (b : Build) : State := { poolS b [] 1 with leaving := [255] }
def grantX : Acc Unit := ((capS .gzX).left 0 255).grant 0 255 capExt 0
def leaveX : Acc Unit := ((capS .gzX).left 0 0).leaveExtent 0 theExt
theorem witness_capacity :
    ((capArg 16).toNat / 2 ^ 4 % 16 ≠ 0) ∧ (capS .gzC).recovery = false ∧ (capS .gzC).build = .gzC ∧ 255 < 256 ∧
    ((capS .gzX).build ≠ .gzC ∧ extentOf (capArg 0) = some (capExt, 255) ∧ capExt.tgt = 0 ∧ capExt.len % 4096 = 0 ∧ capExt.pbase % 2 ^ 28 = 0 ∧ (capS .gzX).extCheck 0 capExt = (0, 0)) ∧
    ((0, 2 ^ 43) ∈ (capS .gzX).regionsOf 0 ∧ capExt.pbase + capExt.len * 65536 ≤ 0 + 2 ^ 43) ∧
    (({ capS .gzX with regions := .single 7 (2 ^ 29, 2 ^ 29) } : State).regionsOf 0 = [(2 ^ 29, 2 ^ 29)] ∧ capExt.pbase < 2 ^ 29) ∧
    (∃ t, grantX = .ok t ()) ∧ (capS .gzX).exts.get? 255 = none ∧ (capS .gzX).exts.get? 0 = some theExt ∧ ∃ t, leaveX = .ok t () := by
  refine ⟨by decide +kernel, by decide +kernel, by decide +kernel, by decide, by decide +kernel, by decide +kernel, by decide +kernel, ⟨_, okU (by decide +kernel)⟩, by decide +kernel, by decide +kernel, _,
    okU (by decide +kernel)⟩

-- Task packets

def tship : Instr := .tship (Spec.args (ds 10) (s_ 4) (s_ 6) z0 .none 0 0)
def tsreg : Instr := .tsreg (Spec.args (ds 10) (s_ 4) (s_ 6) z0 .none 0 0)
/-- A descriptor of a packet with a grid of one, two words of arguments and its completion at 0x5000; the same with a reserved bit. -/
def pdesc (bad : Nat) : Nat := 0x5000 + 7 * 2 ^ 64 + 8 * 2 ^ 192 + 2 ^ 224 + bad * 2 ^ 256
def linkTo (s : State) : State := { s with dies := s.dies.set 0 { s.die 0 with fports := .single 0 { Port.reset with up := true, peer := 9 } } }
def shipI (x y : W64) (bad : Nat) (g : State → State) : State :=
  rig tship (fun f => ss [(4, x), (5, 0), (6, y), (7, 0)] f) fun s => g (put 0x3040 [1, 2, 3, 4, 5] (put 0x3000 (recBytes (pdesc bad) 33) s))
def descX (s : State) : State × VaRd := farX s 0x3000 64 (stA (rel5 s))
def argsX (s : State) : State × VaRd := (descX s).1.readFar 21 ((descX s).1.tableOf (hereOf s).f.launch) (0x3000 + 64) 8
def shipArgs : List (Nat × Nat × Nat) := [(0x77 + 0x3001 * 2 ^ 16, 0x3004, 0), (9, 0x3000, 1), (9 + 2 ^ 28, 0x3000, 0), (8, 0x3000, 0), (9, 0x3000, 0)]
theorem witness_tship :
    (∀ x, x ∈ shipArgs → let s := shipI (BitVec.ofNat 64 x.1) (BitVec.ofNat 64 x.2.1) x.2.2 linkTo
      bundle s tship ∧ (uni (stA (rel5 s)) tship (viewOf tship).sa true).toNat = x.1 ∧ (uni (stA (rel5 s)) tship (viewOf tship).sbSrc true).toNat = x.2.1 ∧ (descX s).2 = .ok (pdesc x.2.2)) ∧
    packetBad (BitVec.ofNat 512 (pdesc 1)) = true ∧ packetBad (BitVec.ofNat 512 (pdesc 0)) = false ∧ pdesc 0 / 2 ^ 192 % 2 ^ 9 = 8 ∧
    ∀ h, h ∈ [[], [(9 : W64)], [5]] → let s := shipI 9 0x3000 0 (fun s => { linkTo s with codes := h.map fun x => ⟨9, 0, none, x⟩ })
      (argsX s).2 = .ok 0x0504030201 ∧ (argsX s).1.linked 9 = true ∧ (argsX s).1.linked 8 = false ∧ (argsX s).1.funcOf 21 = 0 ∧ (argsX s).1.codes = h.map fun x => ⟨9, 0, none, x⟩ := by
  have e : (shipArgs.all fun x => let s := shipI (BitVec.ofNat 64 x.1) (BitVec.ofNat 64 x.2.1) x.2.2 linkTo
      bundleB s tship && (uni (stA (rel5 s)) tship (viewOf tship).sa true).toNat == x.1 && (uni (stA (rel5 s)) tship (viewOf tship).sbSrc true).toNat == x.2.1 && (descX s).2 == .ok (pdesc x.2.2)) = true := by
    decide +kernel
  refine ⟨fun x h => ?_, by decide +kernel⟩
  have := List.all_eq_true.mp e x h
  simp only [Bool.and_eq_true, beq_iff_eq] at this
  obtain ⟨⟨⟨a, b⟩, c⟩, d⟩ := this
  exact ⟨bundle_of a, b, c, d⟩
/-- The least image: its header, a descriptor of one flight at 0x80 and an entry point at 0xC0, no code and a signature of zeros. -/
def imageHd (n : Nat) : Nat := 0x4B534154 + 3072 * 2 ^ 32 + 128 * 2 ^ 64 + 0x1000 * 2 ^ 96 + 0x09000000 * 2 ^ 128 + n
def imageKd : Nat := (simpleDesc 64 1 0).toNat + (imgBase + 192) * 2 ^ 64
def imageLow (bad : Nat) : Nat := imageHd bad + imageKd * 2 ^ 1024
def imageList (n : Nat) : List Byte := bytesN (imageLow n) 192 ++ List.replicate 2880 0
def regS (bad : Nat) (g : State → State) : State :=
  rig tsreg (fun f => ss [(4, 0x3000), (5, 0), (6, 9), (7, 0)] f) fun s => g (put 0x3080 (recBytes imageKd 25) (put 0x3000 (recBytes (imageHd bad) 20) s))
def hdX (s : State) : State × VaRd := farX s 0x3000 128 (stA (rel5 s))
def imgX (s : State) : State × VaRd := (hdX s).1.readFar 21 ((hdX s).1.tableOf (hereOf s).f.launch) 0x3000 3072
theorem witness_tsreg :
    (∀ b, b ∈ [0, 1] → let s := regS b linkTo; bundle s tsreg ∧ (hdX s).2 = .ok (imageHd b) ∧ imageHeadBad (imageHd b) = (b == 1)) ∧ (imgX (regS 0 linkTo)).2 = .ok (imageLow 0) ∧
    imageBad (imageLow 0) = false ∧ imageBad (imageHd 0) = true ∧ imageHd 0 / 2 ^ 32 % 2 ^ 32 = 3072 ∧ (imgX (regS 0 linkTo)).1.linked 9 = true ∧ (imgX (regS 0 id)).1.linked 9 = false ∧ (imgX (regS 0 linkTo)).1.codes = [] := by
  have e : ∀ b, b ∈ [0, 1] → let s := regS b linkTo; bundleB s tsreg = true ∧ (hdX s).2 = .ok (imageHd b) ∧ imageHeadBad (imageHd b) = (b == 1) := by decide +kernel
  exact ⟨fun b h => ⟨bundle_of (e b h).1, (e b h).2⟩, by decide +kernel⟩
/-- An image that arrives, for the same length and for one that is not LEN; whether its signature is accepted is a free value (assumption 11) and no state shows it. -/
theorem witness_image_receive : (poolS .gzX [] 1).build ≠ .gzC ∧ (poolS .gzX [] 1).bound 5 3 = some 0 ∧ State.reset.bound 5 3 = none ∧ (poolS .gzX [] 1).code.entries.find? (fun c => c.2.func == 0 && c.2.hash == 5) = none ∧
    ({ poolS .gzX [] 1 with code := .single 0 ⟨1, 0, 5, []⟩ } : State).code.entries.find? (fun c => c.2.func == 0 && c.2.hash == 5) = some (0, ⟨1, 0, 5, []⟩) ∧
    (imageList 0).length = tLen (imageLow 0) ∧ numOfBytes (imageList 0) = imageLow 0 ∧ (poolS .gzX [] 1).code.has 0 = false := by decide +kernel
/-- A packet for code slot 4095 in a kept context that is IDLE and in one that is not; its tag is what the free function gives. -/
def packH : W64 := BitVec.ofNat 64 (4095 * 2 ^ 16 + 2 ^ 32)
def packS (st : CtxSt) : State :=
  let s := { poolS .gzX [] 1 with code := .single 4095 ⟨1, 0, 5, imageList 0⟩, pctxs := [((5, 77, 0), 30)] }
  s.setCtx 30 { Ctx.reset 30 with st := st, func := 0 }
def packM : Acc Unit := (packS .idle).mapPacket 30 0 (imageList 0) (1 * 1 * 32 * 0x1000)
theorem witness_packet_receive :
    (∀ args : List (BitVec 32), ∃ tag, tag = Config.kmac 31 (packH.toNat :: (BitVec.ofNat 512 (pdesc 0)).toNat :: 1 :: args.map BitVec.toNat)) ∧
    ((packS .idle).bound 5 3 = some 0 ∧ (packS .idle).lastSeq.getD 31 0 < 1 ∧
      packetBad (BitVec.ofNat 512 (pdesc 0)) = false ∧ packH.toNat % 2 ^ 16 = (packS .idle).ident.toNat ∧ packH.toNat / 2 ^ 28 % 16 = 0 ∧ packH.toNat / 2 ^ 32 = 1 ∧
      (packS .idle).code.get? (packH.toNat / 2 ^ 16 % 2 ^ 12) = some ⟨1, 0, 5, imageList 0⟩ ∧ pdesc 0 / 2 ^ 224 % 2 ^ 32 * kFlights (imageDesc (imageLow 0) 128) * 32 * tStack (imageLow 0) ≤ 2 ^ 43 ∧
      ∀ st, st ∈ [CtxSt.idle, .resident] → ((packS st).keptCtx 5 77 0).map (·.2) = some 30 ∧ ((packS st).ctx 30).st = st) ∧ ∃ m, packM = .ok m () :=
  ⟨fun _ => ⟨_, rfl⟩, by decide +kernel, _, okU (by decide +kernel)⟩
/-- A packet that was sent, as a node and alone, and one that runs here: its launch done, halted, and with a block to come. -/
def sentS (n : Option (Nat × Nat)) (st : CtxSt) (lost : Bool := false) : State :=
  let s := withPart (nodes [(4095, kernelNode .running none)]) placed0
  ({ s with packets := .single 1 ⟨9, 21, 0, 0, BitVec.ofNat 512 (pdesc 0), none, 21, n, true, lost⟩ }).setCtx 21 { s.ctx 21 with st := st }
def runsS (la : Launch) (st : CtxSt) : State :=
  let s := { running la (withPart id placed0) with packets := .single 1 ⟨5, 77, 0, 0, BitVec.ofNat 512 (pdesc 0), some 0, 21, none, false, false⟩ }
  s.setCtx 21 { s.ctx 21 with st := st }
def storeDone (code : Nat) : Acc Unit := (sentS none .resident).doneStore 21 0x5000 (if code = 0 then 7 else 2 ^ 63 + code * 2 ^ 48)
theorem witness_packet_complete :
    (placed0.packets.get? 1 = none) ∧
    (∀ n, n ∈ [none, some (0, 4095)] → ∀ st, st ∈ [CtxSt.saved, .halted, .resident] → ∀ lost, lost ∈ [true, false] →
      ((sentS n st lost).packets.get? 1).map (fun p => (p.sent, p.lost, p.node)) = some (true, lost, n) ∧ ((sentS n st lost).ctx 21).st = st) ∧
    (∃ t, (sentS (some (0, 4095)) .resident).nodeComplete 0 4095 = .ok t ()) ∧ ((BitVec.ofNat 512 (pdesc 0)).toNat / 2 ^ 134 % 2 = 0 ∧ (BitVec.ofNat 512 (pdesc 0)).toNat % 2 ^ 64 = 0x5000) ∧
    (∃ t, storeDone 0 = .ok t ()) ∧ (∃ t, storeDone 3 = .ok t ()) ∧
    (∀ la, la ∈ [ended, { ended with stop := 2 }] → (runsS la .resident).launch? 0 = some la ∧ ((runsS la .resident).packets.get? 1).isSome = true ∧ (runsS la .resident).transferring 21 = false) ∧
    (∃ t, (runsS ended .halted).dropCtx 21 = .ok t ()) ∧ ((runsS ended .halted).ctx 21).st = .halted ∧ ∃ t, (runsS ended .resident).releaseCtx 21 = .ok t () :=
  ⟨by decide +kernel, by decide +kernel, ⟨_, okU (x := doneX (sentS (some (0, 4095)) .resident) 4095) (by decide +kernel)⟩, by decide +kernel, ⟨_, okU (by decide +kernel)⟩, ⟨_, okU (by decide +kernel)⟩,
    by decide +kernel, ⟨_, okU (by decide +kernel)⟩, by decide +kernel, _, okU (by decide +kernel)⟩

-- The hypervisor's commands

def hvS (f : Vf → Vf) (g : State → State) : State := g ((poolS .gzX [] 1).setVf 1 (f { Vf.reset with ways := 1 }))
/-- Commands that stand BUSY in the mailboxes of the hypervisor and of function 0, and none after reset. -/
theorem witness_mailboxes :
    (∀ func, func ∈ [0, 128] → (placed0.mailbox func).pending = none) ∧
    (∀ j, j ∈ [(4, 0, (0 : BitVec 512)), (6, 30, 0)] → (({ placed0 with mail := .single 128 ⟨0, 0, 0, 0, some j⟩ } : State).mailbox 128).pending = some j) ∧
    (({ placed0 with mail := .single 0 ⟨0, 0, 0, 0, some (2, 30, 0)⟩ } : State).mailbox 0).pending = some (2, 30, 0) ∧
    (placed0.configUp = false ∧ (placed0.setDie 0 { placed0.die 0 with hostPort := some { Port.reset with up := true } }).configUp = true) := by decide +kernel
/-- Cluster 5 for partition 1; partition 0's own cluster. -/
def partArg (q : Nat) : BitVec 512 := BitVec.ofNat 512 (2 ^ q)
theorem witness_partSet :
    (∃ n x, (hvS id id).vfs.get? n = some x ∧ x.en = true ∧ x.part = some 0) ∧ (¬∃ n x, (State.reset).vfs.get? n = some x ∧ x.en = true ∧ x.part = some 1) ∧
    ¬Spec.partition (State.reset) 1 (partArg 264) ∧ Spec.partition (State.reset) 1 (partArg 5) := by
  refine ⟨⟨0, ⟨some 0, true, 0, 0, false⟩, by decide +kernel⟩, ?_, fun h => ?_, ?_⟩
  · rintro ⟨n, x, h, -⟩
    cases (show (none : Option Vf) = some x from h)
  · unfold Spec.partition at h
    exact absurd h.2.2.2.2.2.2.1 (by decide +kernel)
  · have e : (∀ q, q < 32 → (partArg 5).getLsbD q = true → ∃ i, i < 4 ∧ State.reset.corePresent (4 * q + i) = true) := by decide +kernel
    unfold Spec.partition
    have none' (k : Nat) (x : Part) : State.reset.parts.get? k ≠ some x := fun h => by cases (show (none : Option Part) = some x from h)
    refine ⟨?_, ?_, ?_, ?_, ?_, ?_, ?_, ?_, ?_, ?_, ?_, e, fun k x h => absurd h (none' k x)⟩ <;> decide +kernel
def vfArg (p : Nat) (en : Bool) : BitVec 512 := BitVec.ofNat 512 (p + if en then 2 ^ 8 else 0)
/-- A partition that does not exist; an enabled VF that would move; a VF that would be enabled without ways; one that is set, at both ends of the numbers. -/
theorem witness_vfSet :
    (vfArg 20 true).toNat % 32 = 20 ∧ (((hvS id id).vf 0).en = true ∧ ((hvS id id).vf 0).part ≠ some 1) ∧
    (((hvS (fun x => { x with ways := 0 }) id).vf 1).en = false ∧ ((hvS (fun x => { x with ways := 0 }) id).vf 1).ways = 0 ∧ (vfArg 0 true).getLsbD 8 = true) ∧
    (∀ en, en ∈ [true, false] → ((hvS id id).vf 1).en = false ∧ ((hvS id id).vf 1).ways ≠ 0 ∧ ((hvS id id).part 0).desc.toNat % 2 ^ 32 ≠ 0 ∧ (vfArg 0 en).toNat % 32 = 0 ∧ (vfArg 0 en).getLsbD 8 = en) := by
  decide +kernel
def flushX : Acc Unit := (poolS .gzX [] 1).flushRange 0 0x20000000 (0x20000000 + 4096 * 65536)
def farArg : BitVec 512 := BitVec.ofNat 512 (2 + 4 + 0x20000000 + 4096 * 2 ^ 64 + 2 ^ 50 * 2 ^ 128 + 255 * 2 ^ 256)
/-- An extent whose removal waits: the host has a page of it, and a flight flips that page. -/
def heldExt : State :=
  let s := poolS .gzC [] 1
  let s := s.setFlight 0 0 { fl s with run := some { placedFlight.newRun 1 0x1000 [0] with waiting := true } }
  { s with pages := s.pages.set 3 ⟨1, 0, 3⟩, flips := [⟨0, 0, 3, 0, 3, false, 0, false⟩] }
def arg0 : BitVec 512 := BitVec.ofNat 512 (2 + 4 + 0x20000000 + 4096 * 2 ^ 64 + 2 ^ 28 * 2 ^ 128)
def waitsB (x : Acc Unit) : Bool :=
  match x with
  | .wait _ => true
  | _ => false
theorem waits_of {x : Acc Unit} (e : waitsB x = true) : ∃ w, x = .wait w := by
  cases x with
  | wait w => exact ⟨w, rfl⟩
  | _ => cases e
def leaveW : Acc Unit := ((heldExt.leave 0 0).left 0 0).leaveExtent 0 theExt
def grantW : Acc Unit := ((heldExt.leave 0 0).left 0 0).grant 0 0 capExt 0
def leave0 : Acc Unit := (((poolS .gzX [] 1).leave 0 0).left 0 0).leaveExtent 0 theExt
theorem witness_extents_wait : (heldExt.exts.get? (0 * 256 + 0) = some theExt ∧ ∃ w, leaveW = .wait w) ∧ (extentOf arg0 = some (capExt, 0) ∧ heldExt.extCheck 0 capExt = (0, 0) ∧ ∃ w, grantW = .wait w) ∧
    ∃ t, leave0 = .ok t () := by
  refine ⟨⟨by decide +kernel, waits_of (by decide +kernel)⟩, ⟨by decide +kernel, by decide +kernel, waits_of (by decide +kernel)⟩, _, okU (by decide +kernel)⟩
theorem witness_extents :
    extentOf 0 = none ∧ (∃ e i, extentOf farArg = some (e, i) ∧ (poolS .gzX [] 1).extCheck 0 e = (1, 0)) ∧
    (extentOf (capArg 0) = some (capExt, 255) ∧ (poolS .gzX [] 1).extCheck 0 capExt = (0, 0) ∧ (poolS .gzX [] 1).exts.get? 255 = none) ∧ (∃ t, flushX = .ok t ()) ∧ ((poolS .gzX [] 1).left 0 255 = poolS .gzX [] 1) ∧
    (BitVec.ofNat 512 (256 * 2 ^ 256)).toNat / 2 ^ 256 % 2 ^ 16 = 256 ∧ (poolS .gzX [] 1).exts.get? 0 = some theExt ∧ (poolS .gzX [] 1).sharedPages 0 theExt = [] :=
  ⟨by decide +kernel, ⟨{ capExt with pbase := 2 ^ 50 }, 255, by decide +kernel⟩, by decide +kernel, ⟨_, okU (by decide +kernel)⟩, by decide +kernel, by decide +kernel⟩
theorem witness_rings : (∀ n, n ∈ [4, 12] → let arg := 0x3000 + n * 2 ^ 64; arg % 2 ^ 64 % 4096 = 0 ∧ arg % 2 ^ 64 < 2 ^ 57 ∧ 4 ≤ arg / 2 ^ 64 % 2 ^ 8 ∧ arg / 2 ^ 64 % 2 ^ 8 ≤ 12) ∧
    ¬(4 ≤ (0x3000 + 3 * 2 ^ 64) / 2 ^ 64 % 2 ^ 8) ∧ (placed0.ring (32 + 128)).held = [] ∧ (placed0.vf 0).en = true ∧ (placed0.ring 32).held = [] := by decide +kernel
def openS : State := (poolS .gzX [] 1).setCtx 22 { Ctx.reset 22 with st := .idle, func := 0 }
theorem witness_contexts :
    (placed0.mayOpen 0 = false ∧ (placed0.vf 0).en = true) ∧ (openS.mayOpen 0 = true ∧ (openS.vf 0).en = true ∧ (openS.ctx 23).st = .free ∧ ∀ k, k < 23 → 21 ≤ k → (openS.ctx k).st ≠ .free) ∧
    ((openS.ctx 22).func = 0 ∧ (openS.ctx 22).st = .idle ∧ openS.transferring 22 = false) ∧ (openS.ctx 21).st = .resident ∧ (openS.ctx 4095).st = .free ∧ ∃ t, openS.dropCtx 22 = .ok t () :=
  ⟨by decide +kernel, by decide +kernel, by decide +kernel, by decide +kernel, by decide +kernel, _, okU (by decide +kernel)⟩

-- The host

/-- A package whose HDM is at 4 GiB: a page of each mode at device address 0x3000, of guest page 3 of function 0; its sector owned by a transfer or not. -/
def hostS (mode : Nat) (own : Bool) : State :=
  let s := { placed0.setVf 0 ⟨some 0, true, 1, 0, false⟩ with hdmSize := 2 ^ 28, hb := some 0x100000000, pages := placed0.pages.set 3 ⟨mode, 0, 3⟩ }
  let s := s.setDie 0 { s.die 0 with hostPort := some { Port.reset with up := true } }
  if own then s.setHome (secKey 0 0xC0) { Home.reset with owner := some (.engine 0 0 0) } else s
theorem witness_host_requests :
    (∀ m, m ∈ [0, 2, 3] → Spec.hostPage (hostS m false) 0 0x100003000 0x3000 ⟨m, 0, 3⟩ 0xC0) ∧ Spec.hostPage (hostS 2 true) 0 0x100003000 0x3000 ⟨2, 0, 3⟩ 0xC0 ∧
    (∀ o, o ∈ [true, false] → Spec.sharedPage (hostS 2 o) ⟨2, 0, 3⟩ 0x3000 ∧ ((hostS 2 o).home (secKey 0 0xC0)).owner.isSome = o) ∧ Spec.room (hostS 2 false) 0 (0xC0 * 64) ∧
    ((hostS 2 false).build = .gzC ∧ (hostS 2 false).recovery = false ∧ (hostS 2 false).hdmSize ≠ 0) := by
  have hp : ∀ m, m ∈ [0, 2, 3] → ∀ o, o ∈ [true, false] → (hostS m o).hb = some 0x100000000 ∧ (hostS m o).build = .gzC ∧ (hostS m o).recovery = false ∧ ((hostS m o).die 0).hostPort = some { Port.reset with up := true } ∧
      (0x100003000 - 0x100000000 : W64).toNat / 64 * 64 = 0x3000 ∧ 0x3000 < (hostS m o).hdmSize ∧ (hostS m o).pageMode 0x3000 = ⟨m, 0, 3⟩ := by decide +kernel
  have page (m : Nat) (hm : m ∈ [0, 2, 3]) (o : Bool) (ho : o ∈ [true, false]) : Spec.hostPage (hostS m o) 0 0x100003000 0x3000 ⟨m, 0, 3⟩ 0xC0 := by
    obtain ⟨a, b, r, c, d, e, f⟩ := hp m hm o ho
    exact ⟨_, _, a, b, r, by decide, c, rfl, rfl, d.symm, e, f.symm, rfl⟩
  have sh : ∀ o, o ∈ [true, false] → (hostS 2 o).isLeaving 0 (3 * 4096 + 0x3000 % 4096 / 64 * 64) = false ∧ (hostS 2 o).extent 0 (3 * 4096) = some theExt ∧ ((hostS 2 o).home (secKey 0 0xC0)).owner.isSome = o := by decide +kernel
  exact ⟨fun m h => page m h false (by decide), page 2 (by decide) true (by decide), fun o h => ⟨⟨rfl, (sh o h).1, theExt, (sh o h).2.1, rfl, rfl, rfl, by decide⟩, (sh o h).2.2⟩, room_of (by unfold wayFree; decide +kernel), by decide +kernel⟩
def snoopS (n : Nat) (pkg : Option Nat := none) : State := { hostS 2 false with snoops := [⟨true, 0, 0xC0, 0x3000, 0, pkg⟩], clock := n }
def lineS (own : Bool) : State := { hostS 2 own with lines := .single 0x5000 ⟨0, 0xC0, true, none⟩ }
def creqS (r : CacheReq) (failed sent : Bool) : State := { hostS 2 false with creqs := [⟨r, 0, 0xC0, 0x140000, 0, 21, 0, 0, false, failed, sent⟩] }
/-- Package 9's memory behind an extent of function 0: its sectors as they are cached here, one of them owned by a transfer or none. -/
def peerLine (own : Bool) : State :=
  let s := { hostS 2 false with exts := (hostS 2 false).exts.set 1 ⟨true, true, false, 2, 0x80000000, 0x1000, 0x40000, 0, 9, 0⟩ }
  let s := s.setDie 0 { s.die 0 with fports := .single 0 { Port.reset with up := true, peer := 9 } }
  s.setHome (secKey 0 0x2000000) { Home.reset with copy := some ⟨5, BitVec.allOnes 64, 0, 0, false, 0⟩, owner := if own then some (.engine 0 0 0) else none }
theorem witness_host_answers :
    (∀ n, n ∈ [2 ^ 22 - 1, 2 ^ 22] → (snoopS n).snoops[0]? = some ⟨true, 0, 0xC0, 0x3000, 0, none⟩ ∧ (snoopS n).clock = n) ∧ placed0.snoops[0]? = none ∧ placed0.lines.get? 0x5000 = none ∧
    (∀ o, o ∈ [true, false] → (lineS o).lines.get? 0x5000 = some ⟨0, 0xC0, true, none⟩ ∧ ((lineS o).home (secKey 0 0xC0)).owner.isSome = o) ∧ placed0.hostLive 0 = false ∧
    ∀ r, r ∈ [CacheReq.rdShared, .rdCurr, .rdOwn, .rdOwnNoData] → ∀ x, x ∈ [(true, true), (false, false), (false, true)] →
      (creqS r x.1 x.2).creqs[0]?.map (fun q => (q.r, q.failed, q.sent)) = some (r, x.1, x.2) ∧ (creqS r x.1 x.2).hostLive 0 = true ∧ (creqS r x.1 x.2).recovery = false := by decide +kernel
theorem witness_rooms : Spec.room (snoopS 0) 0 (0xC0 * 64) ∧ Spec.room (lineS false) 0 (0xC0 * 64) ∧ ∀ r, r ∈ [CacheReq.rdShared, .rdCurr, .rdOwn, .rdOwnNoData] → Spec.room (creqS r false true) 0 (0xC0 * 64) :=
  ⟨room_of (by unfold wayFree; decide +kernel), room_of (by unfold wayFree; decide +kernel), fun r h => room_of (by revert r; unfold wayFree; decide +kernel)⟩
/-- Snoops that go to a package, and snoops of other packages to what is cached here of theirs. -/
theorem witness_peer_snoops : (snoopS 0 (some 7)).snoops[0]? = some ⟨true, 0, 0xC0, 0x3000, 0, some 7⟩ ∧
    (∀ o, o ∈ [true, false] → ((peerLine o).cachedOf fun p a => p == 9 && a / 64 == 0x40000 / 64) = [secKey 0 0x2000000] ∧ ((peerLine o).home (secKey 0 0x2000000)).owner.isSome = o) := by decide +kernel

-- Page flips

def pmflip (d : Bool) : Instr := if d then .pmflipD (Spec.args (ds 10) (s_ 4) (s_ 6) z0 .none 0 1) else .pmflipH (Spec.args (ds 10) (s_ 4) (s_ 6) z0 .none 0 0)
def hdm (m : Nat) (s : State) : State := { s with hdmSize := 2 ^ 28, hb := some 0x100000000, pages := if m = 0 then .empty else s.pages.set 3 ⟨m, 0, 3⟩ }
def flipS (d : Bool) (m : Nat) (g : State → State) : State := rig (pmflip d) (fw 21 0x3000 0) (fun s => g (hdm m s))
def rel6 (s : State) : Acc Unit := s.release (hereOf s).c (hereOf s).f.ctx 6
def flipX (s : State) (d : Bool) : State × (Except Nat (Nat × Nat × Nat) ⊕ Need) := (stA (rel6 s)).flipCheck 21 0x3000 d
def flips (x : State × (Except Nat (Nat × Nat × Nat) ⊕ Need)) (y : Except Nat (Nat × Nat × Nat)) : Bool :=
  match x.2, y with
  | .inl (.ok a), .ok b => a == b
  | .inl (.error a), .error b => a == b
  | _, _ => false
theorem flips_of {x : State × (Except Nat (Nat × Nat × Nat) ⊕ Need)} {y : Except Nat (Nat × Nat × Nat)} (e : flips x y = true) : x = (x.1, .inl y) := by
  obtain ⟨s, x⟩ := x
  unfold flips at e
  split at e
  · next h => simp only at h; rw [h, beq_iff_eq.mp e]
  · next h => simp only at h; rw [h, beq_iff_eq.mp e]
  · cases e
/-- A flip of which sectors `next` and above are still to do. -/
def midFlip (d : Bool) (next : Nat) (link : Bool) (s : State) : State :=
  let s := s.setFlight 0 0 { fl s with run := (fl s).run.map fun r => { r with waiting := true } }
  { s with flips := [⟨0, 0, 3, 0, 3, d, next, link⟩], pages := s.pages.set 3 ⟨if d then 3 else 1, 0, 3⟩ }
def ownedSec (s : State) : State := s.setHome (secKey 0 (3 * 64)) { Home.reset with owner := some (.engine 0 0 0) }
theorem witness_PageFlipsComplete :
    (∀ x, x ∈ [(false, 0), (false, 2), (true, 2), (true, 0)] → let s := flipS x.1 x.2 id; priv s (pmflip x.1) ∧ (hereOf s).r.waiting = false ∧ Spec.reaches s (hereOf s).f.ctx 21 ∧
      (uni s (pmflip x.1) (viewOf (pmflip x.1)).sa false).toNat = 21 ∧ uni s (pmflip x.1) (viewOf (pmflip x.1)).sbSrc true = 0x3000 ∧ ∃ s1, rel6 s = .ok s1 ()) ∧
    (∀ x, x ∈ [(false, 0), (true, 2)] → flips (flipX (flipS x.1 x.2 id) x.1) (.ok (0, 3, 3)) = true) ∧
    (∀ x, x ∈ [(false, 2), (true, 0)] → ∃ c, flips (flipX (flipS x.1 x.2 id) x.1) (.error c) = true ∧ (((flipX (flipS x.1 x.2 id) x.1).1.acquire 0 6 false).flight? 0 0).isSome = true) ∧
    (∀ x, x ∈ [(false, 0, false), (false, 62, false), (false, 63, false), (true, 62, false), (true, 63, false), (true, 63, true)] → let s := flipS x.1 0 (midFlip x.1 x.2.1 x.2.2)
      priv s (pmflip x.1) ∧ (hereOf s).r.waiting = true ∧ (s.flips.find? (fun y => y.core == (hereOf s).c && y.fid == (hereOf s).fid)) = some ⟨0, 0, 3, 0, 3, x.1, x.2.1, x.2.2⟩ ∧
      (s.home (secKey 0 (3 * 64 + x.2.1))).owner = none ∧ (s.home (secKey 0 (3 * 64 + x.2.1))).host = .i) ∧
    (let s := flipS false 0 (fun s => ownedSec (midFlip false 0 false s)); priv s (pmflip false) ∧ (hereOf s).r.waiting = true ∧ (s.home (secKey 0 (3 * 64))).owner.isSome = true) ∧
    let u := hdm 0 placed0; u.build = .gzC ∧ u.hb.isSome = true ∧ (match (u.dieTranslate 21 0x3000 .write).2 with | .ok gpa _ => gpa == 0x3000 | _ => false) = true ∧
      (u.dieTranslate 21 0x3000 .write).1.extent 0 0x3000 = some theExt ∧ 0x3000 < (u.dieTranslate 21 0x3000 .write).1.hdmSize ∧ ((u.dieTranslate 21 0x3000 .write).1.pageMode 0x3000).mode = 0 := by
  have a : ∀ x, x ∈ [(false, 0), (false, 2), (true, 2), (true, 0)] → let s := flipS x.1 x.2 id; privB s (pmflip x.1) = true ∧ (hereOf s).r.waiting = false ∧ ((s.ctx 21).st ≠ .free ∧ (hereOf s).f.ctx = 0) ∧
      (uni s (pmflip x.1) (viewOf (pmflip x.1)).sa false).toNat = 21 ∧ uni s (pmflip x.1) (viewOf (pmflip x.1)).sbSrc true = 0x3000 ∧ isOkA (rel6 s) = true := by decide +kernel
  have b : ∀ x, x ∈ [(false, 0, false), (false, 62, false), (false, 63, false), (true, 62, false), (true, 63, false), (true, 63, true)] → let s := flipS x.1 0 (midFlip x.1 x.2.1 x.2.2)
      privB s (pmflip x.1) = true ∧ (hereOf s).r.waiting = true ∧ (s.flips.find? (fun y => y.core == (hereOf s).c && y.fid == (hereOf s).fid)) = some ⟨0, 0, 3, 0, 3, x.1, x.2.1, x.2.2⟩ ∧
      (s.home (secKey 0 (3 * 64 + x.2.1))).owner = none ∧ (s.home (secKey 0 (3 * 64 + x.2.1))).host = .i := by decide +kernel
  refine ⟨fun x h => ?_, by decide +kernel, ?_, fun x h => ⟨priv_of (b x h).1, (b x h).2⟩, ⟨priv_of (by decide +kernel), by decide +kernel⟩, by decide +kernel⟩
  · obtain ⟨p, w, ⟨r1, r2⟩, u, y, z⟩ := a x h
    exact ⟨priv_of p, w, ⟨by decide, r1, .inl r2⟩, u, y, _, okU z⟩
  · have e : ∀ x, x ∈ [(false, 2), (true, 0)] → (flips (flipX (flipS x.1 x.2 id) x.1) (.error 2) || flips (flipX (flipS x.1 x.2 id) x.1) (.error 3)) = true ∧
      (((flipX (flipS x.1 x.2 id) x.1).1.acquire 0 6 false).flight? 0 0).isSome = true := by decide +kernel
    intro x h
    have := (e x h).1
    rw [Bool.or_eq_true] at this
    rcases this with t | t
    · exact ⟨2, t, (e x h).2⟩
    · exact ⟨3, t, (e x h).2⟩

-- Links, errors and boot

def portS (r : PortRef) (p : Port) (g : State → State := id) : State := g (placed0.setPort r p)
def upP (spares : Nat) : Port := { Port.reset with up := true, spares := spares }
def reqR : Request := ⟨9, 9, .fabric 3 3, 21, 0, 0, 0, 0x3000, 0x3000, .load 0 0⟩
def reqOf (clock : Nat) (re : Bool) : State :=
  { portS (.fabric 3 3) { upP 0 with retrain := re } with clock := clock, reqs := [reqR] }
theorem witness_LinkEventsComplete :
    (∀ r, r ∈ [PortRef.host 1, .fabric 0 0, .fabric 3 3] → (portS r Port.reset).hasPort r = true ∧ ((portS r Port.reset).portOf r).up = false ∧
      ∀ n, n ∈ [0, 1, 2] → ((portS r (upP n)).portOf r).up = true ∧ ((portS r (upP n)).portOf r).viral = false ∧ ((portS r (upP n)).portOf r).spares = n) ∧
    (∀ x, x ∈ [(2 ^ 22 - 1, false), (2 ^ 22, false), (2 ^ 22, true)] → (reqOf x.1 x.2).reqs[0]? = some reqR ∧ (reqOf x.1 x.2).clock - 0 = x.1 ∧
      ((reqOf x.1 x.2).portOf (.fabric 3 3)).retrain = x.2 ∧ ((reqOf x.1 x.2).ctx 21).st = .resident ∧ (reqOf x.1 x.2).aimed 9 = []) ∧ placed0.reqs[0]? = none ∧
    (placed0.heldReqs[0]? = none ∧ ∀ n, n ∈ [2 ^ 16 - 1, 2 ^ 16] → let s : State := { placed0 with clock := n, heldReqs := [⟨req .write 0x3000, 0⟩] }; s.heldReqs[0]? = some ⟨req .write 0x3000, 0⟩ ∧ s.clock - 0 = n) ∧
    (∀ b, b ∈ [true, false] → (portS (.host 0) { Port.reset with up := b }).doeUp (.host 0) = b ∧ (portS (.host 0) { Port.reset with up := b }).hasPort (.host 0) = true) := by decide +kernel
/-- Clean and dirty words of an L1 and of the L2; a remap table of a channel with 255 and with 256 rows. -/
def cachedS (dirty : BitVec 64) : State :=
  let x : Sector := ⟨5, BitVec.allOnes 64, dirty, 0, false, 0⟩
  (placed0.setHome (secKey 0 0xC0) { Home.reset with copy := some x }).setL1 0 (secKey 0 0xC0) x
def remapS (n : Nat) : State := { placed0 with remap := (List.range n).map fun k => 2 ^ 32 + k }
theorem witness_errors :
    (placed0.corePresent 0 = true ∧ placed0.corePresent 128 = false) ∧ ((placed0.ctxs.get? 21).isSome = true ∧ (placed0.ctx 21).st = .resident ∧ placed0.coreHolds 0 21 = true) ∧
    (∃ b, placed0.block? 0 0 = some b ∧ b.granted = true ∧ 4 * 0x3FFF + 4 ≤ b.spadHeld) ∧ placed0.coreCtx 0 = some 21 ∧
    (∀ d, d ∈ [0#64, BitVec.allOnes 64] → (((cachedS d).l1? 0 (secKey 0 0xC0)).map fun x => (x.valid &&& maskOf (0x303C % 64 / 4 * 4) 4 != 0, x.dirty)) = some (true, d) ∧
      (((cachedS d).home (secKey 0 0xC0)).copy.map fun x => (x.valid &&& maskOf (0x303C % 64 / 4 * 4) 4 != 0, x.dirty)) = some (true, d)) ∧
    (∀ n, n ∈ [255, 256] → 2 ^ 32 + 0xFFFF ∉ (remapS n).remap ∧ ((remapS n).remap.filter fun x => x / 2 ^ 32 == 1).length = n) ∧
    (placed0.written.has (0x3000 / 64) = false ∧ (put 0x3000 [1] placed0).written.has (0x3000 / 64) = true) ∧
    (∀ w, w ∈ [4600, 4601] → (placed0.gov.plim < w ↔ w = 4601)) := by
  refine ⟨⟨by decide +kernel, by decide +kernel⟩, by decide +kernel, ⟨placedBlock, by decide +kernel⟩, by decide +kernel, ?_, by decide +kernel, by decide +kernel, by decide +kernel⟩
  intro d h
  simp only [List.mem_cons, List.not_mem_nil, or_false] at h
  rcases h with rfl | rfl <;> decide +kernel
/-- A record that meets every limit, at its upper ends, and one beyond them; whether an image and a record are signed is a free value (assumption 11). -/
def cfgOf (n : Nat) : CfgRecord := ⟨1020 * 2 ^ 30, 4600 + n, 36, [0, 0, 0, 0], []⟩
theorem witness_boot : ((cfgOf 0).hdmSize % 2 ^ 28 = 0 ∧ (cfgOf 0).hdmSize ≤ 1020 * 2 ^ 30 ∧ (cfgOf 0).plim ≤ 4600 ∧ 12 ≤ (cfgOf 0).fmin ∧ (cfgOf 0).fmin ≤ 36 ∧ (cfgOf 0).retire.length = 4) ∧
    ¬((cfgOf 1).plim ≤ 4600) ∧ (({ placed0 with recovery := true } : State).recovery = true ∧ placed0.recovery = false) ∧
    (portS (.host 0) { Port.reset with up := true }).doeUp (.host 0) = true := by decide +kernel

-- The whole machine

theorem witness_MemOk : State.reset.MemOk ∧ placed0.MemOk := ⟨⟨by decide +kernel, by decide +kernel⟩, by decide +kernel, by decide +kernel⟩
/-- Two states with canonical memory whose next turn is a member and an event: a step answers a next state. -/
theorem witness_steps : ∀ t, t ∈ [Turn.issue 0 0, .event (.sleepExpiry 0 0 0)] → (match step { placed0 with turns := [t] } with
    | .next s => Memory.wf s.mem
    | _ => false) = true := by decide +kernel
end Sys2Proof.Tests
end

section
/-!
PROOFS. Canonical memory (R8, R309). Only five operations write the bytes of a memory: `storeMem`, `makeFresh`, `failReq`, `mapPacket` and `fabricStore`; and `powerOn` empties
both memories. Each of them does so by operations on cells that keep the canonical form (Sys2Proof/Laws/Maps.lean), and every other function of the model changes memory only
through them. So there is one rule for each function that answers a state: it answers canonical memory from canonical memory. The rule of a function cites the rules of the
functions that it calls; `MemOk` itself is cited where a branch updates other fields of the state. This part states what the rule says of each kind of answer, and how it passes
through sequencing and through folds.
-/
namespace Sys2Proof.Machine

open Sys2Proof

-- The proofs cite one another in long chains: elaborated side by side, each would hold a thread while it waits for those that it cites.
set_option Elab.async false

variable {s : State} {α β σ ι : Type}

/-- The state of an access that is performed has canonical memory. -/
def Acc.MemOk : Acc α → Prop
  | .ok t _ => t.MemOk
  | _ => True
/-- The state of a stack or frame access that is done or failed has canonical memory. -/
def Frame.MemOk : Frame α → Prop
  | .ok t _ => t.MemOk
  | .fail t _ _ _ _ => t.MemOk
  | .wait _ => True
/-- The state in which a turn ends, or its word executes, has canonical memory. -/
def Prep.MemOk : Prep → Prop
  | .done t => t.MemOk
  | .word t _ => t.MemOk
/-- The state in which a record is written has canonical memory. -/
def RingTry.MemOk : RingTry → Prop
  | .written t => t.MemOk
  | _ => True
/-- The state in which an arrival is applied has canonical memory. -/
def Arrived.MemOk : Arrived → Prop
  | .applied t => t.MemOk
  | _ => True
/-- The next state of a step, if there is one, has canonical memory. -/
def OutcomeMemOk : Host.Outcome State Fault Refusal → Prop
  | .next t => t.MemOk
  | _ => True

-- What an answer says of the state that it carries

theorem Acc.memOk_of_ok {x : Acc α} {t : State} {a : α} (hx : x.MemOk) (e : x = .ok t a) : t.MemOk := by
  subst e
  exact hx
theorem Frame.memOk_of_ok {x : Frame α} {t : State} {a : α} (hx : x.MemOk) (e : x = .ok t a) : t.MemOk := by
  subst e
  exact hx
theorem Frame.memOk_of_fail {x : Frame α} {t : State} {k st gpa : Nat} {m : Bool} (hx : x.MemOk) (e : x = .fail t k m st gpa) : t.MemOk := by
  subst e
  exact hx
theorem Prep.memOk_of_done {x : Prep} {t : State} (hx : x.MemOk) (e : x = .done t) : t.MemOk := by
  subst e
  exact hx
theorem Prep.memOk_of_word {x : Prep} {t : State} {w : W96} (hx : x.MemOk) (e : x = .word t w) : t.MemOk := by
  subst e
  exact hx
theorem RingTry.memOk_of_written {x : RingTry} {t : State} (hx : x.MemOk) (e : x = .written t) : t.MemOk := by
  subst e
  exact hx
theorem Arrived.memOk_of_applied {x : Arrived} {t : State} (hx : x.MemOk) (e : x = .applied t) : t.MemOk := by
  subst e
  exact hx
theorem memOk_of_next {x : Host.Outcome State Fault Refusal} {t : State} (hx : OutcomeMemOk x) (e : x = .next t) : t.MemOk := by
  subst e
  exact hx

-- Sequencing and folds

theorem Acc.bind_memOk {x : Acc α} {f : State → α → Acc β} (hx : x.MemOk) (hf : ∀ t a, t.MemOk → (f t a).MemOk) : (x.bind f).MemOk := by
  cases x with
  | ok t a => exact hf t a hx
  | bad k st => trivial
  | wait n => trivial
theorem Acc.bind_eq_ok {x : Acc α} {f : State → α → Acc β} {t : State} {b : β} (e : x.bind f = .ok t b) : ∃ u a, x = .ok u a ∧ f u a = .ok t b := by
  cases x with
  | ok u a => exact ⟨u, a, rfl, e⟩
  | bad k st => cases e
  | wait n => cases e
theorem foldl_memOk {f : State → ι → State} {xs : List ι} (hf : ∀ t x, t.MemOk → (f t x).MemOk) (h : s.MemOk) : (xs.foldl f s).MemOk :=
  foldl_keeps _ f xs s h hf
theorem foldl_fst_memOk {f : State × α → ι → State × α} {xs : List ι} {x : State × α} (hf : ∀ t i, t.1.MemOk → (f t i).1.MemOk) (h : x.1.MemOk) :
    (xs.foldl f x).1.MemOk :=
  foldl_keeps (fun x : State × α => x.1.MemOk) f xs x h hf
theorem foldl_acc_memOk {f : Acc α → ι → Acc α} {xs : List ι} {a : Acc α} (hf : ∀ t x, t.MemOk → (f t x).MemOk) (h : a.MemOk) : (xs.foldl f a).MemOk :=
  foldl_keeps _ f xs a h hf
theorem foldl_bind_memOk {f : State → α → ι → Acc α} {xs : List ι} {a : Acc α} (hf : ∀ t y x, t.MemOk → (f t y x).MemOk) (h : a.MemOk) :
    (xs.foldl (fun acc x => acc.bind fun t y => f t y x) a).MemOk :=
  foldl_acc_memOk (fun _ x ha => Acc.bind_memOk ha fun t y ht => hf t y x ht) h


-- ---------------------------------------------------------------------------------------------
-- Readers and writers of the parts of the state (Sys2Proof/Machine/Base.lean)

theorem State.setCore_memOk (h : s.MemOk) (c : Nat) (x : Core) : (s.setCore c x).MemOk := h
theorem State.setFlight_memOk (h : s.MemOk) (c f : Nat) (x : Flight) : (s.setFlight c f x).MemOk := h
theorem State.setEng_memOk (h : s.MemOk) (c e : Nat) (x : Eng) : (s.setEng c e x).MemOk := h
theorem State.setBlock_memOk (h : s.MemOk) (c b : Nat) (x : Block) : (s.setBlock c b x).MemOk := h
theorem State.setCb_memOk (h : s.MemOk) (c b : Nat) (x : CBar) : (s.setCb c b x).MemOk := h
theorem State.setPress_memOk (h : s.MemOk) (c : Nat) (x : Press) : (s.setPress c x).MemOk := h
theorem State.setCtx_memOk (h : s.MemOk) (c : Nat) (x : Ctx) : (s.setCtx c x).MemOk := h
theorem State.setVf_memOk (h : s.MemOk) (n : Nat) (x : Vf) : (s.setVf n x).MemOk := h
theorem State.setPart_memOk (h : s.MemOk) (n : Nat) (x : Part) : (s.setPart n x).MemOk := h
theorem State.setRing_memOk (h : s.MemOk) (n : Nat) (x : Ring) : (s.setRing n x).MemOk := h
theorem State.setDie_memOk (h : s.MemOk) (d : Nat) (x : Die) : (s.setDie d x).MemOk := h
theorem State.emit_memOk (h : s.MemOk) (m : Msg) : (s.emit m).MemOk := h
theorem State.pick_memOk (h : s.MemOk) (n : Nat) : (s.pick n).2.MemOk := by
  unfold State.pick
  split <;> exact h
theorem State.shuffle_memOk (h : s.MemOk) (n : Nat) (xs : List α) : (s.shuffle n xs).2.MemOk := by
  induction n generalizing s xs with
  | zero => exact h
  | succ n ih =>
    unfold State.shuffle
    grind [State.pick_memOk]

-- ---------------------------------------------------------------------------------------------
-- Homes, registration, recall, and accesses at their sites (Sys2Proof/Machine/MemSys.lean)

theorem State.clearFailed_memOk (h : s.MemOk) : s.clearFailed.MemOk := h
theorem State.fabricPort_memOk (h : s.MemOk) (pkg gpa : Nat) : (s.fabricPort pkg gpa).2.MemOk := by
  unfold State.fabricPort
  grind [State.pick_memOk]
theorem State.fetchMem_memOk (h : s.MemOk) (t : Tgt) : (s.fetchMem t).1.MemOk := by
  unfold State.fetchMem
  grind [State.setDie_memOk]
theorem State.noteWrite_memOk (h : s.MemOk) (pkg a gpa : Nat) (mask : BitVec 64) : (s.noteWrite pkg a gpa mask).MemOk := State.fabricPort_memOk h ..
/-- A write-back changes one sector, by `setSector`, of device memory or of another package's memory. -/
theorem State.storeMem_memOk (h : s.MemOk) (k : Nat) (t : Tgt) (data : BitVec 512) (mask : BitVec 64) (psn clear : Bool) :
    (s.storeMem k t data mask psn clear).MemOk := by
  obtain ⟨hm, hf⟩ := h
  unfold State.storeMem
  split
  case h_1 a key =>
    refine ⟨?_, hf⟩
    show Memory.wf (if _ then _ else _) = true
    split
    · exact Memory.wf_setSector _ _ _ _ hm
    · exact Memory.wf_setSector _ _ _ _ hm
  case h_2 pkg a =>
    obtain ⟨nm, nf⟩ := State.noteWrite_memOk ⟨hm, hf⟩ pkg a (k % 2 ^ 51 * 64) mask
    exact ⟨nm, Memory.wf_setSector _ _ _ _ nf⟩
  case h_3 => exact ⟨hm, hf⟩
  case h_4 => exact ⟨hm, hf⟩
theorem State.setHome_memOk (h : s.MemOk) (k : Nat) (x : Home) : (s.setHome k x).MemOk := h
theorem State.setL1_memOk (h : s.MemOk) (c k : Nat) (x : Sector) : (s.setL1 c k x).MemOk := h
theorem State.dropL1_memOk (h : s.MemOk) (c k : Nat) : (s.dropL1 c k).MemOk := by
  unfold State.dropL1
  grind [State.setCore_memOk]
theorem State.giveWords_memOk (h : s.MemOk) (k : Nat) (ws : BitVec 16) (c : Nat) : (s.giveWords k ws c).MemOk := by
  unfold State.giveWords
  grind [State.setHome_memOk, State.setL1_memOk]
theorem State.dropOthers_memOk (h : s.MemOk) (k : Nat) (keep : Option Nat) : (s.dropOthers k keep).MemOk := by
  unfold State.dropOthers
  grind [State.setHome_memOk, State.dropL1_memOk, foldl_memOk]
theorem State.writeBack_memOk (h : s.MemOk) (k : Nat) (t : Tgt) : (s.writeBack k t).MemOk := by
  unfold State.writeBack
  grind [State.setHome_memOk, State.storeMem_memOk]
theorem State.evictL2_memOk (h : s.MemOk) (k : Nat) : (s.evictL2 k).MemOk := by
  unfold State.evictL2
  grind [State.dropOthers_memOk, State.setHome_memOk, State.pick_memOk, State.giveWords_memOk, State.writeBack_memOk, State.emit_memOk, foldl_memOk, State.MemOk]
theorem State.roomL2_memOk (h : s.MemOk) (k : Nat) : (s.roomL2 k).MemOk := by
  unfold State.roomL2
  grind [State.evictL2_memOk, State.pick_memOk, foldl_memOk, State.MemOk]
theorem State.recallFrom_memOk (h : s.MemOk) (k : Nat) (ws : BitVec 16) (c : Nat) : (s.recallFrom k ws c).MemOk := by
  unfold State.recallFrom
  grind [State.roomL2_memOk, State.giveWords_memOk]
theorem State.recall_memOk (h : s.MemOk) (k : Nat) (ws : BitVec 16) : (s.recall k ws).MemOk := by
  unfold State.recall
  grind [State.recallFrom_memOk, foldl_memOk]
theorem State.evictL1_memOk (h : s.MemOk) (c k : Nat) : (s.evictL1 c k).MemOk := State.dropL1_memOk (State.recallFrom_memOk h ..) ..
theorem State.roomL1_memOk (h : s.MemOk) (c k : Nat) : (s.roomL1 c k).MemOk := by
  unfold State.roomL1
  grind [State.evictL1_memOk, State.pick_memOk, foldl_memOk]
theorem State.fillHome_memOk (h : s.MemOk) (k : Nat) (t : Tgt) (coh : Bool) : (s.fillHome k t coh).MemOk := by
  unfold State.fillHome
  grind [State.fetchMem_memOk, State.setHome_memOk, State.roomL2_memOk]
theorem State.unanswered_memOk (h : s.MemOk) (k : Nat) (t : Tgt) : (s.unanswered k t).MemOk := by
  unfold State.unanswered
  grind [State.setHome_memOk, State.fillHome_memOk, State.MemOk]
theorem State.readyHome_memOk (h : s.MemOk) (func sec : Nat) (rd wr excl full : Bool) : (s.readyHome func sec rd wr excl full).MemOk := by
  unfold State.readyHome
  grind [State.unanswered_memOk, Acc.MemOk]
theorem State.ownRemote_memOk (h : s.MemOk) (k : Nat) (t : Tgt) : (s.ownRemote k t).MemOk := by
  unfold State.ownRemote
  grind [State.setHome_memOk, State.emit_memOk]
theorem State.fillL1_memOk (h : s.MemOk) (c k : Nat) (coh : Bool) : (s.fillL1 c k coh).MemOk := State.roomL1_memOk h ..
theorem State.readAtHome_memOk (h : s.MemOk) (func sec : Nat) (mask : BitVec 64) : (s.readAtHome func sec mask).MemOk := by
  unfold State.readAtHome
  grind [State.recall_memOk, State.fillHome_memOk, State.readyHome_memOk, Acc.MemOk, Acc.bind_memOk]
theorem State.readAtCtl_memOk (h : s.MemOk) (func sec : Nat) (own rmw : Bool) : (s.readAtCtl func sec own rmw).MemOk := by
  unfold State.readAtCtl
  grind [State.dropOthers_memOk, State.fetchMem_memOk, State.recall_memOk, State.setHome_memOk, State.writeBack_memOk, State.readyHome_memOk, Acc.MemOk, Acc.bind_memOk,
    State.MemOk]
theorem State.readSec.forward_memOk (h : s.MemOk) (func sec k : Nat) : (State.readSec.forward s func sec k).MemOk := by
  unfold State.readSec.forward
  grind [State.fillHome_memOk, State.readyHome_memOk, Acc.MemOk, Acc.bind_memOk]
theorem State.readSec_memOk (h : s.MemOk) (c : Nat) (site : Site) (func sec : Nat) (mask : BitVec 64) : (s.readSec c site func sec mask).MemOk := by
  unfold State.readSec
  grind [State.fillL1_memOk, State.readAtHome_memOk, State.readAtCtl_memOk, State.readSec.forward_memOk, State.setHome_memOk, State.fillHome_memOk, State.readyHome_memOk,
    Acc.MemOk, Acc.bind_memOk]
theorem State.updateOwn_memOk (h : s.MemOk) (c k : Nat) (data : BitVec 512) (mask : BitVec 64) : (s.updateOwn c k data mask).MemOk := by
  unfold State.updateOwn
  grind [State.setL1_memOk]
theorem State.writeCopy_memOk (h : s.MemOk) (c : Option Nat) (k : Nat) (coh : Bool) (data : BitVec 512) (mask : BitVec 64) (psn : BitVec 16) :
    (s.writeCopy c k coh data mask psn).MemOk := by
  unfold State.writeCopy
  grind [State.updateOwn_memOk, State.dropOthers_memOk, State.recall_memOk, State.setHome_memOk, State.roomL2_memOk]
theorem State.writeAtHome_memOk (h : s.MemOk) (c : Option Nat) (func sec : Nat) (rd cls : Bool) (data : BitVec 512) (mask : BitVec 64) (psn : BitVec 16) :
    (s.writeAtHome c func sec rd cls data mask psn).MemOk := by
  unfold State.writeAtHome
  grind [State.ownRemote_memOk, State.writeCopy_memOk, State.fillHome_memOk, State.readyHome_memOk, Acc.MemOk, Acc.bind_memOk]
theorem State.writeAtCtl_memOk (h : s.MemOk) (c : Option Nat) (func sec : Nat) (rd cls : Bool) (data : BitVec 512) (mask : BitVec 64) (psn : BitVec 16) :
    (s.writeAtCtl c func sec rd cls data mask psn).MemOk := by
  unfold State.writeAtCtl
  grind [State.updateOwn_memOk, State.dropOthers_memOk, State.recall_memOk, State.setHome_memOk, State.writeBack_memOk, State.readyHome_memOk, State.writeAtHome_memOk,
    State.storeMem_memOk, Acc.MemOk, Acc.bind_memOk]
theorem State.writeAtL1_memOk (h : s.MemOk) (c g func sec : Nat) (rd : Bool) (data : BitVec 512) (mask : BitVec 64) : (s.writeAtL1 c g func sec rd data mask).MemOk := by
  unfold State.writeAtL1
  grind [State.updateOwn_memOk, State.recallFrom_memOk, State.setHome_memOk, State.setL1_memOk, State.fillHome_memOk, State.readyHome_memOk, State.roomL1_memOk,
    State.writeAtHome_memOk, Acc.MemOk, Acc.bind_memOk, foldl_memOk]
theorem State.writeSec_memOk (h : s.MemOk) (c : Nat) (site : Site) (func sec : Nat) (rd cls : Bool) (data : BitVec 512) (mask : BitVec 64) :
    (s.writeSec c site func sec rd cls data mask).MemOk := by
  unfold State.writeSec
  grind [State.writeAtL1_memOk, State.writeAtCtl_memOk, State.writeAtHome_memOk]
theorem State.readCls_memOk (h : s.MemOk) (c : Nat) (site : Site) (func sec : Nat) (cls : Bool) (mask : BitVec 64) : (s.readCls c site func sec cls mask).MemOk := by
  unfold State.readCls
  grind [State.readSec_memOk, State.setHome_memOk, State.setL1_memOk, Acc.MemOk, Acc.bind_memOk]
theorem State.readN_memOk (h : s.MemOk) (c : Nat) (site : Site) (func gpa : Nat) (cls : Bool) (n : Nat) : (s.readN c site func gpa cls n).MemOk := by
  unfold State.readN
  grind [State.readCls_memOk, Acc.MemOk, Acc.bind_memOk]
theorem State.writeN_memOk (h : s.MemOk) (c : Nat) (site : Site) (func gpa : Nat) (cls : Bool) (n x : Nat) : (s.writeN c site func gpa cls n x).MemOk :=
  State.writeSec_memOk h ..
theorem State.rmwN_memOk (h : s.MemOk) (c : Nat) (site : Site) (func gpa : Nat) (cls : Bool) (n : Nat) (f : Nat → Nat) : (s.rmwN c site func gpa cls n f).MemOk := by
  unfold State.rmwN
  grind [State.readSec_memOk, State.writeSec_memOk, State.recall_memOk, State.readAtCtl_memOk, State.fillHome_memOk, State.readyHome_memOk, Acc.MemOk, Acc.bind_memOk]
theorem State.lookSec_memOk (h : s.MemOk) (func sec : Nat) : (s.lookSec func sec).MemOk := by
  unfold State.lookSec
  grind [State.fillHome_memOk, State.readyHome_memOk, Acc.MemOk, Acc.bind_memOk]
theorem State.takeSector_memOk (h : s.MemOk) (k : Nat) : (s.takeSector k).MemOk := State.dropOthers_memOk (State.recall_memOk h ..) ..
theorem State.freeSector_memOk (h : s.MemOk) (k : Nat) : (s.freeSector k).MemOk := by
  unfold State.freeSector
  grind [State.setHome_memOk, State.emit_memOk]
theorem State.dropOwner_memOk (h : s.MemOk) (o : Owner) : (s.dropOwner o).MemOk := by
  unfold State.dropOwner
  grind [State.freeSector_memOk, foldl_memOk]
theorem State.drainEntry_memOk (h : s.MemOk) (c : Nat) (w : Wcb) : (s.drainEntry c w).MemOk := by
  unfold State.drainEntry
  grind [State.writeAtCtl_memOk, Acc.MemOk, Acc.bind_memOk, foldl_acc_memOk, State.MemOk]
theorem State.drainWcb_memOk (h : s.MemOk) (c ctx : Nat) : (s.drainWcb c ctx).MemOk := by
  unfold State.drainWcb
  grind [State.setCore_memOk, State.drainEntry_memOk, Acc.MemOk, Acc.bind_memOk, foldl_acc_memOk]
theorem State.drainFor_memOk (h : s.MemOk) (c ctx gpa : Nat) : (s.drainFor c ctx gpa).MemOk := by
  unfold State.drainFor
  grind [State.setCore_memOk, State.drainEntry_memOk, Acc.MemOk, Acc.bind_memOk]
theorem State.flushRemote_memOk (h : s.MemOk) (cores : List Nat) (p : Nat → Bool) : (s.flushRemote cores p).MemOk := by
  unfold State.flushRemote
  grind [State.recallFrom_memOk, State.writeBack_memOk, foldl_memOk]
theorem State.acked_memOk (h : s.MemOk) (c ctx : Nat) : (s.acked c ctx).MemOk := h
theorem State.release_memOk (h : s.MemOk) (c ctx scope : Nat) : (s.release c ctx scope).MemOk := by
  unfold State.release
  grind [State.flushRemote_memOk, State.drainWcb_memOk, State.acked_memOk, Acc.MemOk, Acc.bind_memOk]
theorem State.acquireL2_memOk (h : s.MemOk) (scope : Nat) : (s.acquireL2 scope).MemOk := by
  unfold State.acquireL2
  split <;> exact h
theorem State.acquire_memOk (h : s.MemOk) (c scope : Nat) (local1 : Bool) : (s.acquire c scope local1).MemOk := by
  unfold State.acquire
  grind [State.acquireL2_memOk, State.setCore_memOk]
theorem State.freeLine_memOk (h : s.MemOk) (func sec a : Nat) : ∀ t, s.freeLine func sec a = some t → t.MemOk := by
  unfold State.freeLine
  grind [State.evictL2_memOk, State.emit_memOk, State.MemOk]
theorem State.askHost_memOk (h : s.MemOk) (r : CacheReq) (func sec a : Nat) : (s.askHost r func sec a).MemOk := by
  have hl := State.freeLine_memOk h func sec a
  unfold State.askHost
  grind [State.MemOk]
theorem State.request_memOk (h : s.MemOk) (n : Need) : (s.request n).MemOk := by
  unfold State.request
  grind [State.askHost_memOk, State.setCore_memOk, State.MemOk]

-- ---------------------------------------------------------------------------------------------
-- The first stage and instruction fetch (Sys2Proof/Machine/Translate.lean)

theorem Acc.after_memOk {x : Acc α} (h : s.MemOk) (hx : x.MemOk) : (x.after s).MemOk := by
  cases x with
  | ok t a => exact hx
  | bad k st => exact h
  | wait n => exact h
theorem State.readEntry_memOk (h : s.MemOk) (func a : Nat) : (s.readEntry func a).1.MemOk := by
  unfold State.readEntry
  grind [State.lookSec_memOk, Acc.after_memOk]
theorem State.walkEntry_memOk (h : s.MemOk) (func ctx : Nat) (va : W64) (lvl a : Nat) (deeper : State → Nat → State × List WalkRes)
    (hd : ∀ t n, t.MemOk → (deeper t n).1.MemOk) : (s.walkEntry func ctx va lvl a deeper).1.MemOk := by
  have hr := s.readEntry_memOk h func a
  unfold State.walkEntry
  grind
theorem State.walkLast_memOk (h : s.MemOk) (func ctx : Nat) (va : W64) (table : Nat) : (s.walkLast func ctx va table).1.MemOk := by
  unfold State.walkLast
  grind [State.walkEntry_memOk]
theorem State.walk_memOk (h : s.MemOk) (func ctx : Nat) (va : W64) (lvl table : Nat) : (s.walk func ctx va lvl table).1.MemOk := by
  induction lvl generalizing s table with
  | zero => exact State.walkLast_memOk h func ctx va table
  | succ lvl ih => exact State.walkEntry_memOk h func ctx va _ _ _ fun t n ht => ih ht n
theorem State.translate_memOk (h : s.MemOk) (c ctx : Nat) (va : W64) (acc : Access) : (s.translate c ctx va acc).1.MemOk := by
  have hw : (if (s.ctx ctx).ptroot = 0 then (s, [WalkRes.fault 0 false 1 0])
      else s.walk (s.funcOf ctx) ctx va 4 ((s.ctx ctx).ptroot.toNat % 2 ^ 57)).1.MemOk := by
    split
    · exact h
    · exact State.walk_memOk h ..
  unfold State.translate
  dsimp only
  generalize (if (s.ctx ctx).ptroot = 0 then _ else s.walk _ _ _ _ _) = walked at hw ⊢
  grind [State.pick_memOk, State.setCore_memOk]
theorem State.fetchWord_memOk (h : s.MemOk) (c ctx func : Nat) (va : W64) (gpa : Nat) : (s.fetchWord c ctx func va gpa).1.MemOk := by
  unfold State.fetchWord
  grind [State.pick_memOk, State.setCore_memOk, State.lookSec_memOk, Acc.memOk_of_ok]
theorem State.fetch_memOk (h : s.MemOk) (c ctx : Nat) (pc : W57) : (s.fetch c ctx pc).1.MemOk := by
  unfold State.fetch
  extract_lets func step
  have hs : ((List.range 3).foldl step (s, .ok (0, 0, 0))).1.MemOk := by
    refine foldl_fst_memOk (fun x j hx => ?_) h
    unfold step
    grind [State.translate_memOk, State.fetchWord_memOk]
  grind

-- ---------------------------------------------------------------------------------------------
-- Reads of the dies in a context's space, and routes (Sys2Proof/Machine/Routes.lean)

theorem State.dieTranslate_memOk (h : s.MemOk) (ctx : Nat) (va : W64) (acc : Access) : (s.dieTranslate ctx va acc).1.MemOk := by
  unfold State.dieTranslate
  grind [State.translate_memOk, State.MemOk]
theorem State.readGpa_memOk (h : s.MemOk) (func gpa n : Nat) : (s.readGpa func gpa n).1.MemOk := by
  unfold State.readGpa
  grind [State.lookSec_memOk, Acc.memOk_of_ok]
theorem State.readVa_memOk (h : s.MemOk) (ctx fuel : Nat) (va : W64) (n : Nat) : (s.readVa ctx fuel va n).1.MemOk := by
  induction fuel generalizing s va n with
  | zero => exact h
  | succ fuel ih =>
    unfold State.readVa
    grind [State.dieTranslate_memOk, State.readGpa_memOk]
theorem State.readBytes_memOk (h : s.MemOk) (ctx : Nat) (va : W64) (n : Nat) : (s.readBytes ctx va n).1.MemOk := State.readVa_memOk h ..
theorem State.readPgt_memOk (h : s.MemOk) (ctx : Nat) (va : W64) : (s.readPgt ctx va).1.MemOk := by
  unfold State.readPgt
  grind [State.readBytes_memOk]
theorem State.takeRoute_memOk (h : s.MemOk) (ctx : Nat) (pgt : W64) (gpa : Nat) : (s.takeRoute ctx pgt gpa).MemOk := by
  unfold State.takeRoute
  grind [State.readPgt_memOk, Acc.MemOk, State.MemOk]
theorem State.routeRange_memOk (h : s.MemOk) (ctx : Nat) (pgt va : W64) (n : Nat) : (s.routeRange ctx pgt va n).MemOk := by
  unfold State.routeRange
  grind [State.takeRoute_memOk, State.dieTranslate_memOk, Acc.MemOk, Acc.bind_memOk, foldl_acc_memOk]
theorem State.readFar_memOk (h : s.MemOk) (ctx : Nat) (pgt va : W64) (n : Nat) : (s.readFar ctx pgt va n).1.MemOk := by
  unfold State.readFar
  grind [State.routeRange_memOk, State.readBytes_memOk, Acc.memOk_of_ok]
theorem State.routeHere_memOk (h : s.MemOk) (ctx gpa : Nat) : (s.routeHere ctx gpa).MemOk := State.takeRoute_memOk h ..

-- ---------------------------------------------------------------------------------------------
-- What lands in registers, scratchpad and memory (Sys2Proof/Machine/Land.lean)

theorem State.acquireBy_memOk (h : s.MemOk) (c : Nat) (f : Flight) (scope : Nat) : (s.acquireBy c f scope).MemOk := State.acquire_memOk h ..
theorem State.releaseHeld_memOk (h : s.MemOk) (fl : List (Nat × Nat × Flight)) (p : Hold → Bool) : (s.releaseHeld fl p).MemOk := by
  unfold State.releaseHeld
  grind [State.setFlight_memOk, foldl_memOk]
theorem State.barCheck_memOk (h : s.MemOk) (home key id : Nat) : (s.barCheck home key id).MemOk := by
  unfold State.barCheck
  grind [State.acquire_memOk, State.setBlock_memOk, State.releaseHeld_memOk, foldl_memOk]
theorem State.cbarCheck_memOk (h : s.MemOk) (gkey id : Nat) : (s.cbarCheck gkey id).MemOk := by
  unfold State.cbarCheck
  grind [State.acquire_memOk, State.releaseHeld_memOk, foldl_memOk, State.MemOk]
theorem State.cbRelease_memOk (h : s.MemOk) (c cb : Nat) : (s.cbRelease c cb).MemOk := by
  unfold State.cbRelease
  grind [State.acquire_memOk, State.setEng_memOk, State.setFlight_memOk, State.acquireBy_memOk, foldl_memOk]
theorem State.joinRelease_memOk (h : s.MemOk) (c gen : Nat) : (s.joinRelease c gen).MemOk := by
  unfold State.joinRelease
  grind [State.setFlight_memOk, State.acquireBy_memOk, foldl_memOk]
theorem State.cbZero_memOk (h : s.MemOk) (c cb : Nat) : (s.cbZero c cb).MemOk := by
  unfold State.cbZero
  grind [State.cbRelease_memOk]
theorem State.serveQueue_memOk (h : s.MemOk) (c cb n : Nat) : (s.serveQueue c cb n).MemOk := by
  induction n generalizing s with
  | zero => exact h
  | succ n ih =>
    unfold State.serveQueue
    grind [State.setCb_memOk, State.cbZero_memOk, State.setFlight_memOk, State.acquireBy_memOk]
theorem State.cbCount_memOk (h : s.MemOk) (c cb : Nat) (d : Int) : (s.cbCount c cb d).1.MemOk := by
  unfold State.cbCount
  grind [State.cbZero_memOk, State.setCb_memOk, State.serveQueue_memOk]
theorem State.noteFailure_memOk (h : s.MemOk) (ctx c flight kind stage gpa : Nat) : (s.noteFailure ctx c flight kind stage gpa).MemOk := h
theorem State.passOwner_memOk (h : s.MemOk) (k : Nat) (ok : Owner → Bool) (f : State → Acc α) (hf : ∀ t, t.MemOk → (f t).MemOk) :
    (s.passOwner k ok f).MemOk := by
  unfold State.passOwner
  split
  · exact hf s h
  · split
    · exact Acc.bind_memOk (hf _ h) fun t x ht => ht
    · exact hf s h
theorem State.poisonSector_memOk (h : s.MemOk) (k : Nat) : (s.poisonSector k).MemOk := by
  unfold State.poisonSector
  grind [State.setHome_memOk]
theorem State.writeUnit_memOk (h : s.MemOk) (func gpa : Nat) (cls : Bool) (data : BitVec 512) (mask : BitVec 64) (psn : Bool) :
    (s.writeUnit func gpa cls data mask psn).MemOk := by
  unfold State.writeUnit
  grind [State.poisonSector_memOk, State.takeSector_memOk, State.writeAtCtl_memOk, State.writeAtHome_memOk, Acc.MemOk, Acc.bind_memOk]
theorem State.disownKey_memOk (h : s.MemOk) (k : Nat) (o : Owner) : (s.disownKey k o).MemOk := by
  unfold State.disownKey
  grind [State.freeSector_memOk]
theorem State.landElem_memOk (h : s.MemOk) (g : Eng) (t : Transfer) (m : Nat) (x : W32) (psn : Bool) : (s.landElem g t m x psn).MemOk := by
  unfold State.landElem
  grind [State.setFlight_memOk]
theorem State.writeCap_memOk (h : s.MemOk) (c e slot : Nat) (g : Eng) (t : Transfer) (p : Cap) : (s.writeCap c e slot g t p).MemOk := by
  unfold State.writeCap
  grind [State.writeUnit_memOk, State.readAtHome_memOk, State.setBlock_memOk, State.readAtCtl_memOk, State.passOwner_memOk, State.takeRoute_memOk, State.landElem_memOk,
    State.noteFailure_memOk, Acc.MemOk, Acc.bind_memOk, foldl_memOk]
theorem State.landCap_memOk (h : s.MemOk) (c e slot k : Nat) : (s.landCap c e slot k).MemOk := by
  unfold State.landCap
  grind [State.setEng_memOk, State.cbCount_memOk, State.writeCap_memOk, State.disownKey_memOk, Acc.MemOk, Acc.bind_memOk]
theorem State.stopEngine_memOk (h : s.MemOk) (c e : Nat) : (s.stopEngine c e).1.MemOk := by
  unfold State.stopEngine
  extract_lets r t g u
  have ht : t.MemOk := foldl_fst_memOk (fun x p hx => by grind [State.landCap_memOk, Acc.memOk_of_ok]) h
  exact State.setEng_memOk (foldl_memOk (fun _ _ hv => foldl_memOk (fun _ _ hw => State.disownKey_memOk hw ..) hv) ht) ..
theorem State.stopEngines_memOk (h : s.MemOk) (ctx : Nat) : (s.stopEngines ctx).1.MemOk := by
  refine foldl_fst_memOk (fun x k hx => foldl_fst_memOk (fun y e hy => ?_) hx) h
  split
  · exact State.stopEngine_memOk hy ..
  · exact hy

-- ---------------------------------------------------------------------------------------------
-- Events, context traps, lantern records and per-thread traps (Sys2Proof/Machine/Ops.lean)

theorem State.tryRing_memOk (h : s.MemOk) (key : Nat) (recd : BitVec 128) : (s.tryRing key recd).MemOk := by
  unfold State.tryRing
  grind [State.setRing_memOk, State.writeAtCtl_memOk, State.lookSec_memOk, State.emit_memOk, RingTry.MemOk, Acc.memOk_of_ok]
theorem State.postRing_memOk (h : s.MemOk) (key : Nat) (recd : BitVec 128) : (s.postRing key recd).MemOk := by
  unfold State.postRing
  grind [State.tryRing_memOk, State.setRing_memOk, State.request_memOk, State.emit_memOk, RingTry.memOk_of_written]
theorem State.retryRing_memOk (h : s.MemOk) (key n : Nat) : (s.retryRing key n).MemOk := by
  induction n generalizing s with
  | zero => exact h
  | succ n ih =>
    unfold State.retryRing
    grind [State.setRing_memOk, State.tryRing_memOk, RingTry.memOk_of_written, State.request_memOk, State.emit_memOk]
theorem State.postEvent_memOk (h : s.MemOk) (ty cause ctx : Nat) (info : W64) : (s.postEvent ty cause ctx info).MemOk := by
  unfold State.postEvent
  grind [State.postRing_memOk]
theorem State.stopHolds_memOk (h : s.MemOk) (ctx : Nat) : (s.stopHolds ctx).MemOk := h
theorem State.preemptRuns_memOk (h : s.MemOk) (ctx : Nat) : (s.preemptRuns ctx).MemOk := by
  unfold State.preemptRuns
  split <;> exact h
theorem State.trapContext_memOk (h : s.MemOk) (ctx cause : Nat) (info : W64) : (s.trapContext ctx cause info).MemOk := by
  unfold State.trapContext
  grind [State.stopEngines_memOk, State.postEvent_memOk, State.stopHolds_memOk, State.preemptRuns_memOk, State.setCtx_memOk, foldl_memOk]
theorem State.cbUpdate_memOk (h : s.MemOk) (c cb : Nat) (d : Int) (ctx : Nat) (info : W64) : (s.cbUpdate c cb d ctx info).MemOk := by
  unfold State.cbUpdate
  grind [State.cbCount_memOk, State.trapContext_memOk]
theorem State.lantern_memOk (h : s.MemOk) (ctx : Nat) (r : LRec) : (s.lantern ctx r).MemOk := by
  unfold State.lantern
  grind [State.trapContext_memOk, State.setCtx_memOk, State.lookSec_memOk, State.writeAtHome_memOk, Acc.MemOk]
theorem State.reportFailure_memOk (h : s.MemOk) (x : Failure) : (s.reportFailure x).MemOk := by
  unfold State.reportFailure
  grind [State.trapContext_memOk, State.lantern_memOk, Acc.MemOk, Acc.bind_memOk]
theorem State.transWords_memOk (h : s.MemOk) (c ctx : Nat) (va : W64) (acc : Access) (n : Nat) : (s.transWords c ctx va acc n).MemOk := by
  induction n generalizing s va with
  | zero => exact h
  | succ n ih =>
    unfold State.transWords
    grind [State.translate_memOk, Frame.MemOk]
theorem State.routedAfterDrain_memOk (h : s.MemOk) {c ctx gpa : Nat} {f : State → Acc α} (hf : ∀ t, t.MemOk → (f t).MemOk) :
    ((s.routeHere ctx gpa).bind fun t _ => (t.drainFor c ctx gpa).bind fun u _ => f u).MemOk :=
  Acc.bind_memOk (State.routeHere_memOk h ..) fun _ _ ht => Acc.bind_memOk (State.drainFor_memOk ht ..) fun u _ hu => hf u hu
theorem State.storeWords_memOk (h : s.MemOk) (c ctx : Nat) (va : W64) (xs : List Nat) : (s.storeWords c ctx va xs).MemOk := by
  have ht := State.transWords_memOk h c ctx va .write xs.length
  unfold State.storeWords
  split
  · exact Frame.memOk_of_fail ht ‹_›
  · trivial
  · refine foldl_keeps Frame.MemOk _ _ _ (Frame.memOk_of_ok ht ‹_›) fun r e hr => ?_
    cases r with
    | ok t x =>
      dsimp only
      split
      · exact Acc.memOk_of_ok (State.routedAfterDrain_memOk hr fun _ hu => State.writeN_memOk hu ..) ‹_›
      · exact hr
      · trivial
    | fail t k m st g => exact hr
    | wait n => trivial
theorem State.loadWords_memOk (h : s.MemOk) (c ctx : Nat) (va : W64) (n : Nat) : (s.loadWords c ctx va n).MemOk := by
  have ht := State.transWords_memOk h c ctx va .read n
  unfold State.loadWords
  split
  · exact Frame.memOk_of_fail ht ‹_›
  · trivial
  · refine foldl_keeps Frame.MemOk _ _ _ (Frame.memOk_of_ok ht ‹_›) fun r e hr => ?_
    cases r with
    | ok t x =>
      dsimp only
      split
      · exact Acc.memOk_of_ok (State.routedAfterDrain_memOk hr fun _ hu => State.readN_memOk hu ..) ‹_›
      · exact hr
      · trivial
    | fail t k m st g => exact hr
    | wait n => trivial
theorem State.takeTrap_memOk (h : s.MemOk) (c fid l : Nat) (restart : W57) (cause : W32) (addr : W64) (tok : W32) : (s.takeTrap c fid l restart cause addr tok).MemOk := by
  unfold State.takeTrap
  grind [State.storeWords_memOk, State.setFlight_memOk, State.trapContext_memOk, Acc.MemOk, Frame.memOk_of_ok, Frame.memOk_of_fail]

-- ---------------------------------------------------------------------------------------------
-- Threads, flights and blocks that leave a core; engine traps (Sys2Proof/Machine/Leave.lean)

theorem State.settlePress_memOk (h : s.MemOk) (c : Nat) : (s.settlePress c).MemOk := by
  unfold State.settlePress
  grind [State.setPress_memOk]
theorem State.leaveCores_memOk (h : s.MemOk) (launch : Nat) (cores : List Nat) : (s.leaveCores launch cores).MemOk := by
  unfold State.leaveCores
  grind [State.setCore_memOk, foldl_memOk, State.MemOk]
theorem State.releaseSpad_memOk (h : s.MemOk) (home key : Nat) : (s.releaseSpad home key).MemOk := by
  unfold State.releaseSpad
  grind [State.setBlock_memOk, State.setCore_memOk, State.leaveCores_memOk, foldl_memOk]
theorem State.endBlock_memOk (h : s.MemOk) (home key : Nat) : (s.endBlock home key).MemOk := by
  unfold State.endBlock
  grind [State.releaseSpad_memOk, State.setBlock_memOk, State.setCore_memOk, State.MemOk]
theorem State.endFlight_memOk (h : s.MemOk) (c fid : Nat) : (s.endFlight c fid).MemOk := by
  unfold State.endFlight
  grind [State.setCore_memOk, State.endBlock_memOk]
theorem State.exitThread_memOk (h : s.MemOk) (c fid l : Nat) : (s.exitThread c fid l).MemOk := by
  unfold State.exitThread
  grind [State.cbarCheck_memOk, State.settlePress_memOk, State.barCheck_memOk, State.setPress_memOk, State.setFlight_memOk, State.endFlight_memOk, foldl_memOk]
theorem State.disown_memOk (h : s.MemOk) (c e slot : Nat) : (s.disown c e slot).MemOk := State.dropOwner_memOk h ..
theorem State.trapEngine_memOk (h : s.MemOk) (c e : Nat) (x : EngFault) : (s.trapEngine c e x).MemOk := by
  unfold State.trapEngine
  grind [State.releaseSpad_memOk, State.setEng_memOk, State.disown_memOk, State.joinRelease_memOk, State.lantern_memOk, Acc.MemOk, Acc.bind_memOk, foldl_memOk]
theorem State.engFault_memOk (h : s.MemOk) (c e : Nat) (x : EngFault) : (s.engFault c e x).MemOk := by
  unfold State.engFault
  grind [State.trapEngine_memOk, State.request_memOk, Acc.memOk_of_ok]

-- ---------------------------------------------------------------------------------------------
-- Grants of blocks (Sys2Proof/Machine/Kernel.lean)

theorem State.takeGrant_memOk (h : s.MemOk) (home key : Nat) : (s.takeGrant home key).MemOk := by
  unfold State.takeGrant
  split <;> exact h
theorem State.raiseAllot_memOk (h : s.MemOk) (c fid : Nat) : (s.raiseAllot c fid).MemOk := by
  unfold State.raiseAllot
  grind [State.setFlight_memOk, State.setBlock_memOk]
theorem State.grantBlock_memOk (h : s.MemOk) (home key : Nat) : (s.grantBlock home key).MemOk := by
  unfold State.grantBlock
  grind [State.raiseAllot_memOk, State.setFlight_memOk, State.takeGrant_memOk, foldl_memOk]
theorem State.grantHead_memOk (h : s.MemOk) (c : Nat) : (s.grantHead c).MemOk := by
  unfold State.grantHead
  grind [State.grantBlock_memOk]

-- ---------------------------------------------------------------------------------------------
-- Executing one member of a run (Sys2Proof/Machine/Run.lean)

theorem State.laneTraps_memOk (h : s.MemOk) (hr : Here) (xs : List (Nat × Nat × Nat × TokRef)) : (s.laneTraps hr xs).MemOk := by
  induction xs generalizing s with
  | nil => exact h
  | cons x xs ih =>
    unfold State.laneTraps
    exact Acc.bind_memOk (State.takeTrap_memOk h ..) fun t _ ht => ih ht
theorem State.trapOrder_memOk (h : s.MemOk) (hr : Here) (xs : List (Nat × Nat × Nat × TokRef)) : (s.trapOrder hr xs).2.MemOk := by
  unfold State.trapOrder
  grind [State.shuffle_memOk]
theorem State.blocked_memOk (h : s.MemOk) (hr : Here) (n : Need) : (s.blocked hr n).MemOk := State.request_memOk (State.setFlight_memOk h ..) ..
/-- The threads of a member trap, enter their handlers and exit one after the other, or the member has no effect and the flight waits. -/
theorem State.finishMember_memOk {s0 : State} (h0 : s0.MemOk) (h : s.MemOk) (hr : Here) (v : View) (long : Bool) (o : Outs) :
    (s0.finishMember s hr v long o).MemOk := by
  unfold State.finishMember
  split
  · exact h
  · extract_lets r idle dones traps f1 s1 enters exits r0 exec own keep r2 f2 s2 done
    have h1 : s1.MemOk := State.setFlight_memOk h ..
    have h2 : s2.MemOk := State.setFlight_memOk h ..
    have hd : ∀ t u, done = .ok t u → u.MemOk := by
      unfold done
      intro t u e
      split at e
      · have ho := State.trapOrder_memOk h1 hr traps
        obtain ⟨w, _, hw, e⟩ := Acc.bind_eq_ok e
        obtain ⟨x, _, hx, e⟩ := Acc.bind_eq_ok e
        cases e
        have hw := Acc.memOk_of_ok (State.laneTraps_memOk ho ..) hw
        exact foldl_memOk (fun _ _ ht => State.exitThread_memOk ht ..)
          (Acc.memOk_of_ok (foldl_bind_memOk (a := .ok w ()) (fun _ _ _ ht => State.takeTrap_memOk ht ..) hw) hx)
      · have ho := State.trapOrder_memOk h2 hr traps
        obtain ⟨w, _, hw, e⟩ := Acc.bind_eq_ok e
        cases e
        exact Acc.memOk_of_ok (State.laneTraps_memOk ho ..) hw
    clear_value done
    split
    · exact State.clearFailed_memOk (hd _ _ rfl)
    · exact State.blocked_memOk h0 ..
    · exact State.blocked_memOk h0 ..
theorem State.keepRun_memOk (h : s.MemOk) (hr : Here) : (s.keepRun hr).MemOk := by
  unfold State.keepRun
  split <;> exact h
/-- A member keeps canonical memory where its body does. -/
theorem State.member_memOk (h : s.MemOk) (hr : Here) (v : View) (o : OpSpec) (m : Mode) (body : Here → W32 → State → Acc Outs)
    (hb : ∀ hr g t, t.MemOk → (body hr g t).MemOk) : (s.member hr v o m body).MemOk := by
  have hx := hb hr (guardMask v.grd hr.r) s h
  unfold State.member
  grind [State.finishMember_memOk, State.keepRun_memOk, State.blocked_memOk, Acc.memOk_of_ok]
/-- Every instruction of a flight keeps canonical memory where its body does. -/
theorem State.flightInstr_memOk (h : s.MemOk) (v : View) (o : OpSpec) (m : Mode) (body : Here → W32 → State → Acc Outs)
    (hb : ∀ hr g t, t.MemOk → (body hr g t).MemOk) : OutcomeMemOk (s.flightInstr v o m body) := by
  unfold State.flightInstr
  grind [State.engFault_memOk, State.member_memOk, OutcomeMemOk]
theorem State.alu_memOk (h : s.MemOk) (v : View) (o : OpSpec) (flt : Option Rnd) (long : Bool) (op : Val → Val → Val → ARes) : OutcomeMemOk (s.alu v o flt long op) :=
  State.flightInstr_memOk h _ _ _ _ fun _ _ t ht => by
    grind [Acc.MemOk]

-- ---------------------------------------------------------------------------------------------
-- Control transfers, traps on purpose and returns (Sys2Proof/Machine/Control.lean)

theorem State.overLanes_memOk (h : s.MemOk) (x : σ) (f : State → σ → Nat → Acc (σ × LaneOut)) (ls : List Nat)
    (hf : ∀ t x l, t.MemOk → (f t x l).MemOk) : (s.overLanes x f ls).MemOk := by
  induction ls generalizing s x with
  | nil => exact h
  | cons l ls ih =>
    exact Acc.bind_memOk (hf s x l h) fun t _ ht => Acc.bind_memOk (ih ht _) fun u _ hu => hu
theorem State.checkTarget_memOk (h : s.MemOk) (hr : Here) (l : Nat) (x : W64) (needLand : Bool) : (s.checkTarget hr l x needLand).MemOk := by
  unfold State.checkTarget
  grind [State.fetch_memOk, State.lantern_memOk, Acc.MemOk, Acc.bind_memOk]
theorem State.readStack_memOk (h : s.MemOk) (hr : Here) (l : Nat) (used : List (Nat × Nat)) (va : W64) (n : Nat) : (s.readStack hr l used va n).MemOk := by
  unfold State.readStack
  grind [State.loadWords_memOk, State.lantern_memOk, Acc.MemOk, Frame.memOk_of_ok, Frame.memOk_of_fail, Acc.bind_memOk]
theorem State.pushCall_memOk (h : s.MemOk) (hr : Here) (l : Nat) (va : W64) (ret : W57) : (s.pushCall hr l va ret).MemOk := by
  unfold State.pushCall
  grind [State.storeWords_memOk, State.noteFailure_memOk, State.lantern_memOk, Acc.MemOk, Frame.memOk_of_ok, Frame.memOk_of_fail, Acc.bind_memOk]
theorem State.transferLane_memOk (h : s.MemOk) (hr : Here) (l : Nat) (x : W64) (needLand call : Bool) (opnd : Nat) : (s.transferLane hr l x needLand call opnd).MemOk := by
  unfold State.transferLane
  grind [State.checkTarget_memOk, State.pushCall_memOk, Acc.MemOk, Acc.bind_memOk]
theorem State.branchImm_memOk (h : s.MemOk) (v : View) (imm : BitVec 32) (call : Bool) : OutcomeMemOk (s.branchImm v imm call) :=
  State.flightInstr_memOk h _ _ _ _ fun _ _ t ht => by
    grind [State.transferLane_memOk, State.overLanes_memOk, Acc.MemOk, Acc.bind_memOk]
theorem State.branchReg_memOk (h : s.MemOk) (v : View) (call : Bool) : OutcomeMemOk (s.branchReg v call) :=
  State.flightInstr_memOk h _ _ _ _ fun _ _ t ht => by
    grind [State.transferLane_memOk, State.overLanes_memOk, Acc.MemOk, Acc.bind_memOk]
theorem State.retLane_memOk (h : s.MemOk) (hr : Here) (used : List (Nat × Nat)) (l : Nat) : (s.retLane hr used l).MemOk := by
  unfold State.retLane
  grind [State.checkTarget_memOk, State.readStack_memOk, Acc.MemOk, Acc.bind_memOk]
theorem State.rttLane_memOk (h : s.MemOk) (hr : Here) (used : List (Nat × Nat)) (l : Nat) : (s.rttLane hr used l).MemOk := by
  unfold State.rttLane
  grind [State.checkTarget_memOk, State.setFlight_memOk, State.readStack_memOk, Acc.MemOk, Acc.bind_memOk]
theorem State.allLanes_memOk (h : s.MemOk) (v : View) (o : OpSpec) (e : LaneEnd) : OutcomeMemOk (s.allLanes v o e) :=
  State.flightInstr_memOk h _ _ _ _ fun _ _ t ht => by
    grind [Acc.MemOk]
theorem State.yieldFlight_memOk (h : s.MemOk) (hr : Here) : (s.yieldFlight hr).MemOk := by
  unfold State.yieldFlight
  split <;> exact h
theorem execRet_memOk (h : s.MemOk) (a : Args) : OutcomeMemOk (execRet a s) :=
  State.flightInstr_memOk h _ _ _ _ fun _ _ t ht => by
    grind [State.retLane_memOk, State.overLanes_memOk, Acc.MemOk, Acc.bind_memOk]
theorem execRtt_memOk (h : s.MemOk) (a : Args) : OutcomeMemOk (execRtt a s) :=
  State.flightInstr_memOk h _ _ _ _ fun _ _ t ht => by
    grind [State.overLanes_memOk, State.rttLane_memOk, Acc.MemOk, Acc.bind_memOk]

-- ---------------------------------------------------------------------------------------------
-- What the memory instructions share (Sys2Proof/Machine/Access.lean)

theorem State.foldLanes_memOk (h : s.MemOk) (x : σ) (f : State → σ → Nat → Acc σ) (ls : List Nat)
    (hf : ∀ t x l, t.MemOk → (f t x l).MemOk) : (s.foldLanes x f ls).MemOk := by
  induction ls generalizing s x with
  | nil => exact h
  | cons l ls ih => exact Acc.bind_memOk (hf s x l h) fun t _ ht => ih ht _
theorem State.transPieces_memOk (h : s.MemOk) (c ctx : Nat) (acc : Access) (ps : List (W64 × Nat)) : (s.transPieces c ctx acc ps).MemOk := by
  induction ps generalizing s with
  | nil => exact h
  | cons p ps ih =>
    unfold State.transPieces
    grind [State.translate_memOk, State.routeHere_memOk, Acc.MemOk, Acc.bind_memOk]
theorem State.accessTrap_memOk (h : s.MemOk) (hr : Here) (l : Nat) (va : W64) (e : XFail) (wrt : Bool) : (s.accessTrap hr l va e wrt).MemOk := by
  unfold State.accessTrap
  grind [State.lantern_memOk, Acc.MemOk, Acc.bind_memOk]
theorem State.deferAt_memOk (h : s.MemOk) (hr : Here) (x : LoadAcc) (l : Nat) (va : W64) (e : XFail) (lpc : W57) (dest : Nat) (sup : Bool) :
    (s.deferAt hr x l va e lpc dest sup).MemOk := by
  unfold State.deferAt
  extract_lets done
  split
  · exact h
  · split
    · exact h
    · split
      · exact State.setFlight_memOk h ..
      · split
        · exact h
        · refine Acc.bind_memOk ?_ fun t seq ht => ?_
          · split
            · exact h
            · exact State.lantern_memOk h ..
          · split
            · exact ht
            · exact State.setFlight_memOk ht ..
theorem State.addLoad_memOk (h : s.MemOk) (c fid : Nat) (p : PLoad) (issue : Option Nat) : (s.addLoad c fid p issue).MemOk := by
  unfold State.addLoad
  grind [State.fabricPort_memOk, State.setFlight_memOk, foldl_memOk, State.MemOk]
theorem State.readPieces_memOk (h : s.MemOk) (c ctx : Nat) (site : Site) (func : Nat) (ps : List Piece) : (s.readPieces c ctx site func ps).MemOk := by
  induction ps generalizing s with
  | nil => exact h
  | cons p ps ih =>
    refine Acc.bind_memOk (State.drainFor_memOk h ..) fun t _ ht => ?_
    grind [State.readN_memOk, Acc.MemOk, Acc.bind_memOk, Acc.memOk_of_ok]
theorem State.loadLane_memOk (h : s.MemOk) (hr : Here) (v : View) (lpc : W57) (x : LoadAcc) (l : Nat) : (s.loadLane hr v lpc x l).MemOk := by
  unfold State.loadLane
  grind [State.transPieces_memOk, State.readPieces_memOk, State.deferAt_memOk, Acc.MemOk, Acc.bind_memOk]
theorem State.lateTok_memOk (h : s.MemOk) (c fid : Nat) (p : PLoad) (used : List (Nat × Nat)) (l kind stage : Nat) (malf : Bool) (va gpa : W64) (rec1 : Bool) :
    (s.lateTok c fid p used l kind stage malf va gpa rec1).MemOk := by
  unfold State.lateTok
  grind [State.setFlight_memOk, State.lantern_memOk, Acc.MemOk, Acc.bind_memOk]
theorem State.landLane_memOk (h : s.MemOk) (c fid : Nat) (p : PLoad) (used : List (Nat × Nat)) (x : Nat × LRes) : (s.landLane c fid p used x).MemOk := by
  unfold State.landLane
  grind [State.setFlight_memOk, State.lateTok_memOk, Acc.MemOk]
theorem State.landLoad_memOk (h : s.MemOk) (c fid id : Nat) : (s.landLoad c fid id).MemOk := by
  unfold State.landLoad
  split
  · exact h
  · split
    · exact h
    · rename_i f _ p _
      extract_lets done
      have hd : done.MemOk := foldl_bind_memOk (fun t used x ht => State.landLane_memOk ht ..) h
      grind [State.setFlight_memOk, State.acquireBy_memOk, State.request_memOk, State.MemOk, Acc.memOk_of_ok]
theorem State.bundleOrder_memOk (h : s.MemOk) (xs : List α) (at_ : α → List (Nat × Nat)) : (s.bundleOrder xs at_).2.MemOk := by
  unfold State.bundleOrder
  grind [State.shuffle_memOk]
theorem State.writePieces_memOk (h : s.MemOk) (hr : Here) (site : Site) (data : Nat) (ps : List Piece) : (s.writePieces hr site data ps).MemOk := by
  induction ps generalizing s data with
  | nil => exact h
  | cons p ps ih =>
    refine Acc.bind_memOk (State.drainFor_memOk h ..) fun t _ ht => ?_
    grind [State.writeN_memOk, State.noteFailure_memOk, Acc.MemOk, Acc.memOk_of_ok]
theorem State.planStore_memOk (h : s.MemOk) (hr : Here) (v : View) (x : List LaneOut × List StoreOp) (l : Nat) : (s.planStore hr v x l).MemOk := by
  unfold State.planStore
  grind [State.transPieces_memOk, State.accessTrap_memOk, Acc.MemOk, Acc.bind_memOk]
theorem State.planAtom_memOk (h : s.MemOk) (hr : Here) (v : View) (x : List LaneOut × List AtomOp) (l : Nat) : (s.planAtom hr v x l).MemOk := by
  unfold State.planAtom
  grind [State.transPieces_memOk, State.accessTrap_memOk, Acc.MemOk, Acc.bind_memOk]
theorem State.doAtoms_memOk (h : s.MemOk) (hr : Here) (v : View) (xs : List AtomOp) : (s.doAtoms hr v xs).MemOk := by
  unfold State.doAtoms
  grind [State.drainFor_memOk, State.rmwN_memOk, State.noteFailure_memOk, Acc.MemOk, Acc.bind_memOk, foldl_acc_memOk]
theorem State.cleanL1_memOk (h : s.MemOk) (k c : Nat) : (s.cleanL1 k c).MemOk := by
  unfold State.cleanL1
  grind [State.setHome_memOk, State.setL1_memOk, State.roomL2_memOk]
theorem State.cleanHome_memOk (h : s.MemOk) (k : Nat) : (s.cleanHome k).MemOk := by
  unfold State.cleanHome
  grind [State.evictL2_memOk, State.writeBack_memOk]

-- ---------------------------------------------------------------------------------------------
-- The memory instructions, and the events of their landings and waits (Sys2Proof/Machine/MemOps.lean)

theorem State.load_memOk (h : s.MemOk) (v : View) : OutcomeMemOk (s.load v) :=
  State.flightInstr_memOk h _ _ _ _ fun _ _ t ht => by
    grind [State.foldLanes_memOk, State.loadLane_memOk, State.addLoad_memOk, Acc.MemOk, Acc.bind_memOk]
theorem execSt_memOk (h : s.MemOk) (a : Args) : OutcomeMemOk (execSt a s) :=
  State.flightInstr_memOk h _ _ _ _ fun _ _ t ht => by
    grind [State.writePieces_memOk, State.foldLanes_memOk, State.bundleOrder_memOk, State.planStore_memOk, State.release_memOk, Acc.MemOk, Acc.bind_memOk, foldl_acc_memOk]
theorem State.loadSpad_memOk (h : s.MemOk) (v : View) : OutcomeMemOk (s.loadSpad v) :=
  State.flightInstr_memOk h _ _ _ _ fun _ _ t ht => by
    grind [State.addLoad_memOk, Acc.MemOk]
theorem State.onBlock_memOk (h : s.MemOk) (c key : Nat) (f : Block → Block) : (s.onBlock c key f).MemOk := by
  unfold State.onBlock
  split <;> exact h
theorem execSts_memOk (h : s.MemOk) (a : Args) : OutcomeMemOk (execSts a s) :=
  State.flightInstr_memOk h _ _ _ _ fun _ _ t ht => by
    grind [State.bundleOrder_memOk, State.onBlock_memOk, Acc.MemOk, foldl_memOk]
theorem State.loadConst_memOk (h : s.MemOk) (v : View) : OutcomeMemOk (s.loadConst v) :=
  State.flightInstr_memOk h _ _ _ _ fun _ _ t ht => by
    grind [State.addLoad_memOk, Acc.MemOk]
theorem execLdt_memOk (h : s.MemOk) (a : Args) : OutcomeMemOk (execLdt a s) :=
  State.flightInstr_memOk h _ _ _ _ fun _ _ t ht => by
    grind [State.addLoad_memOk, Acc.MemOk]
theorem State.atomics_memOk (h : s.MemOk) (hr : Here) (g : W32) (v : View) : (s.atomics hr g v).MemOk := by
  unfold State.atomics
  grind [State.foldLanes_memOk, State.planAtom_memOk, State.doAtoms_memOk, State.bundleOrder_memOk, State.release_memOk, Acc.MemOk, Acc.bind_memOk]
theorem execAtom_memOk (h : s.MemOk) (a : Args) : OutcomeMemOk (execAtom a s) :=
  State.flightInstr_memOk h _ _ _ _ fun _ _ t ht => by
    grind [State.atomics_memOk, State.addLoad_memOk, Acc.MemOk, Acc.bind_memOk]
theorem execRed_memOk (h : s.MemOk) (a : Args) : OutcomeMemOk (execRed a s) :=
  State.flightInstr_memOk h _ _ _ _ fun _ _ t ht => by
    grind [State.atomics_memOk, State.acquireBy_memOk, Acc.MemOk, Acc.bind_memOk]
theorem State.doSpadAtom_memOk (h : s.MemOk) (v : View) (x : SpadAtom) : (s.doSpadAtom v x).1.MemOk := by
  unfold State.doSpadAtom
  grind [State.setBlock_memOk]
theorem execAtoms_memOk (h : s.MemOk) (a : Args) : OutcomeMemOk (execAtoms a s) := by
  refine State.flightInstr_memOk h _ _ _ _ fun hr g t ht => ?_
  split
  refine Acc.bind_memOk ?_ fun u _ hu => ?_
  · split
    · exact State.release_memOk ht ..
    · exact ht
  · split
    rename_i ops w ew
    have hw : w.MemOk := by grind [State.bundleOrder_memOk]
    exact State.addLoad_memOk (foldl_fst_memOk (x := (w, [])) (fun x i hx => State.doSpadAtom_memOk hx ..) hw) ..
theorem execFence_memOk (h : s.MemOk) (a : Args) : OutcomeMemOk (execFence a s) :=
  State.flightInstr_memOk h _ _ _ _ fun _ _ t ht => by
    grind [State.acquireBy_memOk, State.release_memOk, Acc.MemOk, Acc.bind_memOk]
theorem State.maintSector_memOk (h : s.MemOk) (hr : Here) (v : View) (inv : Bool) (func sec : Nat) : (s.maintSector hr v inv func sec).MemOk := by
  unfold State.maintSector
  grind [State.recallFrom_memOk, State.drainFor_memOk, State.cleanHome_memOk, State.setHome_memOk, State.dropL1_memOk, State.cleanL1_memOk, Acc.MemOk, Acc.bind_memOk]
theorem State.maintPages_memOk (h : s.MemOk) (hr : Here) (v : View) (inv : Bool) (l : Nat) (ps : List (W64 × Nat)) :
    (s.maintPages hr v inv l ps).MemOk := by
  induction ps generalizing s with
  | nil => exact h
  | cons p ps ih =>
    obtain ⟨va, n⟩ := p
    have ht := State.translate_memOk h hr.c hr.f.ctx va .read
    unfold State.maintPages
    split
    · trivial
    · grind [State.accessTrap_memOk]
    · grind [State.accessTrap_memOk]
    · exact Acc.bind_memOk (foldl_bind_memOk (fun t _ sec ht => State.maintSector_memOk ht ..) (by grind [Acc.MemOk])) fun t _ ht => ih ht
theorem State.maintain_memOk (h : s.MemOk) (v : View) (scps : List Nat) (inv : Bool) : OutcomeMemOk (s.maintain v scps inv) :=
  State.flightInstr_memOk h _ _ _ _ fun _ _ t ht => by
    grind [State.overLanes_memOk, State.maintPages_memOk, Acc.MemOk, Acc.bind_memOk]
theorem State.cdiscPages_memOk (h : s.MemOk) (hr : Here) (l : Nat) (secs : List Nat) (ps : List (W64 × Nat)) :
    (s.cdiscPages hr l secs ps).MemOk := by
  induction ps generalizing s secs with
  | nil => exact h
  | cons p ps ih =>
    unfold State.cdiscPages
    grind [State.translate_memOk, State.lantern_memOk, Acc.MemOk, Acc.bind_memOk]
theorem State.discardSector_memOk (h : s.MemOk) (k : Nat) : (s.discardSector k).MemOk := by
  unfold State.discardSector
  grind [State.setHome_memOk, State.dropL1_memOk, foldl_memOk]
theorem execCdisc_memOk (h : s.MemOk) (a : Args) : OutcomeMemOk (execCdisc a s) :=
  State.flightInstr_memOk h _ _ _ _ fun _ _ t ht => by
    grind [State.drainFor_memOk, State.discardSector_memOk, State.cdiscPages_memOk, Acc.MemOk, Acc.bind_memOk, foldl_memOk, foldl_acc_memOk]
theorem State.prefLane_memOk (h : s.MemOk) (hr : Here) (v : View) (l : Nat) : (s.prefLane hr v l).MemOk := by
  unfold State.prefLane
  split
  split
  · exact h
  · have ht := fun va => State.translate_memOk h hr.c hr.f.ctx va .read
    split
    · trivial
    · grind [Acc.MemOk]
    · grind [Acc.MemOk]
    · refine Acc.bind_memOk (foldl_bind_memOk (fun u _ j hu => ?_) ?_) fun t _ ht => ht
      · grind [State.readCls_memOk, State.readyHome_memOk, State.fillHome_memOk, Acc.MemOk, Acc.memOk_of_ok]
      · grind [Acc.MemOk]
theorem State.prefetch_memOk (h : s.MemOk) (v : View) : OutcomeMemOk (s.prefetch v) :=
  State.flightInstr_memOk h _ _ _ _ fun _ _ t ht => by
    grind [State.prefLane_memOk, State.overLanes_memOk, Acc.MemOk, Acc.bind_memOk]
theorem State.monwRead_memOk (h : s.MemOk) (c : Nat) (f : Flight) (site : Site) (ty : Ty) (va : W64) (p : Piece) (cmp : Nat) (expired : Bool) :
    (s.monwRead c f site ty va p cmp expired).MemOk := by
  unfold State.monwRead
  grind [State.readPieces_memOk, Acc.MemOk]
theorem State.monwLane_memOk (h : s.MemOk) (hr : Here) (v : View) (lpc : W57) (x : LoadAcc) (l : Nat) : (s.monwLane hr v lpc x l).MemOk := by
  unfold State.monwLane
  extract_lets a cmp lim
  split
  · exact h
  · split
    · exact h
    · refine Acc.bind_memOk (State.transPieces_memOk h ..) fun t tr ht => ?_
      grind [State.deferAt_memOk, State.monwRead_memOk, Acc.bind_memOk, Acc.MemOk]
theorem execMonw_memOk (h : s.MemOk) (a : Args) : OutcomeMemOk (execMonw a s) :=
  State.flightInstr_memOk h _ _ _ _ fun _ _ t ht => by
    grind [State.foldLanes_memOk, State.addLoad_memOk, State.monwLane_memOk, Acc.MemOk, Acc.bind_memOk]
theorem State.monwAgain_memOk (h : s.MemOk) (c fid l : Nat) : (s.monwAgain c fid l).MemOk := by
  unfold State.monwAgain
  split
  · exact h
  · rename_i f _
    split
    · extract_lets ty expired p go
      have hg : ∀ t res, t.MemOk → (go t res).MemOk := by
        intro t res ht
        unfold go
        split
        · exact ht
        · exact State.addLoad_memOk (State.setFlight_memOk ht ..) _ _ _ _
      clear_value go
      grind [State.transPieces_memOk, State.monwRead_memOk, State.request_memOk, Acc.memOk_of_ok]
    · exact h
theorem State.mergeWcb_memOk (h : s.MemOk) (hr : Here) (x : StoreOp) (p : Piece) : (s.mergeWcb hr x p).MemOk := by
  unfold State.mergeWcb
  grind [State.drainFor_memOk, State.setCore_memOk, Acc.MemOk]
theorem execRst_memOk (h : s.MemOk) (a : Args) : OutcomeMemOk (execRst a s) :=
  State.flightInstr_memOk h _ _ _ _ fun _ _ t ht => by
    grind [State.writePieces_memOk, State.foldLanes_memOk, State.bundleOrder_memOk, State.planStore_memOk, State.mergeWcb_memOk, Acc.MemOk, Acc.bind_memOk, foldl_acc_memOk]
theorem execWcfl_memOk (h : s.MemOk) (a : Args) : OutcomeMemOk (execWcfl a s) :=
  State.flightInstr_memOk h _ _ _ _ fun _ _ t ht => by
    grind [State.drainWcb_memOk, Acc.MemOk, Acc.bind_memOk]
theorem State.replayLoad_memOk (h : s.MemOk) (hr : Here) (i : Instr) (lpc : W57) (l : Nat) : (s.replayLoad hr i lpc l).MemOk := by
  unfold State.replayLoad
  grind [State.loadLane_memOk, State.addLoad_memOk, State.monwLane_memOk, Acc.MemOk, Acc.bind_memOk]
theorem State.replayLane_memOk (h : s.MemOk) (hr : Here) (v : View) (l : Nat) : (s.replayLane hr v l).MemOk := by
  unfold State.replayLane
  grind [State.acquire_memOk, State.replayLoad_memOk, State.fetch_memOk, Acc.MemOk]
theorem execReplay_memOk (h : s.MemOk) (a : Args) : OutcomeMemOk (execReplay a s) :=
  State.flightInstr_memOk h _ _ _ _ fun _ _ t ht => by
    grind [State.replayLane_memOk, State.overLanes_memOk, Acc.MemOk, Acc.bind_memOk]
theorem State.landLong_memOk (h : s.MemOk) (c fid id : Nat) : (s.landLong c fid id).MemOk := by
  unfold State.landLong
  grind [State.setFlight_memOk]
theorem execStoreFailure_memOk (h : s.MemOk) (i : Nat) : OutcomeMemOk (execStoreFailure i s) := by
  unfold execStoreFailure
  grind [State.request_memOk, State.reportFailure_memOk, OutcomeMemOk, Acc.memOk_of_ok, State.MemOk]
theorem execSleepExpiry_memOk (h : s.MemOk) (core fid lane : Nat) : OutcomeMemOk (execSleepExpiry core fid lane s) := by
  unfold execSleepExpiry
  grind [State.setFlight_memOk, OutcomeMemOk]
theorem execMonwTimeout_memOk (h : s.MemOk) (core fid lane : Nat) : OutcomeMemOk (execMonwTimeout core fid lane s) := by
  unfold execMonwTimeout
  grind [State.monwAgain_memOk, OutcomeMemOk]
theorem execWcbDrainTimeout_memOk (h : s.MemOk) (core i : Nat) : OutcomeMemOk (execWcbDrainTimeout core i s) := by
  unfold execWcbDrainTimeout
  grind [State.setCore_memOk, State.request_memOk, State.drainEntry_memOk, OutcomeMemOk, Acc.memOk_of_ok]

-- ---------------------------------------------------------------------------------------------
-- Flight-wide instructions and the events of the slots (Sys2Proof/Machine/FlightWide.lean)

theorem State.afterFlight_memOk (o : Host.Outcome State Fault Refusal) (f : State → Nat → Nat → State) (ho : OutcomeMemOk o)
    (hf : ∀ t c fid, t.MemOk → (f t c fid).MemOk) : OutcomeMemOk (s.afterFlight o f) := by
  cases o with
  | next t => exact hf _ _ _ ho
  | fault r => trivial
  | refused r => trivial
theorem State.kmov_memOk (h : s.MemOk) (v : View) : OutcomeMemOk (s.kmov v) :=
  State.flightInstr_memOk h _ _ _ _ fun _ _ t ht => by
    grind [Acc.MemOk]
theorem execRcv_memOk (h : s.MemOk) (a : Args) : OutcomeMemOk (execRcv a s) := by
  unfold execRcv
  grind [State.setFlight_memOk, State.flightInstr_memOk, State.afterFlight_memOk, Acc.MemOk]
theorem execAlloc_memOk (h : s.MemOk) (a : Args) : OutcomeMemOk (execAlloc a s) :=
  State.flightInstr_memOk h _ _ _ _ fun _ _ t ht => by
    grind [State.grantBlock_memOk, State.raiseAllot_memOk, Acc.MemOk]
theorem execFree_memOk (h : s.MemOk) (a : Args) : OutcomeMemOk (execFree a s) :=
  State.flightInstr_memOk h _ _ _ _ fun _ _ t ht => by
    grind [State.releaseSpad_memOk, State.setFlight_memOk, State.setBlock_memOk, Acc.MemOk]
theorem execFlightOverdue_memOk (h : s.MemOk) (core fid : Nat) : OutcomeMemOk (execFlightOverdue core fid s) := by
  unfold execFlightOverdue
  grind [State.setFlight_memOk, OutcomeMemOk]
theorem execThreadAged_memOk (h : s.MemOk) (core fid lane : Nat) : OutcomeMemOk (execThreadAged core fid lane s) := by
  unfold execThreadAged
  grind [State.setFlight_memOk, OutcomeMemOk]

-- ---------------------------------------------------------------------------------------------
-- Barriers and arrivals (Sys2Proof/Machine/BarrierOps.lean)

theorem execBar_memOk (h : s.MemOk) (a : Args) : OutcomeMemOk (execBar a s) := by
  unfold execBar
  grind [State.barCheck_memOk, State.setBlock_memOk, State.flightInstr_memOk, State.afterFlight_memOk, State.release_memOk, Acc.MemOk, Acc.bind_memOk]
theorem execCbar_memOk (h : s.MemOk) (a : Args) : OutcomeMemOk (execCbar a s) := by
  unfold execCbar
  grind [State.cbarCheck_memOk, State.flightInstr_memOk, State.afterFlight_memOk, State.release_memOk, Acc.MemOk, Acc.bind_memOk, State.MemOk]
theorem State.eachCb_memOk (h : s.MemOk) (hr : Here) (v : View) (amt : Bool) (g : W32) (f : State → Nat → Nat → W32 → Acc LaneOut)
    (hf : ∀ t l n x, t.MemOk → (f t l n x).MemOk) : (s.eachCb hr v amt g f).MemOk := by
  refine Acc.bind_memOk (State.overLanes_memOk h _ _ _ fun t _ l ht => ?_) fun t _ ht => ht
  split
  · exact ht
  · exact Acc.bind_memOk (hf _ _ _ _ ht) fun u _ hu => hu
theorem State.cbArm_memOk (h : s.MemOk) (hr : Here) (v : View) (l n : Nat) (x : W32) : (s.cbArm hr v l n x).MemOk := by
  unfold State.cbArm
  grind [State.setCb_memOk, State.cbUpdate_memOk, Acc.MemOk]
theorem State.cbAdd_memOk (h : s.MemOk) (hr : Here) (l n : Nat) (x : W32) : (s.cbAdd hr l n x).MemOk := by
  unfold State.cbAdd
  grind [State.cbUpdate_memOk, State.release_memOk, Acc.MemOk, Acc.bind_memOk]
theorem execCbwait_memOk (h : s.MemOk) (a : Args) : OutcomeMemOk (execCbwait a s) :=
  State.flightInstr_memOk h _ _ _ _ fun _ _ t ht => by
    grind [State.acquireBy_memOk, State.eachCb_memOk, Acc.MemOk]
theorem execCbacq_memOk (h : s.MemOk) (a : Args) : OutcomeMemOk (execCbacq a s) :=
  State.flightInstr_memOk h _ _ _ _ fun _ _ t ht => by
    grind [State.cbZero_memOk, State.setCb_memOk, State.acquireBy_memOk, State.eachCb_memOk, Acc.MemOk]
theorem execCbread_memOk (h : s.MemOk) (a : Args) : OutcomeMemOk (execCbread a s) :=
  State.flightInstr_memOk h _ _ _ _ fun _ _ t ht => by
    grind [State.eachCb_memOk, Acc.MemOk]
theorem State.arrive_memOk (h : s.MemOk) (c cb ctx launch : Nat) (amount : Int) : (s.arrive c cb ctx launch amount).MemOk := by
  unfold State.arrive
  grind [State.cbUpdate_memOk, Arrived.MemOk]
theorem execRemoteArrival_memOk (h : s.MemOk) (core cb ctx launch : Nat) (amount : BitVec 32) : OutcomeMemOk (execRemoteArrival core cb ctx launch amount s) := by
  unfold execRemoteArrival
  grind [State.arrive_memOk, State.emit_memOk, OutcomeMemOk, Arrived.memOk_of_applied, State.MemOk]
theorem execArrivalRetry_memOk (h : s.MemOk) (i : Nat) : OutcomeMemOk (execArrivalRetry i s) := by
  unfold execArrivalRetry
  grind [State.arrive_memOk, State.emit_memOk, OutcomeMemOk, State.MemOk, Arrived.MemOk]

-- ---------------------------------------------------------------------------------------------
-- The constant bank (Sys2Proof/Machine/Bank.lean)

theorem State.readBank_memOk (h : s.MemOk) (node : Node) : (s.readBank node).1.MemOk := by
  unfold State.readBank
  grind [State.readBytes_memOk]
theorem State.refillBank_memOk (h : s.MemOk) (l : Nat) : (s.refillBank l).MemOk := by
  unfold State.refillBank
  grind [State.readBank_memOk, State.trapContext_memOk, Acc.MemOk, State.MemOk]

-- ---------------------------------------------------------------------------------------------
-- Which instruction issues next (Sys2Proof/Machine/Issue.lean)

theorem State.fetchFrom_memOk (h : s.MemOk) (c ctx : Nat) (pc : W57) (k n : Nat) (acc : List W96) : (s.fetchFrom c ctx pc k n acc).1.MemOk := by
  induction n generalizing s k acc with
  | zero => exact h
  | succ n ih =>
    have hf := State.fetch_memOk h c ctx (pc + BitVec.ofNat 57 (12 * k))
    unfold State.fetchFrom
    grind
theorem State.fetchRun_memOk (h : s.MemOk) (c ctx : Nat) (pc : W57) : (s.fetchRun c ctx pc).1.MemOk := by
  unfold State.fetchRun
  grind [State.fetch_memOk, State.fetchFrom_memOk]
theorem State.fetchFault_memOk (h : s.MemOk) (c fid : Nat) (exec : W32) (pc : W57) (k : Nat) (e : Fetch) : (s.fetchFault c fid exec pc k e).MemOk := by
  unfold State.fetchFault
  grind [State.request_memOk, State.trapContext_memOk, State.takeTrap_memOk, State.lantern_memOk, Acc.bind_memOk, foldl_acc_memOk, Acc.MemOk]
theorem State.issued_memOk (h : s.MemOk) (c slot : Nat) (w : W96) : (s.issued c slot w).MemOk := h
theorem State.choiceMade_memOk (h : s.MemOk) (c slot : Nat) : (s.choiceMade c slot).MemOk := h
theorem State.illegalMember_memOk (h : s.MemOk) : s.illegalMember.MemOk := by
  unfold State.illegalMember
  grind [State.finishMember_memOk]
theorem State.resumeRun_memOk (h : s.MemOk) (c fid : Nat) (f : Flight) : (s.resumeRun c fid f).MemOk := by
  unfold State.resumeRun
  grind [State.setFlight_memOk, State.issued_memOk, Prep.MemOk, State.MemOk]
theorem State.bankReady_memOk (h : s.MemOk) (launch : Nat) (ws : List W96) : (s.bankReady launch ws).1.MemOk := by
  unfold State.bankReady
  grind [State.request_memOk, State.refillBank_memOk, Acc.memOk_of_ok]
theorem State.startRun_memOk (h : s.MemOk) (c slot : Nat) : (s.startRun c slot).MemOk := by
  unfold State.startRun
  split
  · exact h
  · extract_lets t u
    have ht : u.MemOk := State.choiceMade_memOk h c slot
    clear_value u
    split
    split
    · exact ht
    · split
      · exact State.setFlight_memOk ht ..
      · extract_lets pc bad
        split
        · exact foldl_memOk (fun _ _ hu => State.trapContext_memOk hu ..) ht
        · have hf := fun a b => State.fetchRun_memOk ht c a b
          have hb := fun (u : State) (hu : u.MemOk) a b => State.bankReady_memOk hu a b
          split
          · grind [State.request_memOk, Prep.MemOk]
          · grind [State.fetchFault_memOk, Prep.MemOk]
          · grind [State.issued_memOk, State.setFlight_memOk, State.illegalMember_memOk, Prep.MemOk]
theorem State.prepareSlot_memOk (h : s.MemOk) (c slot : Nat) : (s.prepareSlot c slot).MemOk := by
  unfold State.prepareSlot
  grind [State.startRun_memOk, State.resumeRun_memOk, State.pick_memOk, Prep.MemOk]
theorem State.prepareEngine_memOk (h : s.MemOk) (c e : Nat) : (s.prepareEngine c e).MemOk := by
  unfold State.prepareEngine
  grind [State.setCore_memOk, State.engFault_memOk, State.request_memOk, State.trapContext_memOk, State.bankReady_memOk, State.fetch_memOk, State.lantern_memOk,
    Prep.MemOk, Acc.memOk_of_ok, State.MemOk]
theorem State.illegalEngine_memOk (h : s.MemOk) : s.illegalEngine.MemOk := State.engFault_memOk h ..

-- ---------------------------------------------------------------------------------------------
-- The exact accumulator (Sys2Proof/Machine/PackedOps.lean)

theorem State.lanewise_memOk (h : s.MemOk) (v : View) (o : OpSpec) (f : Here → Nat → LaneRes) : OutcomeMemOk (s.lanewise v o f) :=
  State.flightInstr_memOk h _ _ _ _ fun _ _ t ht => by
    grind [Acc.MemOk]

-- ---------------------------------------------------------------------------------------------
-- The press (Sys2Proof/Machine/PressOps.lean)

theorem State.grantPress_memOk (h : s.MemOk) (c fid : Nat) (pair : Bool) : (s.grantPress c fid pair).1.MemOk := by
  unfold State.grantPress
  grind [State.setPress_memOk]
theorem State.servePress_memOk (h : s.MemOk) (c : Nat) : (s.servePress c).MemOk := by
  unfold State.servePress
  grind [State.grantPress_memOk, State.setFlight_memOk]
theorem State.serveClaim_memOk (h : s.MemOk) (c : Nat) : (s.serveClaim c).MemOk := by
  unfold State.serveClaim
  grind [State.setPress_memOk, State.setFlight_memOk]
theorem State.endPress_memOk (h : s.MemOk) (c : Nat) : (s.endPress c).MemOk := by
  unfold State.endPress
  grind [State.settlePress_memOk, State.releaseSpad_memOk]
theorem State.pressIssue_memOk (h : s.MemOk) (v : View) (o : OpSpec) (op : (Src → Nat) → Option PressOp) : OutcomeMemOk (s.pressIssue v o op) := by
  refine State.flightInstr_memOk h _ _ _ _ fun hr g t ht => ?_
  grind [Acc.MemOk, State.setPress_memOk, State.setFlight_memOk]
theorem execMxacq_memOk (h : s.MemOk) (a : Args) : OutcomeMemOk (execMxacq a s) :=
  State.flightInstr_memOk h _ _ _ _ fun _ _ t ht => by
    grind [State.grantPress_memOk, State.setPress_memOk, Acc.MemOk]
theorem State.pressDrain_memOk (h : s.MemOk) (v : View) (rel : Bool) : OutcomeMemOk (s.pressDrain v rel) :=
  State.flightInstr_memOk h _ _ _ _ fun _ _ t ht => by
    grind [State.setPress_memOk, State.endPress_memOk, Acc.MemOk]
theorem execMxzero_memOk (h : s.MemOk) (a : Args) : OutcomeMemOk (execMxzero a s) := State.pressIssue_memOk h ..
theorem execMxldz_memOk (h : s.MemOk) (a : Args) : OutcomeMemOk (execMxldz a s) := by
  unfold execMxldz
  grind [State.pressIssue_memOk]
theorem execMxstz_memOk (h : s.MemOk) (a : Args) : OutcomeMemOk (execMxstz a s) := by
  unfold execMxstz
  grind [State.pressIssue_memOk]
theorem execMxstzReg_memOk (h : s.MemOk) (a : Args) : OutcomeMemOk (execMxstzReg a s) := by
  unfold execMxstzReg
  grind [State.pressIssue_memOk]
theorem State.performPress_memOk (h : s.MemOk) (c : Nat) : (s.performPress c).MemOk := by
  unfold State.performPress
  grind [State.setPress_memOk, State.setBlock_memOk, State.endPress_memOk, State.MemOk]
theorem State.landPress_memOk (h : s.MemOk) (c : Nat) : (s.landPress c).MemOk := by
  unfold State.landPress
  grind [State.setPress_memOk, State.setFlight_memOk, State.endPress_memOk]

-- ---------------------------------------------------------------------------------------------
-- Forks and the racking processor (Sys2Proof/Machine/Engine.lean)

theorem execRfork_memOk (h : s.MemOk) (a : Args) : OutcomeMemOk (execRfork a s) :=
  State.flightInstr_memOk h _ _ _ _ fun _ _ t ht => by
    grind [State.setEng_memOk, State.setCore_memOk, State.release_memOk, Acc.MemOk, Acc.bind_memOk]
theorem State.joinLane_memOk (h : s.MemOk) (hr : Here) (v : View) (l : Nat) : (s.joinLane hr v l).1.MemOk := by
  unfold State.joinLane
  grind [State.acquireBy_memOk]
theorem execRjoin_memOk (h : s.MemOk) (a : Args) : OutcomeMemOk (execRjoin a s) :=
  State.flightInstr_memOk h _ _ _ _ fun _ _ t ht => by
    grind [State.overLanes_memOk, State.joinLane_memOk, Acc.MemOk, Acc.bind_memOk]
/-- Every instruction of an engine keeps canonical memory where its body does. -/
theorem State.engInstr_memOk (h : s.MemOk) (v : View) (o : OpSpec) (body : Nat → Nat → Eng → State) (hb : ∀ c e g, (body c e g).MemOk) :
    OutcomeMemOk (s.engInstr v o body) := by
  unfold State.engInstr
  grind [State.flightInstr_memOk, State.engFault_memOk, OutcomeMemOk, Acc.MemOk]
theorem State.engAlu_memOk (h : s.MemOk) (v : View) (o : OpSpec) (f : W64 → W64 → W64) : OutcomeMemOk (s.engAlu v o f) :=
  State.engInstr_memOk h _ _ _ fun c e g => by
    grind [State.setEng_memOk]
theorem execEmov_memOk (h : s.MemOk) (a : Args) : OutcomeMemOk (execEmov a s) := State.engAlu_memOk h ..
theorem execEmovi_memOk (h : s.MemOk) (a : ArgsI) : OutcomeMemOk (execEmovi a s) := by
  unfold execEmovi
  grind [State.engInstr_memOk, State.setEng_memOk]
theorem State.engJump_memOk (h : s.MemOk) (c e : Nat) (g : Eng) (t : W64) : (s.engJump c e g t).MemOk := by
  unfold State.engJump
  grind [State.setEng_memOk, State.engFault_memOk]
theorem State.engBr_memOk (h : s.MemOk) (v : View) : OutcomeMemOk (s.engBr v) :=
  State.engInstr_memOk h _ _ _ fun c e g => by
    grind [State.setEng_memOk, State.engJump_memOk]
theorem State.engJmp_memOk (h : s.MemOk) (v : View) : OutcomeMemOk (s.engJmp v) :=
  State.engInstr_memOk h _ _ _ fun c e g => by
    grind [State.engJump_memOk]
theorem State.engLoop_memOk (h : s.MemOk) (v : View) : OutcomeMemOk (s.engLoop v) :=
  State.engInstr_memOk h _ _ _ fun c e g => by
    grind [State.setEng_memOk, State.engJump_memOk]
theorem Acc.ebind_memOk {x : Acc (ERes α)} {f : State → α → Acc (ERes β)} (hx : x.MemOk) (hf : ∀ t a, t.MemOk → (f t a).MemOk) :
    (x.ebind f).MemOk :=
  Acc.bind_memOk hx fun t r ht => by
    cases r with
    | ok y => exact hf t y ht
    | fault e => exact ht
    | lost k st g => exact ht
theorem State.engTranslate_memOk (h : s.MemOk) (c ctx : Nat) (va : W64) (wrt : Bool) : (s.engTranslate c ctx va wrt).MemOk := by
  unfold State.engTranslate
  grind [State.translate_memOk, State.routeHere_memOk, Acc.MemOk, Acc.bind_memOk]
theorem State.engRead_memOk (h : s.MemOk) (c e space : Nat) (site : Site) (ok : Owner → Bool) (a : W64) (n : Nat) : (s.engRead c e space site ok a n).MemOk := by
  unfold State.engRead
  grind [Acc.ebind_memOk, State.passOwner_memOk, State.readCls_memOk, State.engTranslate_memOk, Acc.MemOk]
theorem State.engAccess_memOk (h : s.MemOk) (c e : Nat) (wrt : Bool) (r : Acc (ERes α)) (f : State → α → State) (hr : r.MemOk)
    (hf : ∀ t x, t.MemOk → (f t x).MemOk) : (s.engAccess c e wrt r f).MemOk := by
  cases r with
  | wait n => exact State.request_memOk h n
  | bad k st => exact h
  | ok t x =>
    have ht := hr
    cases x with
    | ok y => exact hf t y ht
    | fault y => exact State.engFault_memOk ht c e y
    | lost k st g => exact ht
theorem State.engLoadOp_memOk (h : s.MemOk) (v : View) : OutcomeMemOk (s.engLoadOp v) :=
  State.engInstr_memOk h _ _ _ fun c e g => by
    grind [State.acquire_memOk, State.engAccess_memOk, State.engRead_memOk, State.setEng_memOk, State.engFault_memOk]
theorem execEngineLoadLanding_memOk (h : s.MemOk) (core eng : Nat) : OutcomeMemOk (execEngineLoadLanding core eng s) := by
  unfold execEngineLoadLanding
  grind [State.setEng_memOk, OutcomeMemOk]
theorem State.engWrite_memOk (h : s.MemOk) (c e : Nat) (sp : Bool) (scp : Nat) (a : W64) (n x : Nat) : (s.engWrite c e sp scp a n x).MemOk := by
  unfold State.engWrite
  grind [State.setBlock_memOk, Acc.ebind_memOk, State.writeN_memOk, State.engTranslate_memOk, Acc.MemOk]
theorem execEst_memOk (h : s.MemOk) (a : Args) : OutcomeMemOk (execEst a s) := by
  unfold execEst
  grind [State.engAccess_memOk, State.engInstr_memOk, State.engWrite_memOk, State.setEng_memOk, State.release_memOk, Acc.MemOk, Acc.bind_memOk]
theorem execWsetLd_memOk (h : s.MemOk) (a : Args) : OutcomeMemOk (execWsetLd a s) := by
  unfold execWsetLd
  grind [State.engAccess_memOk, State.engInstr_memOk, State.engRead_memOk, State.setEng_memOk, State.engFault_memOk]
theorem execWset_memOk (h : s.MemOk) (a : Args) : OutcomeMemOk (execWset a s) := by
  unfold execWset
  grind [State.engInstr_memOk, State.setEng_memOk]
theorem execWstep_memOk (h : s.MemOk) (a : Args) : OutcomeMemOk (execWstep a s) := by
  unfold execWstep
  grind [State.engInstr_memOk, State.setEng_memOk, State.engFault_memOk]
theorem execEcbadd_memOk (h : s.MemOk) (a : Args) : OutcomeMemOk (execEcbadd a s) := by
  unfold execEcbadd
  grind [State.engInstr_memOk, State.setEng_memOk, State.cbUpdate_memOk, State.engFault_memOk, State.request_memOk, State.release_memOk, Acc.memOk_of_ok]
theorem execEcbwait_memOk (h : s.MemOk) (a : Args) : OutcomeMemOk (execEcbwait a s) := by
  unfold execEcbwait
  grind [State.acquire_memOk, State.engInstr_memOk, State.setEng_memOk, State.engFault_memOk]
theorem execEfence_memOk (h : s.MemOk) (a : Args) : OutcomeMemOk (execEfence a s) := by
  unfold execEfence
  grind [State.acquire_memOk, State.engInstr_memOk, State.setEng_memOk, State.request_memOk, State.release_memOk, Acc.memOk_of_ok]
theorem execEend_memOk (h : s.MemOk) (a : Args) : OutcomeMemOk (execEend a s) := by
  unfold execEend
  grind [State.engInstr_memOk, State.releaseSpad_memOk, State.setEng_memOk, State.request_memOk, State.joinRelease_memOk, State.release_memOk, Acc.memOk_of_ok]

-- ---------------------------------------------------------------------------------------------
-- Transfers of the racking processor (Sys2Proof/Machine/Transfer.lean)

theorem State.takeOwner_memOk (h : s.MemOk) (func gpa : Nat) (o : Owner) (full : Bool) : (s.takeOwner func gpa o full).MemOk := by
  unfold State.takeOwner
  grind [State.dropOthers_memOk, State.recall_memOk, State.setHome_memOk, State.writeBack_memOk, State.readyHome_memOk, State.emit_memOk, Acc.MemOk]
theorem State.takeOwners_memOk (h : s.MemOk) (c e slot ctx : Nat) (t : Transfer) (ps : List (Nat × PSrc)) : (s.takeOwners c e slot ctx t ps).MemOk := by
  refine foldl_bind_memOk (fun u m x hu => ?_) h
  split
  · refine Acc.bind_memOk (State.engTranslate_memOk hu ..) fun u r hu => ?_
    split
    · exact Acc.bind_memOk (State.takeOwner_memOk hu ..) fun u _ hu => hu
    · exact hu
  · exact hu
theorem State.readElem_memOk (h : s.MemOk) (c e seq : Nat) (w : BitVec 512) (m : Nat) : (s.readElem c e seq w m).MemOk := by
  unfold State.readElem
  grind [State.engRead_memOk, Acc.ebind_memOk, Acc.MemOk]
theorem State.readElems_memOk (h : s.MemOk) (c e seq : Nat) (w : BitVec 512) (ms : List Nat) : (s.readElems c e seq w ms).MemOk := by
  unfold State.readElems
  grind [Acc.ebind_memOk, State.readElem_memOk, Acc.MemOk, foldl_acc_memOk]
theorem State.orLost_memOk (c flight ctx : Nat) (r : Acc (ERes α)) (hr : r.MemOk) : (State.orLost c flight ctx r).MemOk := by
  refine Acc.bind_memOk hr fun t x ht => ?_
  cases x with
  | ok y => exact ht
  | fault e => exact ht
  | lost k st g => exact ht
theorem State.makeBrick_memOk (h : s.MemOk) (c e : Nat) (t : Transfer) (n : Nat) : (s.makeBrick c e t n).MemOk := by
  unfold State.makeBrick
  grind [Acc.ebind_memOk, State.readElems_memOk, State.readElem_memOk, Acc.MemOk, foldl_acc_memOk]
theorem State.makeBlock_memOk (h : s.MemOk) (c e : Nat) (t : Transfer) (b : Nat) : (s.makeBlock c e t b).MemOk := by
  unfold State.makeBlock
  grind [Acc.ebind_memOk, State.readElems_memOk, Acc.MemOk]
theorem State.kept_memOk (h : s.MemOk) (c : Nat) (g : Eng) (t : Transfer) (no key : Nat) (make : State → Acc (ERes (List (Nat × Nat))))
    (hm : ∀ t, t.MemOk → (make t).MemOk) : (s.kept c g t no key make).MemOk := by
  unfold State.kept
  dsimp only
  split
  · exact h
  · exact Acc.ebind_memOk (State.orLost_memOk _ _ _ _ (hm s h)) fun t _ ht => ht
theorem State.readIndex_memOk (h : s.MemOk) (c e : Nat) (g : Eng) (t : Transfer) (j : Nat) : (s.readIndex c e g t j).MemOk := by
  unfold State.readIndex
  grind [Acc.ebind_memOk, State.orLost_memOk, State.readElem_memOk, Acc.MemOk]
theorem State.withIndex_memOk (h : s.MemOk) (c e slot : Nat) (g : Eng) (t : Transfer) : (s.withIndex c e slot g t).MemOk := by
  unfold State.withIndex
  grind [State.takeOwners_memOk, Acc.ebind_memOk, State.readIndex_memOk, Acc.MemOk, Acc.bind_memOk]
theorem State.pieceVals_memOk (h : s.MemOk) (c e : Nat) (g : Eng) (t : Transfer) (p : PSrc) : (s.pieceVals c e g t p).MemOk := by
  unfold State.pieceVals
  grind [Acc.ebind_memOk, State.kept_memOk, State.makeBrick_memOk, State.orLost_memOk, State.readElems_memOk, State.makeBlock_memOk, Acc.MemOk, foldl_acc_memOk]
theorem State.destPlace_memOk (h : s.MemOk) (c : Nat) (g : Eng) (t : Transfer) (p : PSrc) : (s.destPlace c g t p).MemOk := by
  unfold State.destPlace
  grind [Acc.ebind_memOk, State.engTranslate_memOk, Acc.MemOk]
theorem State.blockFault_memOk (h : s.MemOk) (c : Nat) (g : Eng) (t : Transfer) (p : PSrc) : (s.blockFault c g t p).MemOk := by
  unfold State.blockFault
  grind [Acc.ebind_memOk, State.destPlace_memOk, Acc.MemOk, foldl_acc_memOk]
theorem State.placePiece_memOk (h : s.MemOk) (c e slot : Nat) (g : Eng) (t : Transfer) (p : PSrc) (xs : List (Nat × Nat)) : (s.placePiece c e slot g t p xs).MemOk := by
  unfold State.placePiece
  grind [State.takeOwner_memOk, Acc.ebind_memOk, State.destPlace_memOk, Acc.MemOk, Acc.bind_memOk]
theorem State.readPiece_memOk (h : s.MemOk) (c e slot : Nat) : (s.readPiece c e slot).MemOk := by
  unfold State.readPiece
  extract_lets g
  split
  · exact h
  · split
    · exact h
    · refine Acc.ebind_memOk (State.withIndex_memOk h ..) fun t tr ht => ?_
      split
      · exact ht
      · exact Acc.ebind_memOk (State.blockFault_memOk ht ..) fun t _ ht => Acc.ebind_memOk (State.pieceVals_memOk ht ..) fun t _ ht =>
          Acc.ebind_memOk (State.placePiece_memOk ht ..) fun t _ ht => State.setEng_memOk ht ..
theorem State.landPiece_memOk (h : s.MemOk) (c e slot k : Nat) : (s.landPiece c e slot k).MemOk := by
  unfold State.landPiece
  grind [State.landCap_memOk, State.request_memOk, State.trapContext_memOk, Acc.memOk_of_ok]
theorem execPieceLand_memOk (h : s.MemOk) (core eng slot k : Nat) : OutcomeMemOk (execPieceLand core eng slot k s) := by
  unfold execPieceLand
  grind [State.trapEngine_memOk, State.clearFailed_memOk, State.readPiece_memOk, State.request_memOk, State.landPiece_memOk, OutcomeMemOk, Acc.memOk_of_ok, State.MemOk]
theorem State.tregPend_memOk (h : s.MemOk) (g : Eng) (t : Transfer) : (s.tregPend g t).MemOk := by
  unfold State.tregPend
  split <;> exact h
theorem State.issueTransfer_memOk (h : s.MemOk) (a : Args) (o : OpSpec) (op : Nat) (wa wb wc : Src) (scal : Option Src) :
    OutcomeMemOk (s.issueTransfer a o op wa wb wc scal) :=
  State.engInstr_memOk h _ _ _ fun c e g => by
    grind [State.takeOwners_memOk, State.setEng_memOk, State.request_memOk, State.tregPend_memOk, OutcomeMemOk, Acc.MemOk, memOk_of_next, Acc.memOk_of_ok, foldl_memOk,
      foldl_acc_memOk, foldl_fst_memOk, State.MemOk]

-- ---------------------------------------------------------------------------------------------
-- Registers and lantern records (Sys2Proof/Machine/System.lean)

theorem State.sysInstr_memOk (h : s.MemOk) (v : View) (o : OpSpec) (body : Here → W32 → State → Acc Outs)
    (hb : ∀ hr g t, t.MemOk → (body hr g t).MemOk) : OutcomeMemOk (s.sysInstr v o body) :=
  State.flightInstr_memOk h v o _ body hb
theorem State.dropTlb_memOk (h : s.MemOk) (ctx : Nat) (p : TlbE → Bool) : (s.dropTlb ctx p).MemOk := h
theorem State.readSlot_memOk (h : s.MemOk) (c q : Nat) : (s.readSlot c q).1.MemOk := by
  unfold State.readSlot
  grind [State.lookSec_memOk, Acc.memOk_of_ok]
theorem State.writeSlot_memOk (h : s.MemOk) (c q byte : Nat) : (s.writeSlot c q byte).MemOk := by
  unfold State.writeSlot
  grind [State.writeAtHome_memOk, Acc.MemOk]
theorem State.lanternIdle_memOk (h : s.MemOk) (c : Nat) : (s.lanternIdle c).MemOk := by
  unfold State.lanternIdle
  grind [State.readSlot_memOk, Acc.MemOk, Acc.bind_memOk, foldl_acc_memOk]
theorem State.flushL1_memOk (h : s.MemOk) (c : Nat) : (s.flushL1 c).MemOk := by
  unfold State.flushL1
  grind [State.recallFrom_memOk, State.setHome_memOk, State.dropL1_memOk, foldl_memOk]
theorem State.writeRetire_memOk (h : s.MemOk) (d : Nat) (ret : BitVec 34) : (s.writeRetire d ret).MemOk := by
  unfold State.writeRetire
  grind [State.flushL1_memOk, State.setDie_memOk, State.setCore_memOk, foldl_memOk]
theorem State.setSpk_memOk (h : s.MemOk) (c spk : Nat) : (s.setSpk c spk).MemOk := by
  unfold State.setSpk
  grind [State.flushL1_memOk, State.setCore_memOk]
theorem State.writeGov_memOk (h : s.MemOk) (y : Nat) : (s.writeGov y).MemOk := h
theorem State.dieWrite_memOk (h : s.MemOk) (d reg : Nat) (y : W64) : ∀ t, s.dieWrite d reg y = some t → t.MemOk := by
  unfold State.dieWrite
  grind [State.writeGov_memOk, State.setDie_memOk, State.writeRetire_memOk]
theorem State.writeTranslation_memOk (h : s.MemOk) (c reg : Nat) (y : W64) : (s.writeTranslation c reg y).1.MemOk := by
  unfold State.writeTranslation
  grind [State.dropTlb_memOk, State.setCtx_memOk]
theorem State.ctxWrite_memOk (h : s.MemOk) (c reg : Nat) (y : W64) : (s.ctxWrite c reg y).MemOk := by
  unfold State.ctxWrite
  grind [State.writeTranslation_memOk, State.lanternIdle_memOk, State.setCtx_memOk, Acc.MemOk, Acc.bind_memOk]
theorem State.csrWrite_memOk (h : s.MemOk) (own x : Nat) (y : W64) : (s.csrWrite own x y).MemOk := by
  unfold State.csrWrite
  grind [State.setSpk_memOk, State.setCore_memOk, State.dieWrite_memOk, State.ctxWrite_memOk, Acc.MemOk]
theorem execCsrr_memOk (h : s.MemOk) (a : Args) : OutcomeMemOk (execCsrr a s) :=
  State.sysInstr_memOk h _ _ _ fun _ _ t ht => by
    grind [Acc.MemOk]
theorem execCsrw_memOk (h : s.MemOk) (a : Args) : OutcomeMemOk (execCsrw a s) :=
  State.sysInstr_memOk h _ _ _ fun _ _ t ht => by
    grind [State.csrWrite_memOk, Acc.MemOk, Acc.bind_memOk]
theorem execTlbinv_memOk (h : s.MemOk) (a : Args) : OutcomeMemOk (execTlbinv a s) :=
  State.sysInstr_memOk h _ _ _ fun _ _ t ht => by
    grind [State.acquire_memOk, State.dropTlb_memOk, State.release_memOk, Acc.MemOk, Acc.bind_memOk]
theorem State.lqPop_memOk (h : s.MemOk) (c : Nat) : (s.lqPop c).MemOk := by
  unfold State.lqPop
  grind [State.readSlot_memOk, State.writeSlot_memOk, State.trapContext_memOk, State.setCtx_memOk, Acc.MemOk, Acc.bind_memOk]
theorem State.resolveEngine_memOk (h : s.MemOk) (c seq core e cause : Nat) (rfs : Bool) : (s.resolveEngine c seq core e cause rfs).MemOk := by
  unfold State.resolveEngine
  grind [State.releaseSpad_memOk, State.setEng_memOk, State.joinRelease_memOk]
theorem State.applyOutcome_memOk (h : s.MemOk) (c recd : Nat) (rfs : Bool) : (s.applyOutcome c recd rfs).MemOk := by
  unfold State.applyOutcome
  grind [State.resolveEngine_memOk, State.MemOk]
theorem State.lqDone_memOk (h : s.MemOk) (c : Nat) (handle : W64) (rfs : Bool) : (s.lqDone c handle rfs).MemOk := by
  unfold State.lqDone
  grind [State.readSlot_memOk, State.writeSlot_memOk, State.trapContext_memOk, State.applyOutcome_memOk, Acc.MemOk, Acc.bind_memOk]
theorem execLqpop_memOk (h : s.MemOk) (a : Args) : OutcomeMemOk (execLqpop a s) :=
  State.sysInstr_memOk h _ _ _ fun _ _ t ht => by
    grind [State.acquire_memOk, State.lqPop_memOk, Acc.MemOk, Acc.bind_memOk]
theorem execLqdone_memOk (h : s.MemOk) (a : Args) : OutcomeMemOk (execLqdone a s) :=
  State.sysInstr_memOk h _ _ _ fun _ _ t ht => by
    grind [State.lqDone_memOk, State.release_memOk, Acc.MemOk, Acc.bind_memOk]
theorem State.finish_memOk (h : s.MemOk) (r : Acc α) (f : State → α → State) (hr : r.MemOk) (hf : ∀ t x, t.MemOk → (f t x).MemOk) :
    OutcomeMemOk (s.finish r f) := by
  cases r with
  | ok t x => exact hf t x hr
  | bad k st => exact h
  | wait n => exact State.request_memOk h n
theorem execVfLqpop_memOk (h : s.MemOk) (vf : Nat) : OutcomeMemOk (execVfLqpop vf s) := by
  unfold execVfLqpop
  grind [State.finish_memOk, State.lqPop_memOk, State.emit_memOk, OutcomeMemOk]
theorem State.vfDone_memOk (h : s.MemOk) (vf : Nat) (handle : W64) (rfs : Bool) : OutcomeMemOk (s.vfDone vf handle rfs) := by
  unfold State.vfDone
  grind [State.finish_memOk, State.setVf_memOk, State.lqDone_memOk, OutcomeMemOk]
theorem execCoreSramWrite_memOk (h : s.MemOk) (core : Nat) (value : BitVec 64) : OutcomeMemOk (execCoreSramWrite core value s) := by
  unfold execCoreSramWrite
  grind [State.setSpk_memOk, OutcomeMemOk]
theorem execCtxTranslationWrite_memOk (h : s.MemOk) (ctx reg : Nat) (value : BitVec 64) : OutcomeMemOk (execCtxTranslationWrite ctx reg value s) := by
  unfold execCtxTranslationWrite
  grind [State.writeTranslation_memOk, OutcomeMemOk]
theorem execDieRetireWrite_memOk (h : s.MemOk) (die : Nat) (value : BitVec 64) : OutcomeMemOk (execDieRetireWrite die value s) := by
  unfold execDieRetireWrite
  grind [State.writeRetire_memOk, OutcomeMemOk]
theorem execDieGovWrite_memOk (h : s.MemOk) (die : Nat) (value : BitVec 64) : OutcomeMemOk (execDieGovWrite die value s) := by
  unfold execDieGovWrite
  split <;> exact h
theorem execRegisterWrite_memOk (h : s.MemOk) (reg : RegRef) (value : BitVec 64) : OutcomeMemOk (execRegisterWrite reg value s) := by
  unfold execRegisterWrite
  grind [State.csrWrite_memOk, State.finish_memOk, State.setVf_memOk, OutcomeMemOk, State.MemOk]

-- ---------------------------------------------------------------------------------------------
-- Saving and restoring a context (Sys2Proof/Machine/Contexts.lean)

theorem State.stopCtx_memOk (h : s.MemOk) (ctx : Nat) : (s.stopCtx ctx).MemOk := by
  unfold State.stopCtx
  grind [State.stopEngines_memOk, State.stopHolds_memOk, State.trapContext_memOk, State.preemptRuns_memOk, foldl_memOk]
theorem State.releaseCtx_memOk (h : s.MemOk) (ctx : Nat) : (s.releaseCtx ctx).MemOk := by
  unfold State.releaseCtx
  grind [State.flushRemote_memOk, State.drainWcb_memOk, Acc.MemOk, Acc.bind_memOk, foldl_acc_memOk, State.MemOk]
theorem State.writeImage_memOk (h : s.MemOk) (func gpa n : Nat) (bs : List Byte) : (s.writeImage func gpa n bs).MemOk := by
  induction n generalizing s gpa bs with
  | zero => exact h
  | succ n ih =>
    unfold State.writeImage
    grind [State.writeAtCtl_memOk, Acc.MemOk, Acc.memOk_of_ok]
theorem State.readImage_memOk (h : s.MemOk) (func gpa fuel n : Nat) (acc : List Byte) : (s.readImage func gpa fuel n acc).MemOk := by
  induction fuel generalizing s gpa n acc with
  | zero => exact h
  | succ fuel ih =>
    unfold State.readImage
    grind [State.readAtCtl_memOk, Acc.MemOk, Acc.memOk_of_ok]
theorem State.freeCore_memOk (h : s.MemOk) (ctx c : Nat) : (s.freeCore ctx c).MemOk := by
  unfold State.freeCore
  split <;> exact h
theorem State.freeCtx_memOk (h : s.MemOk) (ctx : Nat) : (s.freeCtx ctx).MemOk := by
  unfold State.freeCtx
  grind [State.freeCore_memOk, foldl_memOk, State.MemOk]
theorem State.placeCore_memOk (h : s.MemOk) (ctx : Nat) (x : SavedCore) : (s.placeCore ctx x).MemOk := by
  unfold State.placeCore
  grind [State.setSpk_memOk, State.setCore_memOk, State.MemOk]
theorem State.applyHeld_memOk (h : s.MemOk) (ctx : Nat) : (s.applyHeld ctx).MemOk := by
  unfold State.applyHeld
  grind [State.readSlot_memOk, State.writeSlot_memOk, State.applyOutcome_memOk, Acc.MemOk, Acc.bind_memOk, foldl_acc_memOk]
theorem State.discardLaunches_memOk (h : s.MemOk) (ctx : Nat) : (s.discardLaunches ctx).MemOk := h
theorem State.discardNodes_memOk (h : s.MemOk) (ctx : Nat) : (s.discardNodes ctx).MemOk := h
theorem State.clearCtx_memOk (h : s.MemOk) (ctx : Nat) : (s.clearCtx ctx).MemOk := by
  unfold State.clearCtx
  grind [State.drainWcb_memOk, State.stopCtx_memOk, State.freeCtx_memOk, State.setCtx_memOk, State.discardLaunches_memOk, Acc.MemOk, Acc.bind_memOk, foldl_acc_memOk]
theorem State.dropCtx_memOk (h : s.MemOk) (ctx : Nat) : (s.dropCtx ctx).MemOk := by
  unfold State.dropCtx
  grind [State.clearCtx_memOk, State.discardNodes_memOk, Acc.MemOk, Acc.bind_memOk]
theorem State.orAgain_memOk (h : s.MemOk) (g : W32) (r : Acc Outs) (hr : r.MemOk) : (s.orAgain g r).MemOk := by
  cases r with
  | ok t x => exact hr
  | bad k st => trivial
  | wait n => exact State.request_memOk h n
theorem State.saveImage_memOk (h : s.MemOk) (ctx g lim : Nat) : (s.saveImage ctx g lim).MemOk := by
  unfold State.saveImage
  grind [State.releaseCtx_memOk, State.freeCtx_memOk, State.trapContext_memOk, State.writeImage_memOk, State.setCtx_memOk, Acc.MemOk, Acc.bind_memOk, State.MemOk]
theorem execCtxsave_memOk (h : s.MemOk) (a : Args) : OutcomeMemOk (execCtxsave a s) :=
  State.sysInstr_memOk h _ _ _ fun _ _ t ht => by
    grind [State.acquire_memOk, State.saveImage_memOk, State.stopCtx_memOk, State.orAgain_memOk, State.setCtx_memOk, State.release_memOk, Acc.MemOk, Acc.bind_memOk]
theorem execCtxsaveDrop_memOk (h : s.MemOk) (a : Args) : OutcomeMemOk (execCtxsaveDrop a s) :=
  State.sysInstr_memOk h _ _ _ fun _ _ t ht => by
    grind [State.dropCtx_memOk, Acc.MemOk, Acc.bind_memOk]
theorem State.readSaved_memOk (h : s.MemOk) (ctx gpa : Nat) : (s.readSaved ctx gpa).MemOk := by
  refine Acc.bind_memOk (State.readImage_memOk h ..) fun t hd ht => ?_
  cases hd with
  | none => exact ht
  | some hb =>
    refine Acc.bind_memOk (State.readImage_memOk ht ..) fun u all hu => ?_
    grind [Acc.MemOk]
theorem State.loadImage_memOk (h : s.MemOk) (ctx : Nat) (im : Image) : (s.loadImage ctx im).MemOk := by
  unfold State.loadImage
  grind [State.placeCore_memOk, State.applyHeld_memOk, State.setCtx_memOk, Acc.MemOk, Acc.bind_memOk, foldl_memOk, State.MemOk]
theorem execCtxload_memOk (h : s.MemOk) (a : Args) : OutcomeMemOk (execCtxload a s) :=
  State.sysInstr_memOk h _ _ _ fun _ _ t ht => by
    grind [State.acquire_memOk, State.postEvent_memOk, State.readSaved_memOk, State.orAgain_memOk, State.loadImage_memOk, State.setCtx_memOk, State.release_memOk,
      Acc.MemOk, Acc.bind_memOk]
theorem execCtxloadRes_memOk (h : s.MemOk) (a : Args) : OutcomeMemOk (execCtxloadRes a s) :=
  State.sysInstr_memOk h _ _ _ fun _ _ t ht => by
    grind [State.setCtx_memOk, Acc.MemOk]

-- ---------------------------------------------------------------------------------------------
-- Reads through another package (Sys2Proof/Machine/Reads.lean)

theorem State.rangeTargets_memOk (h : s.MemOk) (ctx : Nat) (va : W64) (len : Nat) : (s.rangeTargets ctx va len).MemOk := by
  unfold State.rangeTargets
  grind [State.dieTranslate_memOk, Acc.MemOk, Acc.bind_memOk, foldl_acc_memOk]

-- ---------------------------------------------------------------------------------------------
-- Nodes, dispatch, admission and completion (Sys2Proof/Machine/Trellis.lean)

theorem State.inPart_memOk (h : s.MemOk) (p : Nat) (f : Part → Part) : (s.inPart p f).MemOk := h
theorem State.decrement_memOk (h : s.MemOk) (p id : Nat) : (s.decrement p id).MemOk := by
  unfold State.decrement
  grind [State.setPart_memOk, State.inPart_memOk, State.MemOk]
theorem State.doneStore_memOk (h : s.MemOk) (ctx : Nat) (va : W64) (x : Nat) : (s.doneStore ctx va x).MemOk := by
  unfold State.doneStore
  grind [State.trapContext_memOk, State.writeAtCtl_memOk, State.dieTranslate_memOk, State.lantern_memOk, Acc.MemOk, Acc.bind_memOk]
theorem State.doneWrite_memOk (h : s.MemOk) (ctx : Nat) (va : W64) (x : Nat) : (s.doneWrite ctx va x).MemOk := by
  unfold State.doneWrite
  grind [State.doneStore_memOk, State.releaseCtx_memOk, Acc.MemOk, Acc.bind_memOk]
theorem State.nodeComplete_memOk (h : s.MemOk) (p id : Nat) : (s.nodeComplete p id).MemOk := by
  unfold State.nodeComplete
  grind [State.doneWrite_memOk, State.inPart_memOk, State.decrement_memOk, Acc.MemOk, Acc.bind_memOk, foldl_memOk]
theorem State.postTable_memOk (h : s.MemOk) (r : Nat) : ∀ t, s.postTable r = .inl t → t.1.MemOk := by
  unfold State.postTable
  grind [State.readPgt_memOk]
theorem State.postDesc_memOk (h : s.MemOk) (r : Nat) : ∀ t, s.postDesc r = .inl t → t.1.MemOk := by
  unfold State.postDesc
  grind [State.readBytes_memOk]
theorem State.postNode_memOk (h : s.MemOk) (own : Nat) (va : W64) : (s.postNode own va).MemOk := by
  have hb := State.readBytes_memOk h own va 256
  unfold State.postNode
  extract_lets fail
  have hfail : ∀ t code, t.MemOk → (fail t code).MemOk := fun t code ht => ht
  clear_value fail
  split
  · trivial
  · grind
  · grind
  · rename_i t r heq
    have ht : t.MemOk := by grind
    have h1 := State.postTable_memOk ht r
    split
    · exact hfail t _ ht
    · split
      · exact hfail t _ ht
      · split
        · exact hfail t _ ht
        · extract_lets x
          split
          · exact hfail t _ ht
          · split
            · exact hfail t _ ht
            · split
              · trivial
              · exact hfail _ _ (h1 _ ‹_›)
              · have h2 := State.postDesc_memOk (h1 _ ‹_›) r
                split
                · trivial
                · exact hfail _ _ (h2 _ ‹_›)
                · exact h2 _ ‹_›
theorem execTgpost_memOk (h : s.MemOk) (a : Args) : OutcomeMemOk (execTgpost a s) :=
  State.sysInstr_memOk h _ _ _ fun _ _ t ht => by
    grind [State.acquire_memOk, State.postNode_memOk, State.release_memOk, Acc.MemOk, Acc.bind_memOk]
theorem execTgdone_memOk (h : s.MemOk) (a : Args) : OutcomeMemOk (execTgdone a s) :=
  State.sysInstr_memOk h _ _ _ fun _ _ t ht => by
    grind [State.nodeComplete_memOk, State.release_memOk, Acc.MemOk, Acc.bind_memOk]
theorem execSliceExpiry_memOk (h : s.MemOk) (part : Nat) : OutcomeMemOk (execSliceExpiry part s) := by
  unfold execSliceExpiry
  grind [State.setPart_memOk, State.postEvent_memOk, OutcomeMemOk, foldl_memOk]
theorem State.takeCore_memOk (h : s.MemOk) (l : Nat) (la : Launch) (home c : Nat) : (s.takeCore l la home c).MemOk := State.setSpk_memOk h ..
theorem State.placeBlock_memOk (h : s.MemOk) (l : Nat) (la : Launch) (block group member : Nat) (u : List Nat) :
    (s.placeBlock l la block group member u).MemOk := by
  unfold State.placeBlock
  extract_lets home t owner r
  have ht : t.MemOk := foldl_memOk (fun w c hw => State.takeCore_memOk hw ..) h
  have hr : r.1.MemOk := foldl_fst_memOk (fun x o hx => State.setCore_memOk hx ..) ht
  exact State.setCore_memOk hr ..
theorem State.placeAll_memOk (h : s.MemOk) (l : Nat) (la : Launch) (group : Nat) (units : List (List Nat)) (ms : List (Nat × Nat)) :
    ∀ t, s.placeAll l la group units ms = some t → t.1.MemOk := by
  induction ms generalizing s with
  | nil => rintro t ⟨⟩; exact h
  | cons m ms ih =>
    unfold State.placeAll
    grind [State.placeBlock_memOk]
theorem State.fitNext_memOk (h : s.MemOk) (l : Nat) (la : Launch) : ∀ t, s.fitNext l la = some t → t.1.MemOk := by
  intro t e
  obtain ⟨z, _, hz⟩ := List.exists_of_findSome?_eq_some e
  exact State.placeAll_memOk h _ _ _ _ _ t hz
theorem State.admitNext_memOk (h : s.MemOk) (l : Nat) : ∀ t, s.admitNext l = some t → t.MemOk := by
  have hn := fun la => State.fitNext_memOk h l la
  unfold State.admitNext
  grind [State.takeCore_memOk, foldl_memOk, State.setCtx_memOk, State.MemOk]
theorem execBlockAdmit_memOk (h : s.MemOk) (launch : Nat) : OutcomeMemOk (execBlockAdmit launch s) := by
  unfold execBlockAdmit
  split
  · exact h
  · split
    · rcases ha : s.admitNext launch with _ | t
      · exact h
      · exact State.admitNext_memOk h launch t ha
    · exact h
theorem State.homeDieOf_memOk (h : s.MemOk) (r : Nat) : (s.homeDieOf r).MemOk := by
  unfold State.homeDieOf
  grind [State.rangeTargets_memOk, Acc.MemOk, Acc.bind_memOk, foldl_acc_memOk]
theorem State.poolOf_memOk (h : s.MemOk) (ctx : Nat) (t : W64 × Nat) : (s.poolOf ctx t).MemOk := by
  unfold State.poolOf
  grind [State.dieTranslate_memOk, Acc.MemOk, Acc.bind_memOk, foldl_acc_memOk]
theorem State.shipTo_memOk (h : s.MemOk) (p : Nat) (node : Node) : (s.shipTo p node).MemOk := by
  unfold State.shipTo
  grind [State.readPgt_memOk, State.poolOf_memOk, Acc.MemOk, Acc.bind_memOk, foldl_acc_memOk]
theorem State.sendPacket_memOk (h : s.MemOk) (pkg ctx : Nat) (handle : W64) (desc : BitVec 512) (args : List W32) (launch : Option Nat) (node : Option (Nat × Nat)) :
    (s.sendPacket pkg ctx handle desc args launch node).MemOk := h
theorem State.enterLaunch_memOk (h : s.MemOk) (la : Launch) : (s.enterLaunch la).MemOk := by
  unfold State.enterLaunch
  grind [State.setCore_memOk, State.setCtx_memOk, foldl_memOk, State.MemOk]
theorem State.goingOf_memOk (h : s.MemOk) (p id : Nat) (node : Node) : (s.goingOf p id node).MemOk := by
  unfold State.goingOf
  grind [State.shipTo_memOk, State.homeDieOf_memOk, Acc.MemOk, Acc.bind_memOk]
theorem State.firstGoing_memOk (h : s.MemOk) (p : Nat) (ns : List (Nat × Node)) : (s.firstGoing p ns).MemOk := by
  induction ns generalizing s with
  | nil => exact h
  | cons n ns ih =>
    obtain ⟨id, node⟩ := n
    refine Acc.bind_memOk (State.goingOf_memOk h p id node) fun t g ht => ?_
    cases g with
    | some g => exact ht
    | none => exact ih ht
theorem State.shipNode_memOk (h : s.MemOk) (part id : Nat) (node : Node) (bank k : Nat) (handle : W64) : (s.shipNode part id node bank k handle).MemOk := by
  unfold State.shipNode
  grind [State.inPart_memOk, State.sendPacket_memOk, State.trapContext_memOk]
theorem execNodeDispatch_memOk (h : s.MemOk) (part : Nat) : OutcomeMemOk (execNodeDispatch part s) := by
  unfold execNodeDispatch
  grind [State.firstGoing_memOk, State.readBank_memOk, State.inPart_memOk, State.shipNode_memOk, State.request_memOk, State.trapContext_memOk, State.enterLaunch_memOk,
    OutcomeMemOk, Acc.memOk_of_ok]
theorem State.endLaunch_memOk (h : s.MemOk) (l : Nat) (la : Launch) : (s.endLaunch l la).MemOk := by
  unfold State.endLaunch
  grind [State.setCtx_memOk, State.leaveCores_memOk, State.MemOk]
theorem execLaunchComplete_memOk (h : s.MemOk) (launch : Nat) : OutcomeMemOk (execLaunchComplete launch s) := by
  unfold execLaunchComplete
  grind [State.finish_memOk, State.endLaunch_memOk, State.nodeComplete_memOk, OutcomeMemOk]
theorem execRootProgramStart_memOk (h : s.MemOk) (part : Nat) : OutcomeMemOk (execRootProgramStart part s) := by
  unfold execRootProgramStart
  grind [State.clearCtx_memOk, State.readGpa_memOk, State.inPart_memOk, State.finish_memOk, State.request_memOk, State.enterLaunch_memOk, OutcomeMemOk, Acc.MemOk, State.MemOk]
theorem execEventSlotFreed_memOk (h : s.MemOk) (ring : Nat) : OutcomeMemOk (execEventSlotFreed ring s) := by
  unfold execEventSlotFreed
  grind [State.retryRing_memOk, OutcomeMemOk]
theorem execEventRingRetry_memOk (h : s.MemOk) (ring : Nat) : OutcomeMemOk (execEventRingRetry ring s) := by
  unfold execEventRingRetry
  grind [State.retryRing_memOk, OutcomeMemOk]

-- ---------------------------------------------------------------------------------------------
-- Commands of the hypervisor (Sys2Proof/Machine/Hypervisor.lean)

theorem State.answer_memOk (h : s.MemOk) (func code index : Nat) (arg : BitVec 512) (result : Nat) : (s.answer func code index arg result).MemOk := h
theorem State.answerKeep_memOk (h : s.MemOk) (func code index result : Nat) : (s.answerKeep func code index result).MemOk := h
theorem State.command_memOk (h : s.MemOk) (func : Nat) (i : Nat × Nat × BitVec 512) (go : Host.Outcome State Fault Refusal) (hg : OutcomeMemOk go) :
    OutcomeMemOk (s.command func i go) := by
  unfold State.command
  split
  · exact hg
  · exact h
theorem State.setBusy_memOk (h : s.MemOk) (func : Nat) (i : Nat × Nat × BitVec 512) : (s.setBusy func i).MemOk := h
theorem State.complete_memOk (h : s.MemOk) (func : Nat) (i : Nat × Nat × BitVec 512) (r : Acc α) (f : State → α → State) (hr : r.MemOk)
    (hf : ∀ t x, t.MemOk → (f t x).MemOk) : OutcomeMemOk (s.complete func i r f) := by
  cases r with
  | ok t x => exact hf t x hr
  | bad k st => exact h
  | wait n => exact State.setBusy_memOk (State.request_memOk h n) ..
theorem State.newKey_memOk (h : s.MemOk) (c : Nat) : (s.newKey c).MemOk := h
theorem State.setRingAt_memOk (h : s.MemOk) (key func base size : Nat) : (s.setRingAt key func base size).MemOk := State.retryRing_memOk (State.setRing_memOk h ..) ..
theorem execPartSet_memOk (h : s.MemOk) (index : Nat) (arg : BitVec 512) : OutcomeMemOk (execPartSet index arg s) := by
  unfold execPartSet
  grind [State.answer_memOk, State.setPart_memOk, State.setRingAt_memOk, State.command_memOk, State.newKey_memOk, OutcomeMemOk]
theorem execVfSet_memOk (h : s.MemOk) (index : Nat) (arg : BitVec 512) : OutcomeMemOk (execVfSet index arg s) := by
  unfold execVfSet
  grind [State.answer_memOk, State.command_memOk, State.setVf_memOk, OutcomeMemOk, State.MemOk]
theorem execWayMaskWrite_memOk (h : s.MemOk) (vf : Nat) (mask : BitVec 32) : OutcomeMemOk (execWayMaskWrite vf mask s) := by
  unfold execWayMaskWrite
  split <;> exact h
theorem State.flushRange_memOk (h : s.MemOk) (func lo hi : Nat) : (s.flushRange func lo hi).MemOk := by
  unfold State.flushRange
  grind [State.evictL2_memOk, State.dropOthers_memOk, State.recall_memOk, State.setHome_memOk, State.setCore_memOk, State.writeBack_memOk, State.drainEntry_memOk,
    State.emit_memOk, Acc.MemOk, Acc.bind_memOk, foldl_memOk, foldl_acc_memOk, State.MemOk]
theorem State.snoopOut_memOk (h : s.MemOk) (func sec a : Nat) (link : Bool) : (s.snoopOut func sec a link).MemOk := by
  unfold State.snoopOut
  grind [State.unanswered_memOk, Acc.MemOk]
theorem State.flipBack_memOk (h : s.MemOk) (p : Nat × PageMode) : (s.flipBack p).MemOk := by
  unfold State.flipBack
  grind [State.dropOthers_memOk, State.recall_memOk, State.snoopOut_memOk, Acc.MemOk, Acc.bind_memOk, foldl_memOk, foldl_acc_memOk, State.MemOk]
theorem State.markPages_memOk (h : s.MemOk) (ps : List (Nat × PageMode)) : (s.markPages ps).MemOk := h
theorem State.snoopRange_memOk (h : s.MemOk) (func : Nat) (e : Extent) : (s.snoopRange func e).MemOk := by
  unfold State.snoopRange
  grind [Acc.MemOk, State.MemOk]
theorem State.leaveExtent_memOk (h : s.MemOk) (func : Nat) (e : Extent) : (s.leaveExtent func e).MemOk := by
  unfold State.leaveExtent
  grind [State.snoopRange_memOk, State.flushRange_memOk, State.flipBack_memOk, Acc.MemOk, Acc.bind_memOk, foldl_acc_memOk]
theorem State.freeKey_memOk (h : s.MemOk) (k : Nat) : (s.freeKey k).MemOk := h
/-- Freshness (R347) drops the cells of a range and adds none. -/
theorem State.makeFresh_memOk (h : s.MemOk) (pbase bytes : Nat) : (s.makeFresh pbase bytes).MemOk := by
  obtain ⟨hm, hf⟩ := h
  exact ⟨Memory.wf_filter _ _ hm, hf⟩
theorem State.grant_memOk (h : s.MemOk) (func idx : Nat) (e : Extent) (key : Nat) : (s.grant func idx e key).MemOk := by
  unfold State.grant
  grind [State.leaveExtent_memOk, State.flushRange_memOk, State.freeKey_memOk, State.makeFresh_memOk, Acc.MemOk, Acc.bind_memOk, State.MemOk]
theorem State.leave_memOk (h : s.MemOk) (func idx : Nat) : (s.leave func idx).MemOk := by
  unfold State.leave
  grind [State.markPages_memOk, State.MemOk]
theorem State.left_memOk (h : s.MemOk) (func idx : Nat) : (s.left func idx).MemOk := h
theorem execExtAdd_memOk (h : s.MemOk) (index : Nat) (arg : BitVec 512) : OutcomeMemOk (execExtAdd index arg s) := by
  unfold execExtAdd
  grind [State.answer_memOk, State.leave_memOk, State.command_memOk, State.left_memOk, State.complete_memOk, State.grant_memOk, OutcomeMemOk]
theorem execExtDel_memOk (h : s.MemOk) (index : Nat) (arg : BitVec 512) : OutcomeMemOk (execExtDel index arg s) := by
  unfold execExtDel
  grind [State.answer_memOk, State.leave_memOk, State.command_memOk, State.left_memOk, State.complete_memOk, State.leaveExtent_memOk, State.freeKey_memOk, OutcomeMemOk,
    State.MemOk]
theorem State.evtSet_memOk (h : s.MemOk) (func code : Nat) (arg : BitVec 512) : OutcomeMemOk (s.evtSet func code arg) := by
  unfold State.evtSet
  grind [State.answer_memOk, State.setRingAt_memOk, State.command_memOk, OutcomeMemOk]
theorem execVfEvtSet_memOk (h : s.MemOk) (vf : Nat) (arg : BitVec 512) : OutcomeMemOk (execVfEvtSet vf arg s) := by
  unfold execVfEvtSet
  grind [State.evtSet_memOk, OutcomeMemOk]
theorem State.closeCtx_memOk (h : s.MemOk) (c : Nat) : (s.closeCtx c).MemOk := by
  unfold State.closeCtx
  grind [State.freeSector_memOk, State.setCtx_memOk, State.discardLaunches_memOk, foldl_memOk, State.MemOk]
theorem execCtxOpen_memOk (h : s.MemOk) (vf : Nat) : OutcomeMemOk (execCtxOpen vf s) := by
  unfold execCtxOpen
  grind [State.answer_memOk, State.command_memOk, State.newKey_memOk, State.answerKeep_memOk, State.dropTlb_memOk, State.setCtx_memOk, OutcomeMemOk]
theorem execCtxClose_memOk (h : s.MemOk) (vf index : Nat) : OutcomeMemOk (execCtxClose vf index s) := by
  unfold execCtxClose
  grind [State.closeCtx_memOk, State.command_memOk, State.answerKeep_memOk, State.setBusy_memOk, OutcomeMemOk]
theorem execCtxKill_memOk (h : s.MemOk) (index : Nat) : OutcomeMemOk (execCtxKill index s) := by
  unfold execCtxKill
  grind [State.closeCtx_memOk, State.command_memOk, State.answerKeep_memOk, State.complete_memOk, State.dropCtx_memOk, State.setBusy_memOk, OutcomeMemOk]
theorem execMailboxUnknownCode_memOk (h : s.MemOk) (func code index : Nat) : OutcomeMemOk (execMailboxUnknownCode func code index s) := by
  unfold execMailboxUnknownCode
  grind [State.answerKeep_memOk, OutcomeMemOk]

-- ---------------------------------------------------------------------------------------------
-- The host's side (Sys2Proof/Machine/Host.lean)

theorem State.inHostPort_memOk (h : s.MemOk) (n : Nat) (f : Port → Port) : (s.inHostPort n f).MemOk := by
  unfold State.inHostPort
  split <;> exact h
theorem State.refused_memOk (h : s.MemOk) (n : Nat) : (s.refused n).MemOk := State.inHostPort_memOk h ..
theorem State.poisonRx_memOk (h : s.MemOk) (n : Nat) : (s.poisonRx n).MemOk := State.inHostPort_memOk h ..
theorem State.setPort_memOk (h : s.MemOk) (r : PortRef) (p : Port) : (s.setPort r p).MemOk := by
  unfold State.setPort
  grind [State.setDie_memOk, State.inHostPort_memOk]
theorem State.hostRead_memOk (h : s.MemOk) (func sec a key : Nat) (mv : MetaValue) : (s.hostRead func sec a key mv).1.MemOk := by
  unfold State.hostRead
  grind [State.dropOthers_memOk, State.recall_memOk, State.setHome_memOk, State.fillHome_memOk]
theorem execHostMemrd_memOk (h : s.MemOk) (port : Nat) (addr : BitVec 64) (mv : MetaValue) : OutcomeMemOk (execHostMemrd port addr mv s) := by
  unfold execHostMemrd
  grind [State.refused_memOk, State.hostRead_memOk, State.emit_memOk, OutcomeMemOk]
theorem State.hostWrite_memOk (h : s.MemOk) (port func sec a key : Nat) (data : BitVec 512) (mask : BitVec 64) (mv : MetaValue) (poison : Bool) :
    (s.hostWrite port func sec a key data mask mv poison).MemOk := by
  unfold State.hostWrite
  grind [State.poisonSector_memOk, State.setHome_memOk, State.writeCopy_memOk, State.fillHome_memOk, State.poisonRx_memOk]
theorem execHostMemwr_memOk (h : s.MemOk) (port : Nat) (addr : BitVec 64) (data : BitVec 512) (mask : BitVec 64) (mv : MetaValue) (poison : Bool) :
    OutcomeMemOk (execHostMemwr port addr data mask mv poison s) := by
  unfold execHostMemwr
  grind [State.refused_memOk, State.hostWrite_memOk, State.emit_memOk, State.poisonRx_memOk, OutcomeMemOk]
theorem execHostMeminv_memOk (h : s.MemOk) (port : Nat) (addr : BitVec 64) (mv : MetaValue) : OutcomeMemOk (execHostMeminv port addr mv s) := by
  unfold execHostMeminv
  grind [State.refused_memOk, State.setHome_memOk, State.emit_memOk, OutcomeMemOk]
theorem execHdmDecoderCommit_memOk (h : s.MemOk) (hb : BitVec 64) : OutcomeMemOk (execHdmDecoderCommit hb s) := by
  unfold execHdmDecoderCommit
  split <;> exact h
theorem State.setHolder_memOk (h : s.MemOk) (a q : Nat) (st : HSt) : (s.setHolder a q st).MemOk := h
theorem execBisnpResponse_memOk (h : s.MemOk) (i : Nat) (data : BitVec 512) (mask : BitVec 64) : OutcomeMemOk (execBisnpResponse i data mask s) := by
  unfold execBisnpResponse
  grind [State.setHome_memOk, State.writeCopy_memOk, State.fillHome_memOk, State.setHolder_memOk, OutcomeMemOk, State.MemOk]
theorem execBiconflict_memOk (h : s.MemOk) (i : Nat) : OutcomeMemOk (execBiconflict i s) := by
  unfold execBiconflict
  grind [State.emit_memOk, OutcomeMemOk]
theorem State.flipCheck_memOk (h : s.MemOk) (c : Nat) (va : W64) (toDev : Bool) : (s.flipCheck c va toDev).1.MemOk := by
  unfold State.flipCheck
  grind [State.dieTranslate_memOk]
theorem State.dropFlip_memOk (h : s.MemOk) (x : Flip) : (s.dropFlip x).MemOk := h
theorem State.setFlip_memOk (h : s.MemOk) (x : Flip) : (s.setFlip x).MemOk := h
theorem State.flipHostStep_memOk (h : s.MemOk) (x : Flip) : (s.flipHostStep x).1.MemOk := by
  unfold State.flipHostStep
  grind [State.dropOthers_memOk, State.setFlip_memOk, State.recall_memOk, State.writeBack_memOk, State.dropFlip_memOk, State.MemOk]
theorem State.flipDevStep_memOk (h : s.MemOk) (x : Flip) : (s.flipDevStep x).1.MemOk := by
  unfold State.flipDevStep
  grind [State.dropOthers_memOk, State.setFlip_memOk, State.recall_memOk, State.request_memOk, State.snoopOut_memOk, State.dropFlip_memOk, Acc.memOk_of_ok, foldl_memOk,
    State.MemOk]
theorem State.pmflip_memOk (h : s.MemOk) (a : Args) (toDev : Bool) : OutcomeMemOk (s.pmflip a toDev) :=
  State.sysInstr_memOk h _ _ _ fun _ _ t ht => by
    grind [State.acquire_memOk, State.flipCheck_memOk, State.flipHostStep_memOk, State.flipDevStep_memOk, State.release_memOk, Acc.MemOk, Acc.bind_memOk, State.MemOk]
theorem State.snoop_memOk (h : s.MemOk) (src : Option (BitVec 16)) (addr : BitVec 64) (f : List Nat → State × (BitVec 512 × BitVec 64 × Bool))
    (hf : ∀ ks, (f ks).1.MemOk) : OutcomeMemOk (s.snoop src addr f) := by
  have hx := hf (s.snooped src addr)
  unfold State.snoop
  grind [State.emit_memOk, OutcomeMemOk]
theorem execSnpinv_memOk (h : s.MemOk) (req : SnpReq) : OutcomeMemOk (execSnpinv req s) := by
  unfold execSnpinv
  grind [State.snoop_memOk, State.dropOthers_memOk, State.recall_memOk, State.setHome_memOk, foldl_memOk, State.MemOk]
theorem execSnpdata_memOk (h : s.MemOk) (req : SnpReq) : OutcomeMemOk (execSnpdata req s) := by
  unfold execSnpdata
  grind [State.snoop_memOk, State.recall_memOk, State.setHome_memOk, foldl_memOk, State.MemOk]
theorem execSnpcur_memOk (h : s.MemOk) (req : SnpReq) : OutcomeMemOk (execSnpcur req s) := by
  unfold execSnpcur
  grind [State.snoop_memOk]
theorem execCxlCacheResponse_memOk (h : s.MemOk) (i port : Nat) (data : BitVec 512) (poison : Bool) : OutcomeMemOk (execCxlCacheResponse i port data poison s) := by
  unfold execCxlCacheResponse
  grind [State.setHome_memOk, State.roomL2_memOk, State.poisonRx_memOk, OutcomeMemOk, State.MemOk]

-- ---------------------------------------------------------------------------------------------
-- The collective sequencer (Sys2Proof/Machine/Graphs.lean)

theorem State.setGraph_memOk (h : s.MemOk) (d slot : Nat) (g : Graph) : (s.setGraph d slot g).MemOk := h
theorem State.inRun_memOk (h : s.MemOk) (d slot : Nat) (f : CgRun → CgRun) : (s.inRun d slot f).MemOk := by
  unfold State.inRun
  split <;> exact h
theorem State.opAsks_memOk (h : s.MemOk) (d slot o pkg gpa : Nat) : (s.opAsks d slot o pkg gpa).MemOk := by
  unfold State.opAsks
  grind [State.fabricPort_memOk, State.MemOk]
theorem State.opAnswered_memOk (h : s.MemOk) (d slot o : Nat) : (s.opAnswered d slot o).MemOk := h
theorem State.opFail_memOk (h : s.MemOk) (d slot o code ident : Nat) : (s.opFail d slot o code ident).MemOk := State.inRun_memOk (State.opAnswered_memOk h ..) ..
theorem State.opDone_memOk (h : s.MemOk) (d slot o : Nat) : (s.opDone d slot o).MemOk := by
  unfold State.opDone
  grind [State.opAnswered_memOk, State.inRun_memOk]
theorem State.sendContrib_memOk (h : s.MemOk) (d slot o : Nat) (vals : List W32) : (s.sendContrib d slot o vals).MemOk := by
  unfold State.sendContrib
  grind [State.opAsks_memOk, State.inRun_memOk, State.emit_memOk]
theorem State.startSendv_memOk (h : s.MemOk) (d slot o : Nat) (g : Graph) (r : CgRun) : (s.startSendv d slot o g r).MemOk := by
  unfold State.startSendv
  grind [State.readFar_memOk, State.opFail_memOk, State.request_memOk, State.inRun_memOk, State.sendContrib_memOk]
theorem State.startOp_memOk (h : s.MemOk) (d slot o : Nat) : (s.startOp d slot o).MemOk := by
  unfold State.startOp
  grind [State.startSendv_memOk, State.opFail_memOk, State.inRun_memOk, State.emit_memOk]
theorem State.pumpRun_memOk (h : s.MemOk) (d slot : Nat) : (s.pumpRun d slot).MemOk := by
  unfold State.pumpRun
  grind [State.startOp_memOk, foldl_memOk]
theorem State.sendAborts_memOk (h : s.MemOk) (d slot : Nat) (g : Graph) (r : CgRun) : (s.sendAborts d slot g r).MemOk := by
  unfold State.sendAborts
  grind [State.inRun_memOk, State.emit_memOk, foldl_memOk]
theorem State.arriveAt_memOk (h : s.MemOk) (core cb ctx launch : Nat) (amount : Int) : (s.arriveAt core cb ctx launch amount).1.MemOk := by
  unfold State.arriveAt
  grind [State.arrive_memOk, Arrived.memOk_of_applied, State.MemOk]
theorem State.arrivalRefused_memOk (h : s.MemOk) (ctx core : Nat) : (s.arrivalRefused ctx core).MemOk := h
theorem State.endRun_memOk (h : s.MemOk) (d slot : Nat) (g : Graph) (r : CgRun) : (s.endRun d slot g r).MemOk := by
  unfold State.endRun
  grind [State.setGraph_memOk, State.writeUnit_memOk, State.arriveAt_memOk, State.arrivalRefused_memOk, State.dieTranslate_memOk, Acc.MemOk, Acc.bind_memOk]
theorem State.closeRun_memOk (h : s.MemOk) (d slot : Nat) : (s.closeRun d slot).MemOk := by
  unfold State.closeRun
  split
  · exact h
  · split
    · exact h
    · extract_lets t
      have ht : t.MemOk := by
        unfold t
        split
        · exact State.sendAborts_memOk h ..
        · exact h
      clear_value t
      grind [State.endRun_memOk, Acc.memOk_of_ok, State.request_memOk]
theorem State.settle_memOk (h : s.MemOk) (d slot : Nat) : (s.settle d slot).MemOk := by
  unfold State.settle
  grind [State.pumpRun_memOk, State.closeRun_memOk, foldl_memOk]
theorem State.vatRefused_memOk (h : s.MemOk) (d slot o pkg : Nat) (res : FabRes) : (s.vatRefused d slot o pkg res).MemOk := by
  unfold State.vatRefused
  grind [State.opFail_memOk]
theorem State.contribAnswer_memOk (h : s.MemOk) (d slot o : Nat) (r : CgRun) (x : BitVec 256) (res : FabRes) : (s.contribAnswer d slot o r x res).MemOk := by
  unfold State.contribAnswer
  grind [State.vatRefused_memOk, State.opAnswered_memOk, State.opDone_memOk, State.opFail_memOk, State.inRun_memOk]
theorem State.seqOwn_memOk (h : s.MemOk) (ctx : Nat) (o : Owner) (ps : List (W64 × Nat)) : (s.seqOwn ctx o ps).MemOk := by
  induction ps generalizing s with
  | nil => exact h
  | cons p ps ih =>
    unfold State.seqOwn
    grind [State.dieTranslate_memOk, State.takeOwner_memOk, Acc.MemOk, Acc.bind_memOk]
theorem State.fetchAnswer_memOk (h : s.MemOk) (d slot o : Nat) (g : Graph) (r : CgRun) (x : BitVec 256) (vs : List W32) : (s.fetchAnswer d slot o g r x vs).MemOk := by
  unfold State.fetchAnswer
  grind [State.dropOwner_memOk, State.routeRange_memOk, State.opFail_memOk, State.inRun_memOk, State.seqOwn_memOk, Acc.MemOk, Acc.bind_memOk]
theorem State.fetchLand_memOk (h : s.MemOk) (d slot o n : Nat) (g : Graph) (r : CgRun) (x : BitVec 256) : (s.fetchLand d slot o n g r x).MemOk := by
  unfold State.fetchLand
  grind [State.writeUnit_memOk, State.opDone_memOk, State.arriveAt_memOk, State.dropOwner_memOk, State.opFail_memOk, State.passOwner_memOk, State.takeRoute_memOk,
    State.dieTranslate_memOk, State.inRun_memOk, State.disownKey_memOk, Acc.MemOk, Acc.bind_memOk]
theorem State.sendpStep_memOk (h : s.MemOk) (d slot o n : Nat) (g : Graph) (r : CgRun) (x : BitVec 256) (res : FabRes) : (s.sendpStep d slot o n g r x res).MemOk := by
  unfold State.sendpStep
  grind [State.writeUnit_memOk, State.opAnswered_memOk, State.opDone_memOk, State.readFar_memOk, State.opAsks_memOk, State.opFail_memOk, State.takeRoute_memOk,
    State.dieTranslate_memOk, State.inRun_memOk, State.emit_memOk, Acc.MemOk, Acc.bind_memOk, State.MemOk]
theorem State.waitStep_memOk (h : s.MemOk) (d slot o : Nat) (g : Graph) (r : CgRun) (x : BitVec 256) : (s.waitStep d slot o g r x).MemOk := by
  unfold State.waitStep
  grind [State.opDone_memOk, State.acquireL2_memOk, State.opFail_memOk]
theorem State.signalStep_memOk (h : s.MemOk) (d slot o : Nat) (g : Graph) (r : CgRun) (x : BitVec 256) : (s.signalStep d slot o g r x).MemOk := by
  unfold State.signalStep
  grind [State.opDone_memOk, State.arriveAt_memOk, State.opFail_memOk]
theorem State.opStep_memOk (h : s.MemOk) (d slot o : Nat) (g : Graph) (r : CgRun) (res : FabRes) : (s.opStep d slot o g r res).MemOk := by
  unfold State.opStep
  grind [State.vatRefused_memOk, State.signalStep_memOk, State.fetchLand_memOk, State.opFail_memOk, State.waitStep_memOk, State.contribAnswer_memOk, State.sendpStep_memOk,
    State.fetchAnswer_memOk, Acc.MemOk]
theorem execCgOpComplete_memOk (h : s.MemOk) (die slot op : Nat) (res : FabRes) : OutcomeMemOk (execCgOpComplete die slot op res s) := by
  unfold execCgOpComplete
  grind [State.opStep_memOk, State.settle_memOk, State.finish_memOk, OutcomeMemOk]
theorem execContribRetry_memOk (h : s.MemOk) (die slot op : Nat) (res : FabRes) : OutcomeMemOk (execContribRetry die slot op res s) := by
  unfold execContribRetry
  grind [State.settle_memOk, State.startSendv_memOk, State.contribAnswer_memOk, State.sendContrib_memOk, OutcomeMemOk]
theorem execCgTimeout_memOk (h : s.MemOk) (die slot op : Nat) : OutcomeMemOk (execCgTimeout die slot op s) := by
  unfold execCgTimeout
  grind [State.settle_memOk, State.opFail_memOk, OutcomeMemOk]
theorem State.packInstr_memOk (h : s.MemOk) (v : View) (o : OpSpec) (body : Here → W32 → State → Acc (Option W64))
    (hb : ∀ hr g t, t.MemOk → (body hr g t).MemOk) : OutcomeMemOk (s.packInstr v o body) := by
  refine State.flightInstr_memOk h v o _ _ fun hr g t ht => ?_
  refine Acc.bind_memOk (State.release_memOk ht ..) fun t _ ht => Acc.bind_memOk (hb hr g t ht) fun t y ht => ?_
  cases y with
  | some y => exact State.acquire_memOk ht ..
  | none => exact ht
theorem State.loadGraph_memOk (h : s.MemOk) (ctx core : Nat) (pgt va : W64) : (s.loadGraph ctx core pgt va).MemOk := by
  unfold State.loadGraph
  grind [State.setDie_memOk, State.readFar_memOk, Acc.MemOk]
theorem execCgload_memOk (h : s.MemOk) (a : Args) : OutcomeMemOk (execCgload a s) :=
  State.packInstr_memOk h _ _ _ fun _ _ t ht => by
    grind [State.loadGraph_memOk]
theorem execCgloadFree_memOk (h : s.MemOk) (a : Args) : OutcomeMemOk (execCgloadFree a s) :=
  State.packInstr_memOk h _ _ _ fun _ _ t ht => by
    grind [State.setDie_memOk, Acc.MemOk]
theorem State.startRunOf_memOk (h : s.MemOk) (hr : Here) (slot : Nat) (g : Graph) (bases : List W64) (coll : W32) (pgt : W64) (t : Pgt) :
    (s.startRunOf hr slot g bases coll pgt t).MemOk := by
  unfold State.startRunOf
  grind [State.setGraph_memOk, State.settle_memOk, Acc.MemOk]
theorem execCgrun_memOk (h : s.MemOk) (a : Args) : OutcomeMemOk (execCgrun a s) :=
  State.packInstr_memOk h _ _ _ fun _ _ t ht => by
    grind [State.readPgt_memOk, State.startRunOf_memOk, State.acquireL2_memOk, Acc.MemOk]

-- ---------------------------------------------------------------------------------------------
-- Links and lost peers (Sys2Proof/Machine/Links.lean)

/-- A write that fails has no effect (R423): the bytes that it kept are put back, by `setSector`. -/
theorem State.failReq_memOk (h : s.MemOk) (q : Request) : (s.failReq q).MemOk := by
  unfold State.failReq
  split
  · grind [State.setFlight_memOk]
  · rename_i b old mask psn _
    have hf : Memory.wf (setSector b old mask s.fab) = true := Memory.wf_setSector _ _ _ _ h.2
    grind [State.MemOk, State.setHome_memOk, State.noteFailure_memOk]
  · exact State.settle_memOk (State.opFail_memOk h ..) ..
theorem State.failReqs_memOk (h : s.MemOk) (p : Request → Bool) : (s.failReqs p).MemOk := by
  unfold State.failReqs
  grind [State.failReq_memOk, foldl_memOk, State.MemOk]
theorem State.losePkg_memOk (h : s.MemOk) (pkg : Nat) : (s.losePkg pkg).MemOk := by
  unfold State.losePkg
  grind [State.dropOwner_memOk, State.settle_memOk, State.opFail_memOk, State.failReqs_memOk, foldl_memOk, State.MemOk]
theorem State.checkPeer_memOk (h : s.MemOk) (pkg : Nat) : (s.checkPeer pkg).MemOk := by
  unfold State.checkPeer
  grind [State.losePkg_memOk]
theorem execBisnpTimeout_memOk (h : s.MemOk) (i : Nat) : OutcomeMemOk (execBisnpTimeout i s) := by
  unfold execBisnpTimeout
  grind [State.unanswered_memOk, State.losePkg_memOk, State.setHolder_memOk, OutcomeMemOk, State.MemOk]
theorem State.moveReqs_memOk (h : s.MemOk) (n : Nat) : (s.moveReqs n).MemOk := h
theorem State.portDown_memOk (h : s.MemOk) (r : PortRef) : (s.portDown r).MemOk := by
  unfold State.portDown
  grind [State.setPort_memOk, State.moveReqs_memOk, State.checkPeer_memOk, State.emit_memOk]
theorem execLinkDown_memOk (h : s.MemOk) (port : PortRef) : OutcomeMemOk (execLinkDown port s) := by
  unfold execLinkDown
  grind [State.portDown_memOk, OutcomeMemOk]
theorem execLinkTrain_memOk (h : s.MemOk) (port : PortRef) (peer : BitVec 16) (lanes : Nat) (slow ide : Bool) : OutcomeMemOk (execLinkTrain port peer lanes slow ide s) := by
  unfold execLinkTrain
  grind [State.setPort_memOk, State.portDown_memOk, OutcomeMemOk, State.MemOk]
theorem execLaneFail_memOk (h : s.MemOk) (port : PortRef) : OutcomeMemOk (execLaneFail port s) := by
  unfold execLaneFail
  grind [State.setPort_memOk, State.portDown_memOk, OutcomeMemOk]
theorem execLaneRetrainDone_memOk (h : s.MemOk) (port : PortRef) : OutcomeMemOk (execLaneRetrainDone port s) := by
  unfold execLaneRetrainDone
  grind [State.setPort_memOk, OutcomeMemOk]
theorem execViralReceived_memOk (h : s.MemOk) (port : PortRef) : OutcomeMemOk (execViralReceived port s) := by
  unfold execViralReceived
  grind [State.setPort_memOk, State.checkPeer_memOk, State.trapContext_memOk, State.failReqs_memOk, OutcomeMemOk, foldl_memOk, State.MemOk]
theorem execPeerRequestTimeout_memOk (h : s.MemOk) (i : Nat) : OutcomeMemOk (execPeerRequestTimeout i s) := by
  unfold execPeerRequestTimeout
  grind [State.setPort_memOk, State.losePkg_memOk, OutcomeMemOk]
theorem execHoldNotice_memOk (h : s.MemOk) (i : Nat) : OutcomeMemOk (execHoldNotice i s) := by
  unfold execHoldNotice
  split <;> exact h
theorem execHoldNoticeTimer_memOk (h : s.MemOk) (i : Nat) : OutcomeMemOk (execHoldNoticeTimer i s) := by
  unfold execHoldNoticeTimer
  grind [State.emit_memOk, OutcomeMemOk, State.MemOk]
theorem execDoeRequest_memOk (h : s.MemOk) (req : DoeReq) : OutcomeMemOk (execDoeRequest req s) := by
  unfold execDoeRequest
  grind [State.setPort_memOk, State.emit_memOk, OutcomeMemOk]

-- ---------------------------------------------------------------------------------------------
-- Requests of other packages (Sys2Proof/Machine/Pool.lean)

theorem State.writeReq_memOk (h : s.MemOk) (func sec : Nat) (q : MemReq) : (s.writeReq func sec q).MemOk := by
  unfold State.writeReq
  grind [State.poisonSector_memOk, State.takeSector_memOk, State.writeAtHome_memOk, Acc.MemOk, Acc.bind_memOk]
theorem State.serveHome_memOk (h : s.MemOk) (func gpa : Nat) (q : MemReq) : (s.serveHome func gpa q).MemOk := by
  unfold State.serveHome
  grind [State.dropOthers_memOk, State.takeSector_memOk, State.recall_memOk, State.readAtHome_memOk, State.readAtCtl_memOk, State.freeSector_memOk, State.setHome_memOk,
    State.rmwN_memOk, State.writeReq_memOk, State.fillHome_memOk, State.readyHome_memOk, Acc.MemOk, Acc.bind_memOk]
theorem State.memAnswer_memOk (h : s.MemOk) (q : MemReq) (r : Option (BitVec 512 × Bool)) : (s.memAnswer q r).MemOk := by
  unfold State.memAnswer
  grind [State.emit_memOk]
theorem State.holdReq_memOk (h : s.MemOk) (q : MemReq) (n : Need) : (s.holdReq q n).MemOk := by
  unfold State.holdReq
  grind [State.request_memOk, State.MemOk]
theorem State.unholdReq_memOk (h : s.MemOk) (q : MemReq) : (s.unholdReq q).MemOk := h
theorem State.serveExtent_memOk (h : s.MemOk) (func : Nat) (e : Extent) (q : MemReq) : OutcomeMemOk (s.serveExtent func e q) := by
  unfold State.serveExtent
  grind [State.holdReq_memOk, State.serveHome_memOk, State.passOwner_memOk, State.memAnswer_memOk, State.unholdReq_memOk, OutcomeMemOk, Acc.memOk_of_ok]
theorem execPeerMemRequest_memOk (h : s.MemOk) (req : MemReq) : OutcomeMemOk (execPeerMemRequest req s) := by
  unfold execPeerMemRequest
  grind [State.memAnswer_memOk, State.serveExtent_memOk, State.emit_memOk, OutcomeMemOk]
theorem State.afterReq_memOk (h : s.MemOk) (e : Extent) (q : MemReq) (old : List (Nat × HSt)) : (s.afterReq e q old).MemOk := by
  unfold State.afterReq
  grind [State.setHolder_memOk, State.MemOk]
theorem execPoolMemRequest_memOk (h : s.MemOk) (req : MemReq) : OutcomeMemOk (execPoolMemRequest req s) := by
  have hp : ∀ (t : State) k ok func gpa, t.MemOk → (t.passOwner k ok fun u => u.serveHome func gpa req).MemOk := fun t k ok func gpa ht =>
    State.passOwner_memOk ht k ok _ fun u hu => State.serveHome_memOk hu ..
  unfold execPoolMemRequest
  split
  · exact h
  · split
    · exact State.memAnswer_memOk h ..
    · split
      · exact State.memAnswer_memOk h ..
      · extract_lets a gpa old bare
        have hb : bare.MemOk := h
        clear_value bare
        split
        · exact State.holdReq_memOk h ..
        · split
          · exact State.holdReq_memOk h ..
          · split
            · exact State.memAnswer_memOk h ..
            · split
              · exact State.memAnswer_memOk (State.unholdReq_memOk (State.afterReq_memOk (Acc.memOk_of_ok (hp _ _ _ _ _ hb) ‹_›) ..) ..) ..
              · exact State.memAnswer_memOk (State.unholdReq_memOk h ..) ..
              · exact State.holdReq_memOk h ..
theorem execSendpSector_memOk (h : s.MemOk) (ends : PodEnds) (addr : BitVec 64) (data : BitVec 512) (poison cbv : Bool) (cb core ctx launch : Nat) :
    OutcomeMemOk (execSendpSector ends addr data poison cbv cb core ctx launch s) := by
  unfold execSendpSector
  grind [State.writeUnit_memOk, State.arriveAt_memOk, State.request_memOk, State.emit_memOk, OutcomeMemOk, Acc.memOk_of_ok]
theorem execAddDynamicCapacity_memOk (h : s.MemOk) (func index : Nat) (arg : BitVec 512) (tag : Nat) : OutcomeMemOk (execAddDynamicCapacity func index arg tag s) := by
  unfold execAddDynamicCapacity
  grind [State.left_memOk, State.grant_memOk, State.finish_memOk, State.emit_memOk, OutcomeMemOk, State.MemOk]
theorem execReleaseDynamicCapacity_memOk (h : s.MemOk) (func index : Nat) : OutcomeMemOk (execReleaseDynamicCapacity func index s) := by
  unfold execReleaseDynamicCapacity
  grind [State.leave_memOk, State.left_memOk, State.finish_memOk, State.leaveExtent_memOk, State.freeKey_memOk, State.emit_memOk, OutcomeMemOk, State.MemOk]
theorem State.contribute_memOk (h : s.MemOk) (q : VatReq) : (s.contribute q).MemOk := by
  unfold State.contribute
  grind [State.emit_memOk, State.MemOk]
theorem State.serveVats_memOk (h : s.MemOk) : s.serveVats.MemOk := by
  unfold State.serveVats
  grind [State.contribute_memOk, foldl_memOk, State.MemOk]
theorem execVatContribution_memOk (h : s.MemOk) (port : Nat) (pkg : BitVec 16) (func : Nat) (key : VatKey) (fmt ncon nfet count : Nat) (vals : List (BitVec 32)) :
    OutcomeMemOk (execVatContribution port pkg func key fmt ncon nfet count vals s) := by
  unfold execVatContribution
  grind [State.contribute_memOk, OutcomeMemOk, State.MemOk]
theorem execVatFetch_memOk (h : s.MemOk) (pkg : BitVec 16) (func : Nat) (key : VatKey) (fmt : Nat) : OutcomeMemOk (execVatFetch pkg func key fmt s) := by
  unfold execVatFetch
  grind [State.emit_memOk, OutcomeMemOk, State.MemOk]
theorem execVatAbort_memOk (h : s.MemOk) (pkg : BitVec 16) (func : Nat) (key : VatKey) : OutcomeMemOk (execVatAbort pkg func key s) := by
  unfold execVatAbort
  split <;> exact h
theorem execVatAbortExpiry_memOk (h : s.MemOk) (i : Nat) : OutcomeMemOk (execVatAbortExpiry i s) := by
  unfold execVatAbortExpiry
  grind [OutcomeMemOk, State.MemOk]

-- ---------------------------------------------------------------------------------------------
-- Task images and packets (Sys2Proof/Machine/Tasks.lean)

theorem State.noteHandle_memOk (h : s.MemOk) (ctx : Nat) (kdesc : W64) (pkg : Nat) (handle : W64) : (s.noteHandle ctx kdesc pkg handle).MemOk := by
  unfold State.noteHandle
  grind [State.inPart_memOk]
theorem State.imageReply_memOk (h : s.MemOk) (ctx pkg hash : Nat) (kdesc : W64) : (s.imageReply ctx pkg hash kdesc).MemOk := by
  unfold State.imageReply
  grind [State.noteHandle_memOk, State.pick_memOk, Acc.MemOk, State.MemOk]
theorem execTsreg_memOk (h : s.MemOk) (a : Args) : OutcomeMemOk (execTsreg a s) :=
  State.packInstr_memOk h _ _ _ fun _ _ t ht => by
    grind [State.readFar_memOk, State.imageReply_memOk, State.emit_memOk, Acc.MemOk]
theorem State.handleCheck_memOk (h : s.MemOk) (ctx pkg : Nat) (handle : W64) : (s.handleCheck ctx pkg handle).1.MemOk := by
  unfold State.handleCheck
  grind [State.pick_memOk]
theorem execTship_memOk (h : s.MemOk) (a : Args) : OutcomeMemOk (execTship a s) :=
  State.packInstr_memOk h _ _ _ fun _ _ t ht => by
    grind [State.handleCheck_memOk, State.readFar_memOk, State.sendPacket_memOk, Acc.MemOk]
theorem execTaskImageReceive_memOk (h : s.MemOk) (link : Nat) (pkg : BitVec 16) (func : Nat) (image : List (BitVec 8)) :
    OutcomeMemOk (execTaskImageReceive link pkg func image s) := by
  unfold execTaskImageReceive
  grind [State.emit_memOk, OutcomeMemOk, State.MemOk]
theorem State.keptCtx_memOk (h : s.MemOk) (pkg : BitVec 16) (sctx pf : Nat) : ∀ t, s.keptCtx pkg sctx pf = some t → t.1.MemOk := by
  unfold State.keptCtx
  grind [State.newKey_memOk, State.dropTlb_memOk, State.setCtx_memOk, State.MemOk]
/-- The image and tables of a packet's context are written, by `setCells`, over a range that was made fresh. -/
theorem State.mapPacket_memOk (h : s.MemOk) (ctx pf : Nat) (image : List Byte) (stackBytes : Nat) : (s.mapPacket ctx pf image stackBytes).MemOk := by
  unfold State.mapPacket
  extract_lets m len e old
  refine Acc.bind_memOk (State.flushRange_memOk h ..) fun t _ ht => ?_
  have hu := State.makeFresh_memOk ht (allotDev ctx) (max len old * 65536)
  dsimp only
  generalize t.makeFresh (allotDev ctx) (max len old * 65536) = u at hu ⊢
  obtain ⟨hm, hf⟩ := hu
  have hc : Memory.wf (m.cells.foldl (fun cs x => setCells (allotDev ctx + x.1) x.2 cs) u.mem) = true :=
    foldl_keeps (fun cs => Memory.wf cs = true) _ _ _ hm fun cs x hc => Memory.wf_setCells _ _ _ hc
  generalize List.foldl _ u.mem m.cells = cs at hc ⊢
  refine State.dropTlb_memOk (State.setCtx_memOk ?_ ctx _) ctx _
  exact ⟨hc, hf⟩
theorem State.packetAnswer_memOk (h : s.MemOk) (pkg : BitVec 16) (sctx : Nat) (d : BitVec 512) (val : W64) : (s.packetAnswer pkg sctx d val).MemOk := h
theorem execTaskPacketReceive_memOk (h : s.MemOk) (link : Nat) (pkg : BitVec 16) (ctx : Nat) (func : Nat) (handle : BitVec 64) (desc : BitVec 512) (args : List (BitVec 32))
    (seq : Nat) (tag : BitVec 256) : OutcomeMemOk (execTaskPacketReceive link pkg ctx func handle desc args seq tag s) := by
  have hk := fun pf => State.keptCtx_memOk h pkg ctx pf
  unfold execTaskPacketReceive
  extract_lets refuse
  split
  · exact h
  · split
    · extract_lets x kd stack
      split
      · exact State.packetAnswer_memOk h ..
      · split
        · exact State.packetAnswer_memOk h ..
        · rename_i t c e
          split
          · exact h
          · refine State.finish_memOk h _ _ (State.mapPacket_memOk (hk _ _ e) ..) fun u _ hu => State.enterLaunch_memOk ?_ _
            exact hu
    · exact State.packetAnswer_memOk h ..
theorem State.packetEnd_memOk (h : s.MemOk) (i : Nat) (p : Packet) : OutcomeMemOk (s.packetEnd i p) := by
  unfold State.packetEnd
  grind [State.releaseCtx_memOk, State.finish_memOk, State.endLaunch_memOk, State.dropCtx_memOk, State.packetAnswer_memOk, OutcomeMemOk, State.MemOk]
theorem State.packetBack_memOk (h : s.MemOk) (i : Nat) (p : Packet) (code : Nat) : OutcomeMemOk (s.packetBack i p code) := by
  unfold State.packetBack
  grind [State.doneStore_memOk, State.arriveAt_memOk, State.finish_memOk, State.arrivalRefused_memOk, State.trapContext_memOk, State.nodeComplete_memOk, OutcomeMemOk,
    Acc.MemOk, State.MemOk]
theorem execTaskPacketComplete_memOk (h : s.MemOk) (i code : Nat) : OutcomeMemOk (execTaskPacketComplete i code s) := by
  unfold execTaskPacketComplete
  grind [State.packetEnd_memOk, State.packetBack_memOk, OutcomeMemOk]

-- ---------------------------------------------------------------------------------------------
-- Errors, boot and recovery (Sys2Proof/Machine/Bringup.lean)

theorem execUnallocatedOpcode_memOk (h : s.MemOk) (_word : BitVec 96) : OutcomeMemOk (execUnallocatedOpcode _word s) := by
  unfold execUnallocatedOpcode
  grind [State.illegalEngine_memOk, State.illegalMember_memOk, OutcomeMemOk]
theorem execCoreLost_memOk (h : s.MemOk) (core : Nat) : OutcomeMemOk (execCoreLost core s) := by
  unfold execCoreLost
  grind [State.setCore_memOk, State.trapContext_memOk, State.emit_memOk, OutcomeMemOk, foldl_memOk]
theorem State.bumpCore_memOk (h : s.MemOk) (c lo : Nat) : (s.bumpCore c lo).MemOk := h
theorem State.bumpDie_memOk (h : s.MemOk) (d lo : Nat) : (s.bumpDie d lo).MemOk := h
theorem State.spadError_memOk (h : s.MemOk) (c key w : Nat) : (s.spadError c key w).MemOk := by
  unfold State.spadError
  grind [State.setBlock_memOk, State.bumpCore_memOk]
theorem State.cellError_memOk (h : s.MemOk) (c bank i j : Nat) : (s.cellError c bank i j).MemOk := by
  unfold State.cellError
  grind [State.setPress_memOk, State.MemOk]
theorem State.l1Error_memOk (h : s.MemOk) (c k w : Nat) : (s.l1Error c k w).MemOk := by
  unfold State.l1Error
  grind [State.setHome_memOk, State.setL1_memOk, State.bumpCore_memOk, State.roomL2_memOk]
theorem State.l2Error_memOk (h : s.MemOk) (k w : Nat) : (s.l2Error k w).MemOk := by
  unfold State.l2Error
  grind [State.setHome_memOk, State.bumpDie_memOk]
theorem State.dirPoison_memOk (h : s.MemOk) (k : Nat) : (s.dirPoison k).MemOk := by
  unfold State.dirPoison
  grind [State.dropOthers_memOk, State.setHome_memOk, State.bumpDie_memOk, State.fillHome_memOk, foldl_memOk, State.MemOk]
theorem State.bankError_memOk (h : s.MemOk) (l : Nat) : (s.bankError l).MemOk := by
  unfold State.bankError
  grind [State.request_memOk, State.refillBank_memOk, Acc.memOk_of_ok, State.MemOk]
theorem execUncorrectableError_memOk (h : s.MemOk) (site : ErrSite) : OutcomeMemOk (execUncorrectableError site s) := by
  unfold execUncorrectableError
  grind [State.dirPoison_memOk, State.l2Error_memOk, State.cellError_memOk, State.l1Error_memOk, State.bumpCore_memOk, State.bankError_memOk, State.trapContext_memOk,
    State.spadError_memOk, State.bumpDie_memOk, OutcomeMemOk, foldl_memOk, State.MemOk]
theorem execRowRemap_memOk (h : s.MemOk) (chan row : Nat) : OutcomeMemOk (execRowRemap chan row s) := by
  unfold execRowRemap
  grind [State.emit_memOk, OutcomeMemOk, State.MemOk]
theorem execGovernorStep_memOk (h : s.MemOk) (die : Nat) (power : BitVec 16) : OutcomeMemOk (execGovernorStep die power s) := by
  unfold execGovernorStep
  split <;> exact h
/-- Power-on leaves both memories empty. -/
theorem State.powerOn_memOk (build : Build) (flash : List (BitVec 8)) : (s.powerOn build flash).MemOk :=
  ⟨rfl, rfl⟩
theorem execReset_memOk (build : Build) (image : Option (List (BitVec 8))) (cfg : CfgRecord) : OutcomeMemOk (execReset build image cfg s) := by
  unfold execReset
  grind [State.writeRetire_memOk, State.powerOn_memOk, OutcomeMemOk, foldl_memOk, State.MemOk]
theorem execRecoveryImagePush_memOk (h : s.MemOk) (push : ImagePush) : OutcomeMemOk (execRecoveryImagePush push s) := by
  unfold execRecoveryImagePush
  split <;> exact h

-- ---------------------------------------------------------------------------------------------
-- Turns that execute no instruction (Sys2Proof/Machine/Turns.lean)

theorem State.tick_memOk (h : s.MemOk) (n : Nat) : (s.tick n).MemOk := h
theorem State.ackWrite_memOk (h : s.MemOk) (i : Nat) : (s.ackWrite i).MemOk := by
  unfold State.ackWrite
  grind [State.MemOk]
theorem State.evictFilter_memOk (h : s.MemOk) (k : Nat) : (s.evictFilter k).MemOk := by
  unfold State.evictFilter
  grind [State.unanswered_memOk, State.request_memOk]
/-- A store of another agent writes, by `setCells`, the memory of another package. -/
theorem State.fabricStore_memOk (h : s.MemOk) (pkg addr : Nat) (bytes : List Byte) : (s.fabricStore pkg addr bytes).MemOk := by
  unfold State.fabricStore
  extract_lets keys t b
  have ht : t.MemOk := by
    refine foldl_memOk (fun u k hu => ?_) h
    split
    · exact State.evictL2_memOk (State.dropOthers_memOk hu ..) ..
    · exact hu
  exact ⟨ht.1, Memory.wf_setCells _ _ _ ht.2⟩
theorem State.bindPair_memOk (h : s.MemOk) (pkg : BitVec 16) (func poolFunc : Nat) : (s.bindPair pkg func poolFunc).MemOk := h
theorem State.trustKey_memOk (h : s.MemOk) (poolFunc hash : Nat) : (s.trustKey poolFunc hash).MemOk := h
theorem State.fabricRange_memOk (h : s.MemOk) (pkg addr len : Nat) (granted : Bool) : (s.fabricRange pkg addr len granted).MemOk := h
theorem State.codeSlot_memOk (h : s.MemOk) (pkg func : Nat) (handle : W64) (on : Bool) : (s.codeSlot pkg func handle on).MemOk := h
theorem State.dcRegion_memOk (h : s.MemOk) (func n base len : Nat) : (s.dcRegion func n base len).MemOk := by
  unfold State.dcRegion
  split <;> exact h

-- ---------------------------------------------------------------------------------------------
-- Instructions and events, turns, steps (Sys2Proof/Machine/Dispatch.lean, Sys2Proof/Machine/Step.lean)

/-- EVERY INSTRUCTION AND EVENT KEEPS CANONICAL MEMORY: those that one function of the model executes, or whose bodies keep it by the same rules, share a case. -/
theorem exec_memOk (h : s.MemOk) (i : Instr) : OutcomeMemOk (exec i s) := by
  cases i with
  | add _ | addI _ | sub _ | subI _ | mul _ | mulI _ | mulhi _ | mad _ | neg _ | abs _ | min _ | minI _ | max _ | maxI _ | div _ | rem _
  | and _ | andI _ | or _ | orI _ | xor _ | xorI _ | not _ | andn _ | andnI _ | shl _ | shlI _ | shr _ | shrI _ | sar _ | sarI _ | rol _
  | rolI _ | bfx _ | bfi _ | popc _ | clz _ | brev _ | sel _ | cmp _ | cmpI _ | plop _ | mov _ | movi _ | lea _ | leaI _ | icvt _ | fadd _
  | faddI _ | fsub _ | fsubI _ | fmul _ | fmulI _ | ffma _ | fmin _ | fminI _ | fmax _ | fmaxI _ | fcmp _ | fcmpI _ | fclass _ | frcp _
  | frsq _ | fsqrt _ | fex2 _ | flg2 _ | fsin _ | fcos _ | fcvt _ | f2i _ | i2f _ | frnd _ | fscl _ | hvadd _ | hvmul _ | hvfma _ | hvmin _
  | hvmax _ | dp8 _ | dp4 _ | fdp8 _ | fdp4 _ | pack _ | unpk _ | xscl _ => exact State.alu_memOk h ..
  | xacc _ | xadd _ | xrnd _ | xclr _ => exact State.lanewise_memOk h ..
  | bra _ | call _ => exact State.branchImm_memOk h ..
  | brx _ | callx _ => exact State.branchReg_memOk h ..
  | exit _ | trap _ | bkpt _ | nop _ => exact State.allLanes_memOk h ..
  | yield _ | sleep _ =>
    exact State.flightInstr_memOk h _ _ _ _ fun _ _ t ht => by grind [State.yieldFlight_memOk, Acc.MemOk]
  | eadd _ | eaddI _ | esub _ | esubI _ | emul _ | eand _ | eandI _ | eor _ | eorI _ | exor _ | exorI _ | eshl _ | eshlI _ | eshr _ | eshrI _
  | ecmp _ | ecmpI _ => exact State.engAlu_memOk h ..
  | ebr _ | ebrI _ => exact State.engBr_memOk h ..
  | ejmp _ | ejmpI _ => exact State.engJmp_memOk h ..
  | eloop _ | eloopI _ => exact State.engLoop_memOk h ..
  | eld _ | eldI _ => exact State.engLoadOp_memOk h ..
  | tcopy _ | texp _ | tpack _ | tgath _ | tscat _ | treg _ => exact State.issueTransfer_memOk h ..
  | ld _ | ldI _ => exact State.load_memOk h ..
  | lds _ | ldsI _ => exact State.loadSpad_memOk h ..
  | ldc _ | ldcI _ => exact State.loadConst_memOk h ..
  | cwb _ | cinv _ => exact State.maintain_memOk h ..
  | pref _ | prefI _ => exact State.prefetch_memOk h ..
  | ptst _ | vote _ | shfl _ | matchV _ | fredux _ | klop _ | kpopc _ | kfind _ | rstat _ =>
    exact State.flightInstr_memOk h _ _ _ _ fun _ _ t ht => by grind [Acc.MemOk]
  | kmov _ | kmovI _ => exact State.kmov_memOk h ..
  | cbarm _ | cbarmI _ =>
    exact State.flightInstr_memOk h _ _ _ _ fun _ _ t ht => by grind [State.cbArm_memOk, State.eachCb_memOk]
  | cbadd _ | cbaddI _ =>
    exact State.flightInstr_memOk h _ _ _ _ fun _ _ t ht => by grind [State.cbAdd_memOk, State.eachCb_memOk]
  | mxrel _ | mxwait _ => exact State.pressDrain_memOk h ..
  | mma _ | mmas _ => exact State.pressIssue_memOk h ..
  | pmflipH _ | pmflipD _ => exact State.pmflip_memOk h ..
  | vfLqdone _ _ | vfLqrfs _ _ => exact State.vfDone_memOk h ..
  | ret _ => exact execRet_memOk h ..
  | rtt _ => exact execRtt_memOk h ..
  | emov _ => exact execEmov_memOk h ..
  | emovi _ => exact execEmovi_memOk h ..
  | est _ => exact execEst_memOk h ..
  | wsetLd _ => exact execWsetLd_memOk h ..
  | wset _ => exact execWset_memOk h ..
  | wstep _ => exact execWstep_memOk h ..
  | ecbadd _ => exact execEcbadd_memOk h ..
  | ecbwait _ => exact execEcbwait_memOk h ..
  | efence _ => exact execEfence_memOk h ..
  | eend _ => exact execEend_memOk h ..
  | st _ => exact execSt_memOk h ..
  | sts _ => exact execSts_memOk h ..
  | ldt _ => exact execLdt_memOk h ..
  | atom _ => exact execAtom_memOk h ..
  | atoms _ => exact execAtoms_memOk h ..
  | red _ => exact execRed_memOk h ..
  | fence _ => exact execFence_memOk h ..
  | cdisc _ => exact execCdisc_memOk h ..
  | monw _ => exact execMonw_memOk h ..
  | rst _ => exact execRst_memOk h ..
  | wcfl _ => exact execWcfl_memOk h ..
  | replay _ => exact execReplay_memOk h ..
  | rcv _ => exact execRcv_memOk h ..
  | alloc _ => exact execAlloc_memOk h ..
  | free _ => exact execFree_memOk h ..
  | bar _ => exact execBar_memOk h ..
  | cbwait _ => exact execCbwait_memOk h ..
  | cbacq _ => exact execCbacq_memOk h ..
  | cbread _ => exact execCbread_memOk h ..
  | cbar _ => exact execCbar_memOk h ..
  | mxacq _ => exact execMxacq_memOk h ..
  | mxzero _ => exact execMxzero_memOk h ..
  | mxldz _ => exact execMxldz_memOk h ..
  | mxstz _ => exact execMxstz_memOk h ..
  | mxstzReg _ => exact execMxstzReg_memOk h ..
  | rfork _ => exact execRfork_memOk h ..
  | rjoin _ => exact execRjoin_memOk h ..
  | cgload _ => exact execCgload_memOk h ..
  | cgloadFree _ => exact execCgloadFree_memOk h ..
  | cgrun _ => exact execCgrun_memOk h ..
  | tship _ => exact execTship_memOk h ..
  | tsreg _ => exact execTsreg_memOk h ..
  | csrr _ => exact execCsrr_memOk h ..
  | csrw _ => exact execCsrw_memOk h ..
  | tlbinv _ => exact execTlbinv_memOk h ..
  | lqpop _ => exact execLqpop_memOk h ..
  | lqdone _ => exact execLqdone_memOk h ..
  | ctxsave _ => exact execCtxsave_memOk h ..
  | ctxsaveDrop _ => exact execCtxsaveDrop_memOk h ..
  | ctxload _ => exact execCtxload_memOk h ..
  | ctxloadRes _ => exact execCtxloadRes_memOk h ..
  | tgpost _ => exact execTgpost_memOk h ..
  | tgdone _ => exact execTgdone_memOk h ..
  | unallocatedOpcode word => exact execUnallocatedOpcode_memOk h word
  | loadLanding _ _ _ => exact State.landLoad_memOk h ..
  | longOpComplete _ _ _ => exact State.landLong_memOk h ..
  | storeFailure _ => exact execStoreFailure_memOk h ..
  | sleepExpiry _ _ _ => exact execSleepExpiry_memOk h ..
  | monwWake _ _ _ => exact State.monwAgain_memOk h ..
  | monwTimeout _ _ _ => exact execMonwTimeout_memOk h ..
  | flightOverdue _ _ => exact execFlightOverdue_memOk h ..
  | threadAged _ _ _ => exact execThreadAged_memOk h ..
  | blockAdmit _ => exact execBlockAdmit_memOk h ..
  | allocGrant _ => exact State.grantHead_memOk h ..
  | scratchpadRelease _ _ => exact State.releaseSpad_memOk h ..
  | remoteArrival _ _ _ _ _ => exact execRemoteArrival_memOk h ..
  | arrivalRetry _ => exact execArrivalRetry_memOk h ..
  | pressGrant _ => exact State.servePress_memOk h ..
  | pairClaimGrant _ => exact State.serveClaim_memOk h ..
  | pressInstrPerform _ => exact State.performPress_memOk h ..
  | pressRegLanding _ => exact State.landPress_memOk h ..
  | pieceLand _ _ _ _ => exact execPieceLand_memOk h ..
  | wcbDrainTimeout _ _ => exact execWcbDrainTimeout_memOk h ..
  | launchComplete _ => exact execLaunchComplete_memOk h ..
  | nodeDispatch _ => exact execNodeDispatch_memOk h ..
  | rootProgramStart _ => exact execRootProgramStart_memOk h ..
  | sliceExpiry _ => exact execSliceExpiry_memOk h ..
  | eventSlotFreed _ => exact execEventSlotFreed_memOk h ..
  | eventRingRetry _ => exact execEventRingRetry_memOk h ..
  | partSet _ _ => exact execPartSet_memOk h ..
  | vfSet _ _ => exact execVfSet_memOk h ..
  | extAdd _ _ => exact execExtAdd_memOk h ..
  | extDel _ _ => exact execExtDel_memOk h ..
  | pfEvtSet _ => exact State.evtSet_memOk h ..
  | ctxKill _ => exact execCtxKill_memOk h ..
  | mailboxUnknownCode _ _ _ => exact execMailboxUnknownCode_memOk h ..
  | ctxOpen _ => exact execCtxOpen_memOk h ..
  | ctxClose _ _ => exact execCtxClose_memOk h ..
  | vfEvtSet _ _ => exact execVfEvtSet_memOk h ..
  | wayMaskWrite _ _ => exact execWayMaskWrite_memOk h ..
  | vfLqpop _ => exact execVfLqpop_memOk h ..
  | coreSramWrite _ _ => exact execCoreSramWrite_memOk h ..
  | ctxTranslationWrite _ _ _ => exact execCtxTranslationWrite_memOk h ..
  | dieRetireWrite _ _ => exact execDieRetireWrite_memOk h ..
  | dieGovWrite _ _ => exact execDieGovWrite_memOk h ..
  | registerWrite _ _ => exact execRegisterWrite_memOk h ..
  | hostMemrd _ _ _ => exact execHostMemrd_memOk h ..
  | hostMemwr _ _ _ _ _ _ => exact execHostMemwr_memOk h ..
  | hostMeminv _ _ _ => exact execHostMeminv_memOk h ..
  | bisnpResponse _ _ _ => exact execBisnpResponse_memOk h ..
  | bisnpTimeout _ => exact execBisnpTimeout_memOk h ..
  | snpinv _ => exact execSnpinv_memOk h ..
  | snpdata _ => exact execSnpdata_memOk h ..
  | snpcur _ => exact execSnpcur_memOk h ..
  | cxlCacheResponse _ _ _ _ => exact execCxlCacheResponse_memOk h ..
  | viralReceived _ => exact execViralReceived_memOk h ..
  | linkDown _ => exact execLinkDown_memOk h ..
  | linkTrain _ _ _ _ _ => exact execLinkTrain_memOk h ..
  | laneFail _ => exact execLaneFail_memOk h ..
  | laneRetrainDone _ => exact execLaneRetrainDone_memOk h ..
  | peerRequestTimeout _ => exact execPeerRequestTimeout_memOk h ..
  | holdNoticeTimer _ => exact execHoldNoticeTimer_memOk h ..
  | holdNotice _ => exact execHoldNotice_memOk h ..
  | poolMemRequest _ => exact execPoolMemRequest_memOk h ..
  | addDynamicCapacity _ _ _ _ => exact execAddDynamicCapacity_memOk h ..
  | releaseDynamicCapacity _ _ => exact execReleaseDynamicCapacity_memOk h ..
  | vatContribution _ _ _ _ _ _ _ _ _ => exact execVatContribution_memOk h ..
  | vatFetch _ _ _ _ => exact execVatFetch_memOk h ..
  | vatAbort _ _ _ => exact execVatAbort_memOk h ..
  | vatAbortExpiry _ => exact execVatAbortExpiry_memOk h ..
  | contribRetry _ _ _ _ => exact execContribRetry_memOk h ..
  | cgOpComplete _ _ _ _ => exact execCgOpComplete_memOk h ..
  | cgTimeout _ _ _ => exact execCgTimeout_memOk h ..
  | sendpSector _ _ _ _ _ _ _ _ _ => exact execSendpSector_memOk h ..
  | taskPacketReceive _ _ _ _ _ _ _ _ _ => exact execTaskPacketReceive_memOk h ..
  | taskPacketComplete _ _ => exact execTaskPacketComplete_memOk h ..
  | coreLost _ => exact execCoreLost_memOk h ..
  | uncorrectableError _ => exact execUncorrectableError_memOk h ..
  | rowRemap _ _ => exact execRowRemap_memOk h ..
  | governorStep _ _ => exact execGovernorStep_memOk h ..
  | reset _ _ _ => exact execReset_memOk ..
  | recoveryImagePush _ => exact execRecoveryImagePush_memOk h ..
  | engineLoadLanding _ _ => exact execEngineLoadLanding_memOk h ..
  | hdmDecoderCommit _ => exact execHdmDecoderCommit_memOk h ..
  | peerMemRequest _ => exact execPeerMemRequest_memOk h ..
  | taskImageReceive _ _ _ _ => exact execTaskImageReceive_memOk h ..
  | doeRequest _ => exact execDoeRequest_memOk h ..
  | biconflict _ => exact execBiconflict_memOk h ..

theorem runWord_memOk (h : s.MemOk) (w : W96) : OutcomeMemOk (runWord s w) := by
  unfold runWord
  split
  · exact exec_memOk h _
  · split
    · exact State.illegalEngine_memOk h
    · exact State.illegalMember_memOk h

/-- EVERY TURN KEEPS CANONICAL MEMORY. -/
theorem takeTurn_memOk (h : s.MemOk) (t : Turn) : OutcomeMemOk (takeTurn t s) := by
  cases t with
  | issue c slot =>
    have hp := State.prepareSlot_memOk h c slot
    unfold takeTurn
    dsimp only
    split
    · exact Prep.memOk_of_done hp ‹_›
    · exact runWord_memOk (Prep.memOk_of_word hp ‹_›) _
  | engine c e =>
    have hp := State.prepareEngine_memOk h c e
    unfold takeTurn
    dsimp only
    split
    · exact Prep.memOk_of_done hp ‹_›
    · exact runWord_memOk (Prep.memOk_of_word hp ‹_›) _
  | event i =>
    unfold takeTurn
    dsimp only
    split
    · exact exec_memOk (s := { s with cur := ⟨128, 0, false⟩ }) h i
    · exact h
  | tick n =>
    show State.MemOk (if n = 0 then s else s.serveVats.tick n)
    split
    · exact h
    · exact State.tick_memOk (State.serveVats_memOk h) n
  | evictL1 c k => exact State.evictL1_memOk h c k
  | evictL2 k => exact State.evictL2_memOk h k
  | evictFilter k => exact State.evictFilter_memOk h k
  | ack i => exact State.ackWrite_memOk h i
  | fabricStore pkg a bs => exact State.fabricStore_memOk h pkg a bs
  | bind pkg func p => exact State.bindPair_memOk h pkg func p
  | trust p hash => exact State.trustKey_memOk h p hash
  | fabricRange pkg a len on => exact State.fabricRange_memOk h pkg a len on
  | codeSlot pkg func handle on => exact State.codeSlot_memOk h pkg func handle on
  | dcRegion func n base len => exact State.dcRegion_memOk h func n base len

theorem step_memOk (h : s.MemOk) : OutcomeMemOk (step s) := by
  unfold step
  split
  · exact takeTurn_memOk (s := { s with free := s.free + 1, via := .empty }) h _
  · rename_i t rest _
    exact takeTurn_memOk (s := { s with turns := rest, via := .empty }) h t

/-- Settles O59: each step is one turn, and every turn keeps canonical memory. -/
theorem everyStepKeepsMemoryCanonical : Obligations.EveryStepKeepsMemoryCanonical := by
  unfold Obligations.EveryStepKeepsMemoryCanonical
  intro s t h e
  exact memOk_of_next (step_memOk h) e

end Sys2Proof.Machine
end

section
/-!
PROOFS. Rounding (R75, R77). The magnitude patterns of a format, read in order, are a strictly increasing ladder of values; `roundMag` finds the rung at or below the exact
value and answers it or the next one, as the mode says. Both halves of the obligation follow: within the finite range no other pattern lies between the two rungs, and a result of
at least twice the greatest finite value has its lower rung already above that value.
-/
namespace Sys2Proof

-- The ladder of magnitudes

/-- The value of a magnitude pattern in units of the smallest subnormal (R72), with the exponent unbounded above as in R77. -/
def Fmt.steps (f : Fmt) (g : Nat) : Nat := (g - (g / 2 ^ f.fbits - 1) * 2 ^ f.fbits) * 2 ^ (g / 2 ^ f.fbits - 1)

/-- The value of a magnitude pattern in units of 2^e0. -/
def Fmt.rung (f : Fmt) (e0 : Int) (g : Nat) : Nat := f.steps g * 2 ^ (f.emin - e0).toNat

/-- A magnitude under a sign. -/
def signedMag (neg : Bool) (k : Nat) : Int := if neg then -(k : Int) else k

theorem FVal.units_fin (e0 : Int) (n : Bool) (m : Nat) (e : Int) :
    (FVal.fin n m e).units e0 = signedMag n (m * 2 ^ (e - e0).toNat) := rfl

@[simp] theorem signedMag_false (k : Nat) : signedMag false k = k := rfl

@[simp] theorem signedMag_true (k : Nat) : signedMag true k = -(k : Int) := rfl

@[simp] theorem signedMag_not (n : Bool) (k : Nat) : signedMag (!n) k = -signedMag n k := by
  cases n with
  | false => rfl
  | true => exact (Int.neg_neg _).symm

@[simp] theorem natAbs_signedMag (n : Bool) (k : Nat) : (signedMag n k).natAbs = k := by
  cases n with
  | false => exact Int.natAbs_natCast k
  | true => exact (Int.natAbs_neg _).trans (Int.natAbs_natCast k)

/-- The value of the pattern that `roundMag` builds of a binade s and a significand y, also when y has carried into the next binade. -/
theorem Fmt.steps_binade (f : Fmt) {s y : Nat} (hs : s = 0 ∨ 2 ^ f.fbits ≤ y) (hy : y ≤ 2 * 2 ^ f.fbits) :
    f.steps (s * 2 ^ f.fbits + y) = y * 2 ^ s := by
  have hF : 0 < 2 ^ f.fbits := Nat.two_pow_pos _
  have hdiv : (s * 2 ^ f.fbits + y) / 2 ^ f.fbits = s + y / 2 ^ f.fbits := by rw [Nat.add_comm, Nat.add_mul_div_right _ _ hF, Nat.add_comm]
  unfold Fmt.steps
  rw [hdiv]
  obtain rfl | hlt := Nat.eq_or_lt_of_le hy
  · have e : s * 2 ^ f.fbits + 2 * 2 ^ f.fbits - (s + 1) * 2 ^ f.fbits = 2 ^ f.fbits := by rw [Nat.add_mul s 1]; omega
    rw [Nat.mul_div_cancel _ hF, show s + 2 - 1 = s + 1 from rfl, e, Nat.pow_succ, Nat.mul_comm (2 ^ s), ← Nat.mul_assoc, Nat.mul_comm 2]
  · have e : s + y / 2 ^ f.fbits - 1 = s := by
      have hle : y / 2 ^ f.fbits < 2 := Nat.div_lt_of_lt_mul (by omega)
      obtain rfl | h := hs
      · omega
      · have := Nat.div_pos h hF
        omega
    rw [e, Nat.add_sub_cancel_left]

/-- Every magnitude pattern is a binade and a significand. -/
theorem Fmt.exists_binade (f : Fmt) (g : Nat) :
    ∃ s y, g = s * 2 ^ f.fbits + y ∧ (s = 0 ∨ 2 ^ f.fbits ≤ y) ∧ y < 2 * 2 ^ f.fbits := by
  have hmod := Nat.mod_lt g (Nat.two_pow_pos f.fbits)
  have hdiv := Nat.div_add_mod' g (2 ^ f.fbits)
  cases h : g / 2 ^ f.fbits with
  | zero =>
    rw [h] at hdiv
    exact ⟨0, g, by omega, .inl rfl, by omega⟩
  | succ s =>
    rw [h, Nat.add_one_mul] at hdiv
    exact ⟨s, 2 ^ f.fbits + g % 2 ^ f.fbits, by omega, .inr (Nat.le_add_right _ _), by omega⟩

/-- The next rung is higher, and beyond the first at most twice as high. -/
theorem Fmt.steps_succ (f : Fmt) (g : Nat) :
    f.steps g < f.steps (g + 1) ∧ (1 ≤ g → f.steps (g + 1) ≤ 2 * f.steps g) := by
  obtain ⟨s, y, rfl, hs, hy⟩ := f.exists_binade g
  rw [f.steps_binade hs (Nat.le_of_lt hy), Nat.add_assoc, f.steps_binade (hs.imp_right Nat.le_succ_of_le) hy, ← Nat.mul_assoc]
  refine ⟨Nat.mul_lt_mul_of_pos_right y.lt_succ_self (Nat.two_pow_pos _), fun h => Nat.mul_le_mul_right _ ?_⟩
  have : 1 ≤ y := by
    obtain rfl | h' := hs
    · omega
    · exact Nat.le_trans Nat.one_le_two_pow h'
  omega

theorem Fmt.rung_lt_succ (f : Fmt) (e0 : Int) (g : Nat) : f.rung e0 g < f.rung e0 (g + 1) :=
  Nat.mul_lt_mul_of_pos_right (f.steps_succ g).1 (Nat.two_pow_pos _)

theorem Fmt.rung_mono (f : Fmt) (e0 : Int) {g g' : Nat} (h : g ≤ g') : f.rung e0 g ≤ f.rung e0 g' := by
  induction h with
  | refl => exact Nat.le_refl _
  | step _ ih => exact Nat.le_trans ih (Nat.le_of_lt (f.rung_lt_succ e0 _))

theorem Fmt.rung_le_iff {f : Fmt} {e0 : Int} {g g' : Nat} : f.rung e0 g ≤ f.rung e0 g' ↔ g ≤ g' :=
  ⟨fun h => Nat.le_of_not_lt fun hlt => Nat.not_le_of_lt (Nat.lt_of_lt_of_le (f.rung_lt_succ e0 g') (f.rung_mono e0 hlt)) h, f.rung_mono e0⟩

theorem Fmt.rung_lt_iff {f : Fmt} {e0 : Int} {g g' : Nat} : f.rung e0 g < f.rung e0 g' ↔ g < g' := by
  rw [← Nat.not_le, Fmt.rung_le_iff, Nat.not_le]

theorem Fmt.rung_succ_le (f : Fmt) (e0 : Int) {g : Nat} (h : 1 ≤ g) : f.rung e0 (g + 1) ≤ f.rung e0 g * 2 := by
  unfold Fmt.rung
  rw [Nat.mul_right_comm, Nat.mul_comm _ 2]
  exact Nat.mul_le_mul_right _ ((f.steps_succ g).2 h)

-- Patterns and the ladder

/-- What the seven formats of R72 have in common. -/
theorem Spec.formats_layout : ∀ f ∈ Spec.formats, 1 ≤ f.fbits ∧ 1 ≤ f.maxMag ∧ f.maxMag < f.signBit ∧ f.signBit % 2 = 0 ∧
    (f.ieee = true → f.maxMag < f.infMag) ∧ (f.ieee = false → f.fbits = 3 → f.maxMag < 0x7F) := by
  decide

@[simp] theorem Fmt.pat_false (f : Fmt) (g : Nat) : f.pat false g = g := Nat.zero_add g

@[simp] theorem Fmt.pat_true (f : Fmt) (g : Nat) : f.pat true g = f.signBit + g := rfl

theorem Fmt.pat_mod {f : Fmt} {g : Nat} (n : Bool) (hg : g < f.signBit) : f.pat n g % f.signBit = g := by
  cases n with
  | false => rw [Fmt.pat_false, Nat.mod_eq_of_lt hg]
  | true => rw [Fmt.pat_true, Nat.add_mod_left, Nat.mod_eq_of_lt hg]

theorem Fmt.pat_sign {f : Fmt} {g : Nat} (n : Bool) (hg : g < f.signBit) : decide (f.pat n g / f.signBit % 2 = 1) = n := by
  cases n with
  | false =>
    have hdiv : f.pat false g / f.signBit = 0 := by rw [Fmt.pat_false, Nat.div_eq_of_lt hg]
    exact decide_eq_false (by omega)
  | true =>
    have hdiv : f.pat true g / f.signBit = 1 := by rw [Fmt.pat_true, Nat.add_div_left _ (Nat.zero_lt_of_lt hg), Nat.div_eq_of_lt hg]
    exact decide_eq_true (by omega)

theorem Fmt.pat_lt {f : Fmt} {g : Nat} (n : Bool) (hg : g < f.signBit) : f.pat n g < 2 * f.signBit := by
  cases n with
  | false => rw [Fmt.pat_false]; omega
  | true => rw [Fmt.pat_true]; omega

/-- A finite pattern stands for its rung of the ladder, under its sign. -/
theorem units_valueOf {f : Fmt} {b : Nat} {e0 : Int} (he : e0 ≤ f.emin) (hb : ∃ n m e, valueOf f b false = .fin n m e) :
    (valueOf f b false).units e0 = signedMag (decide (b / f.signBit % 2 = 1)) (f.rung e0 (b % f.signBit)) := by
  obtain ⟨n, m, e, hb⟩ := hb
  have hdiv := Nat.div_add_mod' (b % f.signBit) (2 ^ f.fbits)
  unfold valueOf at hb ⊢
  dsimp only at hb ⊢
  split at hb
  · cases hb
  split at hb
  · cases hb
  rw [if_neg ‹_›, if_neg ‹_›]
  unfold Fmt.rung Fmt.steps
  cases h : b % f.signBit / 2 ^ f.fbits with
  | zero =>
    rw [h, Nat.zero_mul, Nat.zero_add] at hdiv
    rw [if_pos rfl, if_neg Bool.false_ne_true, FVal.units_fin, hdiv, Nat.zero_sub, Nat.zero_mul, Nat.sub_zero, Nat.pow_zero, Nat.mul_one]
  | succ x =>
    rw [h] at hdiv
    have hfr : b % f.signBit - x * 2 ^ f.fbits = 2 ^ f.fbits + b % f.signBit % 2 ^ f.fbits := by
      rw [Nat.add_mul] at hdiv
      omega
    have hexp : (f.emin + (x : Int) - e0).toNat = x + (f.emin - e0).toNat := by omega
    simp only [Nat.add_one_ne_zero, if_false, Nat.add_sub_cancel, FVal.units_fin, hfr, hexp, Nat.pow_add, Nat.mul_assoc]

/-- Up to the greatest finite magnitude every pattern is finite. -/
theorem Fmt.finite_pat {f : Fmt} (hf : f ∈ Spec.formats) (n : Bool) {g : Nat} (hg : g ≤ f.maxMag) : Spec.finite f (f.pat n g) := by
  obtain ⟨-, -, hmax, -, hinf, hnan⟩ := Spec.formats_layout f hf
  have hlt := Nat.lt_of_le_of_lt hg hmax
  refine ⟨Fmt.pat_lt n hlt, ?_⟩
  unfold valueOf Fmt.isNaN
  dsimp only
  rw [Fmt.pat_mod n hlt]
  cases hi : f.ieee with
  | true =>
    have := hinf hi
    rw [if_neg (by simp only [if_true, decide_eq_true_eq]; omega), if_neg (by simp only [Bool.true_and, beq_iff_eq]; omega)]
    split <;> exact ⟨_, _, _, rfl⟩
  | false =>
    have : ¬(f.fbits = 3 ∧ g = 127) := fun ⟨h3, h⟩ => by
      have := hnan hi h3
      omega
    rw [if_neg (by simpa only [Bool.false_eq_true, if_false, Bool.and_eq_true, beq_iff_eq] using this),
      if_neg (by simp only [Bool.false_and, Bool.false_eq_true, not_false_eq_true])]
    split <;> exact ⟨_, _, _, rfl⟩

theorem units_pat {f : Fmt} (hf : f ∈ Spec.formats) {e0 : Int} (he : e0 ≤ f.emin) (n : Bool) {g : Nat} (hg : g ≤ f.maxMag) :
    (valueOf f (f.pat n g) false).units e0 = signedMag n (f.rung e0 g) := by
  obtain ⟨-, -, hmax, -⟩ := Spec.formats_layout f hf
  have hlt := Nat.lt_of_le_of_lt hg hmax
  rw [units_valueOf he (Fmt.finite_pat hf n hg).2, Fmt.pat_sign n hlt, Fmt.pat_mod n hlt]

theorem units_maxMag {f : Fmt} (hf : f ∈ Spec.formats) {e0 : Int} (he : e0 ≤ f.emin) :
    ((valueOf f f.maxMag false).units e0).natAbs = f.rung e0 f.maxMag := by
  have := units_pat hf he false (Nat.le_refl _)
  rw [Fmt.pat_false] at this
  rw [this, natAbs_signedMag]

-- Rounding to a rung

/-- Whether a mode rounds a magnitude x, at or above rung g of value lo and below the next of value hi, up to the next (R75). -/
def Rnd.Up (mode : Rnd) (neg : Bool) (g lo x hi : Nat) : Prop :=
  match mode with
  | .rz => False
  | .rd => neg = true ∧ lo < x
  | .ru => neg = false ∧ lo < x
  | .rne => lo + hi < 2 * x ∨ (lo + hi = 2 * x ∧ g % 2 = 1)

theorem Rnd.up_rne {neg : Bool} {g lo x hi : Nat} : Rnd.rne.Up neg g lo x hi ↔ lo + hi < 2 * x ∨ (lo + hi = 2 * x ∧ g % 2 = 1) := Iff.rfl

/-- Rounding answers rung g, or the next one where the mode rounds up. -/
def Rnd.Picks (mode : Rnd) (neg : Bool) (g lo x hi p : Nat) : Prop :=
  (mode.Up neg g lo x hi ∧ p = g + 1) ∨ (¬ mode.Up neg g lo x hi ∧ p = g)

theorem Rnd.picks_ite {mode : Rnd} {neg up : Bool} {g lo x hi : Nat} (h : up = true ↔ mode.Up neg g lo x hi) :
    mode.Picks neg g lo x hi (if up then g + 1 else g) := by
  cases up with
  | true => exact .inl ⟨h.1 rfl, rfl⟩
  | false => exact .inr ⟨fun hup => Bool.false_ne_true (h.2 hup), rfl⟩

/-- Patterns of one binade: what holds of significands holds of the patterns, for the binade adds an even number. -/
theorem Rnd.Picks.add_binade {mode : Rnd} {neg : Bool} {g lo x hi p : Nat} {c : Nat} (h : mode.Picks neg g lo x hi p) (hc : c % 2 = 0) :
    mode.Picks neg (c + g) lo x hi (c + p) := by
  have hodd : (c + g) % 2 = g % 2 := by omega
  have hup : mode.Up neg (c + g) lo x hi ↔ mode.Up neg g lo x hi := by cases mode <;> simp only [Rnd.Up, hodd]
  exact h.imp (fun ⟨u, e⟩ => ⟨hup.2 u, by omega⟩) fun ⟨u, e⟩ => ⟨mt hup.1 u, by omega⟩

/-- Nothing exact is rounded up. -/
theorem Rnd.Up.lt {mode : Rnd} {neg : Bool} {g lo x hi : Nat} (h : mode.Up neg g lo x hi) (hhi : x < hi) : lo < x := by
  cases mode with
  | rz => exact h.elim
  | rd | ru => exact h.2
  | rne => rw [Rnd.up_rne] at h; omega

/-- A significand without its low k bits is a rung of values that are 2^k units of weight w apart, and `roundShift` rounds between these. -/
theorem roundShift_picks (m k : Nat) (mode : Rnd) (neg : Bool) {w : Nat} (hw : 0 < w) :
    mode.Picks neg (m / 2 ^ k) (m / 2 ^ k * (2 ^ k * w)) (m * w) ((m / 2 ^ k + 1) * (2 ^ k * w)) (roundShift m k false mode neg) := by
  have hx : m * w = m / 2 ^ k * (2 ^ k * w) + m % 2 ^ k * w := by rw [← Nat.mul_assoc, ← Nat.add_mul, Nat.div_add_mod']
  have hpos : m % 2 ^ k ≠ 0 ↔ 0 < m % 2 ^ k * w :=
    Nat.pos_iff_ne_zero.symm.trans ⟨fun h => Nat.mul_pos h hw, Nat.pos_of_mul_pos_right⟩
  have hinexact : m / 2 ^ k * (2 ^ k * w) < m * w ↔ m % 2 ^ k ≠ 0 := by omega
  refine Rnd.picks_ite ?_
  cases mode with
  | rz => exact iff_of_false Bool.false_ne_true id
  | rd => simp only [Rnd.Up, hinexact, Bool.false_or, Bool.and_eq_true, decide_eq_true_eq]
  | ru => simp only [Rnd.Up, hinexact, Bool.false_or, Bool.and_eq_true, Bool.not_eq_true', decide_eq_true_eq]
  | rne =>
    rw [Rnd.up_rne, Nat.add_one_mul]
    cases k with
    | zero =>
      have hr : m % 2 ^ 0 = 0 := Nat.mod_one m
      have hgap : 0 < 2 ^ 0 * w := Nat.mul_pos (Nat.two_pow_pos 0) hw
      rw [hr, Nat.zero_mul] at hx
      exact iff_of_false Bool.false_ne_true (by omega)
    | succ k =>
      have hlt : 2 ^ k < m % 2 ^ (k + 1) ↔ 2 ^ k * w < m % 2 ^ (k + 1) * w := (Nat.mul_lt_mul_right hw).symm
      have heq : m % 2 ^ (k + 1) = 2 ^ k ↔ m % 2 ^ (k + 1) * w = 2 ^ k * w := (Nat.mul_right_cancel_iff hw).symm
      have hgap : 2 ^ (k + 1) * w = 2 * (2 ^ k * w) := by rw [Nat.pow_succ, Nat.mul_comm (2 ^ k), Nat.mul_assoc]
      simp only [Nat.add_one_ne_zero, if_false, Nat.add_sub_cancel, Bool.false_or, Bool.or_eq_true, Bool.and_eq_true, decide_eq_true_eq, beq_iff_eq,
        gt_iff_lt, hlt, heq]
      omega

/-- A shift by no bits is exact, and nothing exact is rounded up. -/
theorem roundShift_zero (m : Nat) (mode : Rnd) (neg : Bool) : roundShift m 0 false mode neg = m := by
  have hpick := roundShift_picks m 0 mode neg Nat.one_pos
  rw [Nat.pow_zero, Nat.div_one, Nat.mul_one, Nat.mul_one] at hpick
  obtain ⟨up, -⟩ | ⟨-, h⟩ := hpick
  · exact absurd (up.lt (Nat.lt_succ_self m)) (Nat.lt_irrefl m)
  · exact h

/-- `roundMag` is `roundShift` on the grid of 2^q: the significand scaled up to the grid, or shifted down to it. -/
theorem roundMag_eq (f : Fmt) (m : Nat) (e q : Int) (mode : Rnd) (neg : Bool) (hq : q = max ((Nat.log2 m : Int) + e - f.fbits) f.emin) :
    roundMag f m e false mode neg = (q - f.emin).toNat * 2 ^ f.fbits + roundShift (m * 2 ^ (e - q).toNat) (q - e).toNat false mode neg := by
  unfold roundMag
  dsimp only
  rw [← hq]
  by_cases h : q ≤ e
  · have hk : (q - e).toNat = 0 := by omega
    rw [if_pos h, hk, roundShift_zero]
  · have hk : (e - q).toNat = 0 := by omega
    rw [if_neg h, hk, Nat.pow_zero, Nat.mul_one]

/-- On the grid of 2^q a significand has at most fbits + 1 bits, and exactly so many in the binades of normal numbers. -/
theorem significand_bounds (f : Fmt) {m : Nat} (hm : m ≠ 0) (e q : Int) (hq : q = max ((Nat.log2 m : Int) + e - f.fbits) f.emin) :
    m * 2 ^ (e - q).toNat / 2 ^ (q - e).toNat < 2 * 2 ^ f.fbits ∧
    ((q - f.emin).toNat = 0 ∨ 2 ^ f.fbits ≤ m * 2 ^ (e - q).toNat / 2 ^ (q - e).toNat) := by
  constructor
  · apply Nat.div_lt_of_lt_mul
    calc m * 2 ^ (e - q).toNat < 2 ^ (m.log2 + 1) * 2 ^ (e - q).toNat := Nat.mul_lt_mul_of_pos_right Nat.lt_log2_self (Nat.two_pow_pos _)
      _ = 2 ^ (m.log2 + 1 + (e - q).toNat) := (Nat.pow_add _ _ _).symm
      _ ≤ 2 ^ ((q - e).toNat + (1 + f.fbits)) := Nat.pow_le_pow_right Nat.two_pos (by omega)
      _ = 2 ^ (q - e).toNat * (2 * 2 ^ f.fbits) := by rw [Nat.pow_add, Nat.pow_add, Nat.pow_one]
  · refine Decidable.or_iff_not_imp_left.2 fun hs => (Nat.le_div_iff_mul_le (Nat.two_pow_pos _)).2 ?_
    calc 2 ^ f.fbits * 2 ^ (q - e).toNat = 2 ^ (m.log2 + (e - q).toNat) := by rw [← Nat.pow_add]; congr 1; omega
      _ = 2 ^ m.log2 * 2 ^ (e - q).toNat := Nat.pow_add _ _ _
      _ ≤ m * 2 ^ (e - q).toNat := Nat.mul_le_mul_right _ (Nat.log2_self_le hm)

/-- `roundMag` rounds to a rung or the next one, the rung being the greatest that is not above the value. -/
theorem roundMag_picks {f : Fmt} (hf : 1 ≤ f.fbits) {m : Nat} (hm : m ≠ 0) {e e0 : Int} (he : e0 ≤ e) (he0 : e0 ≤ f.emin) (mode : Rnd) (neg : Bool) :
    ∃ g, f.rung e0 g ≤ m * 2 ^ (e - e0).toNat ∧ m * 2 ^ (e - e0).toNat < f.rung e0 (g + 1) ∧
      mode.Picks neg g (f.rung e0 g) (m * 2 ^ (e - e0).toNat) (f.rung e0 (g + 1)) (roundMag f m e false mode neg) := by
  obtain ⟨q, hq⟩ : ∃ q, q = max ((Nat.log2 m : Int) + e - f.fbits) f.emin := ⟨_, rfl⟩
  obtain ⟨hlt, hs⟩ := significand_bounds f hm e q hq
  have hx : m * 2 ^ (e - e0).toNat = m * 2 ^ (e - q).toNat * 2 ^ (min q e - e0).toNat := by
    rw [Nat.mul_assoc, ← Nat.pow_add]
    congr 2
    omega
  have hunit : 2 ^ (q - e).toNat * 2 ^ (min q e - e0).toNat = 2 ^ (q - f.emin).toNat * 2 ^ (f.emin - e0).toNat := by
    rw [← Nat.pow_add, ← Nat.pow_add]
    congr 1
    omega
  have hrung : ∀ y, ((q - f.emin).toNat = 0 ∨ 2 ^ f.fbits ≤ y) → y ≤ 2 * 2 ^ f.fbits →
      f.rung e0 ((q - f.emin).toNat * 2 ^ f.fbits + y) = y * (2 ^ (q - e).toNat * 2 ^ (min q e - e0).toNat) := fun y h h' => by
    rw [Fmt.rung, f.steps_binade h h', hunit, Nat.mul_assoc]
  rw [hx, roundMag_eq f m e q mode neg hq]
  refine ⟨(q - f.emin).toNat * 2 ^ f.fbits + m * 2 ^ (e - q).toNat / 2 ^ (q - e).toNat, ?_⟩
  rw [Nat.add_assoc, hrung _ hs (Nat.le_of_lt hlt), hrung _ (hs.imp_right Nat.le_succ_of_le) hlt]
  refine ⟨?_, ?_, (roundShift_picks _ _ mode neg (Nat.two_pow_pos _)).add_binade ?_⟩
  · rw [← Nat.mul_assoc]
    exact Nat.mul_le_mul_right _ (Nat.div_mul_le_self _ _)
  · rw [← Nat.mul_assoc]
    exact Nat.mul_lt_mul_of_pos_right ((Nat.div_lt_iff_lt_mul (Nat.two_pow_pos _)).1 (Nat.lt_succ_self _)) (Nat.two_pow_pos _)
  · rw [Nat.mul_mod, Nat.two_pow_mod_two_eq_zero.2 hf, Nat.mul_zero, Nat.zero_mod]

-- The value of the mode

section
variable {n nb : Bool} {f : Fmt} {e0 : Int} {x g gy gz : Nat} (hlo : f.rung e0 g ≤ x) (hhi : x < f.rung e0 (g + 1))

/-- No value of the ladder lies between two rungs that follow one another. -/
theorem Fmt.rung_apart (f : Fmt) (e0 : Int) (g gy : Nat) : f.rung e0 gy ≤ f.rung e0 g ∨ f.rung e0 (g + 1) ≤ f.rung e0 gy :=
  (Nat.lt_or_ge g gy).symm.imp (f.rung_mono e0) (f.rung_mono e0)

include hlo hhi

theorem Rnd.Picks.rz_nearest (h : Rnd.rz.Picks n g (f.rung e0 g) x (f.rung e0 (g + 1)) gz) :
    0 ≤ signedMag n (f.rung e0 gz) * signedMag n x ∧ f.rung e0 gz ≤ x ∧ (f.rung e0 gy ≤ x → f.rung e0 gy ≤ f.rung e0 gz) := by
  obtain ⟨⟨⟩, -⟩ | ⟨-, rfl⟩ := h
  refine ⟨?_, hlo, fun hy => (f.rung_apart e0 _ _).resolve_right (by omega)⟩
  cases n with
  | false => exact Int.mul_nonneg (Int.natCast_nonneg _) (Int.natCast_nonneg _)
  | true => exact Int.mul_nonneg_of_nonpos_of_nonpos (Int.neg_nonpos_of_nonneg (Int.natCast_nonneg _)) (Int.neg_nonpos_of_nonneg (Int.natCast_nonneg _))

theorem Rnd.Picks.rd_greatest (h : Rnd.rd.Picks n g (f.rung e0 g) x (f.rung e0 (g + 1)) gz) :
    signedMag n (f.rung e0 gz) ≤ signedMag n x ∧ (signedMag nb (f.rung e0 gy) ≤ signedMag n x → signedMag nb (f.rung e0 gy) ≤ signedMag n (f.rung e0 gz)) := by
  have hy := f.rung_apart e0 g gy
  obtain ⟨⟨rfl, hlt⟩, rfl⟩ | ⟨up, rfl⟩ := h
  · cases nb <;> simp only [signedMag_false, signedMag_true] <;> omega
  · cases n with
    | false => cases nb <;> simp only [signedMag_false, signedMag_true] <;> omega
    | true =>
      have hexact : f.rung e0 gz = x := Nat.le_antisymm hlo (Nat.le_of_not_lt fun hlt => up ⟨rfl, hlt⟩)
      have hz : signedMag true (f.rung e0 gz) = signedMag true x := congrArg _ hexact
      exact ⟨Int.le_of_eq hz, fun h => Int.le_trans h (Int.le_of_eq hz.symm)⟩

/-- RU is RD of the negated values. -/
theorem Rnd.Picks.ru_least (h : Rnd.ru.Picks n g (f.rung e0 g) x (f.rung e0 (g + 1)) gz) :
    signedMag n x ≤ signedMag n (f.rung e0 gz) ∧ (signedMag n x ≤ signedMag nb (f.rung e0 gy) → signedMag n (f.rung e0 gz) ≤ signedMag nb (f.rung e0 gy)) := by
  have hrd : Rnd.rd.Picks (!n) g (f.rung e0 g) x (f.rung e0 (g + 1)) gz := by simpa only [Rnd.Picks, Rnd.Up, Bool.not_eq_true'] using h
  simpa only [signedMag_not, Int.neg_le_neg_iff] using hrd.rd_greatest (nb := !nb) (gy := gy) hlo hhi

theorem Rnd.Picks.rne_nearest (h : Rnd.rne.Picks n g (f.rung e0 g) x (f.rung e0 (g + 1)) gz) :
    (signedMag n (f.rung e0 gz) - signedMag n x).natAbs ≤ (signedMag nb (f.rung e0 gy) - signedMag n x).natAbs ∧
    ((signedMag n (f.rung e0 gz) - signedMag n x).natAbs = (signedMag nb (f.rung e0 gy) - signedMag n x).natAbs → signedMag nb (f.rung e0 gy) ≠ signedMag n (f.rung e0 gz) → gz % 2 = 0) := by
  have hy := f.rung_apart e0 g gy
  rw [Rnd.Picks, Rnd.up_rne] at h
  -- The rung not picked is no nearer; where it is as near, the even one is picked.
  obtain ⟨up, rfl⟩ | ⟨up, rfl⟩ := h
  · cases n <;> cases nb <;> simp only [signedMag_false, signedMag_true] <;> omega
  · cases n <;> cases nb <;> simp only [signedMag_false, signedMag_true] <;> omega

end

/-- A magnitude within the finite range rounds to one within it. -/
theorem Rnd.Picks.le_of_le {mode : Rnd} {n : Bool} {f : Fmt} {e0 : Int} {x g gz top : Nat} (hlo : f.rung e0 g ≤ x) (hhi : x < f.rung e0 (g + 1)) (hx : x ≤ f.rung e0 top)
    (h : mode.Picks n g (f.rung e0 g) x (f.rung e0 (g + 1)) gz) : gz ≤ top := by
  obtain ⟨up, rfl⟩ | ⟨-, rfl⟩ := h
  · exact Fmt.rung_lt_iff.1 (Nat.lt_of_lt_of_le (up.lt hhi) hx)
  · exact Fmt.rung_le_iff.1 (Nat.le_trans hlo hx)

theorem Fmt.pat_mod_two {f : Fmt} (hf : f ∈ Spec.formats) (n : Bool) (g : Nat) : f.pat n g % 2 = g % 2 := by
  obtain ⟨-, -, -, heven, -⟩ := Spec.formats_layout f hf
  cases n with
  | false => rw [Fmt.pat_false]
  | true => rw [Fmt.pat_true]; omega

theorem roundMode_of_le {f : Fmt} {n : Bool} {m : Nat} {e : Int} {mode : Rnd} (hm : m ≠ 0) (h : roundMag f m e false mode n ≤ f.maxMag) :
    roundMode f (.fin n m e) mode false false = f.pat n (roundMag f m e false mode n) := by
  simp only [roundMode, roundModeS, if_neg hm, gt_iff_lt, if_neg (Nat.not_lt.2 h), Bool.false_and, Bool.false_eq_true, if_false]

theorem roundMode_of_gt {f : Fmt} {n ftz sat : Bool} {m : Nat} {e : Int} {mode : Rnd} (hm : m ≠ 0) (h : f.maxMag < roundMag f m e false mode n) :
    roundMode f (.fin n m e) mode ftz sat = overflowResult f n mode sat false := by
  simp only [roundMode, roundModeS, if_neg hm, gt_iff_lt, if_pos h]

theorem Spec.roundingModes : Spec.RoundingModes := by
  intro f mode n m e e0 hf hm he he0 u x hx p
  obtain ⟨hF, -⟩ := Spec.formats_layout f hf
  have hux : u x = signedMag n (m * 2 ^ (e - e0).toNat) := rfl
  obtain ⟨g, hlo, hhi, hpick⟩ := roundMag_picks hF hm he he0 mode n
  have hmax : roundMag f m e false mode n ≤ f.maxMag := by
    refine hpick.le_of_le hlo hhi ?_
    have htop : (u (valueOf f f.maxMag false)).natAbs = f.rung e0 f.maxMag := units_maxMag hf he0
    rwa [hux, natAbs_signedMag, htop] at hx
  have hp : p = f.pat n (roundMag f m e false mode n) := roundMode_of_le hm hmax
  refine ⟨hp ▸ Fmt.finite_pat hf n hmax, fun b hb => ?_⟩
  have huz : u (valueOf f p false) = signedMag n (f.rung e0 (roundMag f m e false mode n)) := hp ▸ units_pat hf he0 n hmax
  have huy : u (valueOf f b false) = _ := units_valueOf he0 hb.2
  dsimp only
  rw [hux, huz, huy]
  cases mode with
  | rz => simpa only [natAbs_signedMag] using hpick.rz_nearest hlo hhi
  | rd => exact hpick.rd_greatest hlo hhi
  | ru => exact hpick.ru_least hlo hhi
  | rne =>
    rw [hp, Fmt.pat_mod_two hf]
    exact hpick.rne_nearest hlo hhi

-- Overflow

/-- The two formats without infinities, as `overflowResult` tells them apart (R72). -/
theorem Spec.formats_without_inf : ∀ f ∈ Spec.formats, ((f.ieee = false ∧ f.fbits = 1) ↔ f = fmtF4) ∧ (f.ieee = false ↔ f = fmtF4 ∨ f = fmtF8E4) := by
  decide

/-- What an overflow of a finite value gives, format by format (R77). -/
theorem overflowResult_finite {f : Fmt} (hf : f ∈ Spec.formats) (n : Bool) (mode : Rnd) (sat : Bool) :
    overflowResult f n mode sat false =
      if (mode = .rz ∨ (mode = .rd ∧ n = false) ∨ (mode = .ru ∧ n = true)) ∨ sat = true ∨ f = fmtF4 then f.pat n f.maxMag
      else if f = fmtF8E4 then 0x7F
      else f.pat n f.infMag := by
  obtain ⟨hF4, hieee⟩ := Spec.formats_without_inf f hf
  have hbig : (mode == .rne || (mode == .ru && !n) || (mode == .rd && n)) = false ↔
      (mode = .rz ∨ (mode = .rd ∧ n = false) ∨ (mode = .ru ∧ n = true)) := by cases mode <;> cases n <;> decide
  unfold overflowResult
  simp only [Bool.false_or, Bool.or_eq_true, Bool.and_eq_true, Bool.not_eq_true', beq_iff_eq, hF4, hbig]
  refine ite_congr (propext (by rw [or_assoc, or_left_comm])) (fun _ => rfl) fun h => ?_
  obtain ⟨-, -, hne⟩ := not_or.1 h |>.imp_right not_or.1
  refine ite_congr (propext (hieee.trans (or_iff_right hne))) (fun h8 => h8 ▸ rfl) fun _ => rfl

theorem Spec.roundingOverflow : Spec.RoundingOverflow := by
  intro f mode ftz sat n m e e0 hf he he0 hx inward
  obtain ⟨hF, hone, -⟩ := Spec.formats_layout f hf
  rw [units_maxMag hf he0, FVal.units_fin, natAbs_signedMag] at hx
  have hpos : 0 < f.rung e0 f.maxMag := Nat.lt_of_le_of_lt (Nat.zero_le _) (Fmt.rung_lt_iff.2 hone)
  have hm : m ≠ 0 := fun h => by
    rw [h, Nat.zero_mul] at hx
    omega
  obtain ⟨g, -, hhi, hpick⟩ := roundMag_picks hF hm he he0 mode n
  have hg : f.maxMag < g := Nat.lt_of_succ_lt_succ (Fmt.rung_lt_iff.1 (Nat.lt_of_le_of_lt (Nat.le_trans (f.rung_succ_le e0 hone) hx) hhi))
  have hmag : f.maxMag < roundMag f m e false mode n := by
    obtain ⟨-, h⟩ | ⟨-, h⟩ := hpick <;> omega
  rw [roundMode_of_gt hm hmag, overflowResult_finite hf]
  rfl

/-- Settles O9: within the finite range by the two rungs about the value, beyond it by the lower rung. -/
theorem rounding : Obligations.Rounding := by
  unfold Obligations.Rounding
  exact ⟨Spec.roundingModes, Spec.roundingOverflow⟩

end Sys2Proof
end

section
/-!
PROOFS. Taking a trap (R105, R106, R109). The frame is stored through the memory system, and the thread must be found afterwards as it was. So the first part is a frame rule for the
memory system: an access touches the memories, the L2 and the caches of the cores, and leaves the agents as they were: their flights, blocks and engine threads, the contexts, and the
agent at work. Each function that an access is made of has one equation that says so, proved from those of the functions that it calls. The second part says what taking a trap does in
each of its three outcomes.
-/
namespace Sys2Proof.Machine

open Sys2Proof

-- ---------------------------------------------------------------------------------------------
-- What an access to memory leaves as it was

/-- A core without its caches: what memory accesses leave of it. -/
def Core.bare (k : Core) : Core := { k with l1 := .empty, wcb := [], tlb := [], icache := .empty }

/-- The cores without their caches, by number. -/
def bareCores (m : KMap Core) (c : Nat) : Core := (m.getD c Core.reset).bare

/-- The agents of a package, which memory accesses leave as they were. -/
structure Agents where
  cores : Nat → Core
  ctxs : KMap Ctx
  groups : KMap Group
  launches : KMap Launch
  cur : Cursor
  clock : Nat

/-- The agents of a state. -/
def State.agents (s : State) : Agents := ⟨bareCores s.cores, s.ctxs, s.groups, s.launches, s.cur, s.clock⟩

variable {s t : State} {α β ι : Type} {g : Agents}

/-- An access that is performed leaves these agents. -/
def Acc.Leaves (g : Agents) : Acc α → Prop
  | .ok t _ => t.agents = g
  | _ => True

/-- A stack or frame access that is done or has failed leaves these agents. -/
def Frame.Leaves (g : Agents) : Frame α → Prop
  | .ok t _ => t.agents = g
  | .fail t _ _ _ _ => t.agents = g
  | .wait _ => True

theorem bareCores_set {m : KMap Core} {c : Nat} {k : Core} (h : k.bare = bareCores m c) : bareCores (m.set c k) = bareCores m := by
  funext d
  simp only [bareCores, KMap.getD_set]
  split
  · rename_i e
    exact e ▸ h
  · rfl
theorem bareCores_absent {m : KMap Core} {c : Nat} (h : m.has c = false) : bareCores m c = Core.reset.bare := by
  have hm : m.get? c = none := Option.not_isSome_iff_eq_none.mp (Bool.eq_false_iff.mp h)
  simp only [bareCores, KMap.getD, hm, Option.getD_none]
/-- A core that is as at reset may be taken out. -/
theorem bareCores_erase {m : KMap Core} {c : Nat} (h : bareCores m c = Core.reset.bare) : bareCores (m.erase c) = bareCores m := by
  funext d
  by_cases e : c = d
  · rw [← e, h]
    simp only [bareCores, KMap.getD, KMap.get?_erase, if_pos, Option.getD_none]
  · simp only [bareCores, KMap.getD, KMap.get?_erase, if_neg e]
/-- A core may change in its caches. -/
theorem State.setCore_agents (s : State) (c : Nat) (k : Core) (h : k.bare = (s.core c).bare) : (s.setCore c k).agents = s.agents := by
  unfold State.agents
  rw [State.setCore_cores, bareCores_set h]
  rfl
theorem State.setWcb_agents (s : State) (c : Nat) (xs : List Wcb) : (s.setCore c { s.core c with wcb := xs }).agents = s.agents :=
  State.setCore_agents s c _ rfl
theorem State.setTlb_agents (s : State) (c : Nat) (xs : List TlbE) : (s.setCore c { s.core c with tlb := xs }).agents = s.agents :=
  State.setCore_agents s c _ rfl
/-- The agents determine the flights. -/
theorem State.flight?_eq_of_agents (h : t.agents = s.agents) (c fid : Nat) : t.flight? c fid = s.flight? c fid :=
  congrArg (fun g : Agents => (g.cores c).flights.get? fid) h

-- Sequencing and folds

theorem Acc.leaves_bind {x : Acc α} {f : State → α → Acc β} (hx : x.Leaves g) (hf : ∀ t a, t.agents = g → (f t a).Leaves g) : (x.bind f).Leaves g := by
  cases x with
  | ok t a => exact hf t a hx
  | bad k st => trivial
  | wait n => trivial
theorem Acc.leaves_ok {x : Acc α} {a : α} (hx : x.Leaves g) (e : x = .ok t a) : t.agents = g := by
  subst e
  exact hx
theorem Frame.leaves_ok {x : Frame α} {a : α} (hx : x.Leaves g) (e : x = .ok t a) : t.agents = g := by
  subst e
  exact hx
theorem Frame.leaves_fail {x : Frame α} {k st gpa : Nat} {m : Bool} (hx : x.Leaves g) (e : x = .fail t k m st gpa) : t.agents = g := by
  subst e
  exact hx
theorem foldl_agents {f : State → ι → State} (xs : List ι) (s : State) (hf : ∀ t x, (f t x).agents = t.agents) : (xs.foldl f s).agents = s.agents :=
  foldl_keeps (fun t => t.agents = s.agents) f xs s rfl fun t x h => (hf t x).trans h

-- Reads and writes of the L2, the L1s and memory (Sys2Proof/Machine/Base.lean, Sys2Proof/Machine/MemSys.lean)

theorem State.pick_agents (s : State) (n : Nat) : (s.pick n).2.agents = s.agents := by
  unfold State.pick
  split <;> rfl
theorem State.fabricPort_agents (s : State) (pkg gpa : Nat) : (s.fabricPort pkg gpa).2.agents = s.agents := by
  unfold State.fabricPort
  grind [State.pick_agents]
theorem State.fetchMem_agents (s : State) (t : Tgt) : (s.fetchMem t).1.agents = s.agents := by
  unfold State.fetchMem
  split
  · dsimp only
    split <;> rfl
  · rfl
  · rfl
  · rfl
theorem State.noteWrite_agents (s : State) (pkg a gpa : Nat) (mask : BitVec 64) : (s.noteWrite pkg a gpa mask).agents = s.agents :=
  State.fabricPort_agents s pkg gpa
theorem State.storeMem_agents (s : State) (k : Nat) (t : Tgt) (data : BitVec 512) (mask : BitVec 64) (psn clear : Bool) :
    (s.storeMem k t data mask psn clear).agents = s.agents := by
  unfold State.storeMem
  split
  case h_1 a key => simp only [State.agents]
  case h_2 pkg a => exact State.noteWrite_agents s pkg a (k % 2 ^ 51 * 64) mask
  case h_3 => rfl
  case h_4 => rfl
theorem State.setHome_agents (s : State) (k : Nat) (x : Home) : (s.setHome k x).agents = s.agents := rfl
theorem State.emit_agents (s : State) (m : Msg) : (s.emit m).agents = s.agents := rfl
theorem State.setL1_agents (s : State) (c k : Nat) (x : Sector) : (s.setL1 c k x).agents = s.agents := State.setCore_agents s c _ rfl
theorem State.dropL1_agents (s : State) (c k : Nat) : (s.dropL1 c k).agents = s.agents := by
  unfold State.dropL1
  dsimp only
  split
  · exact State.setCore_agents s c _ rfl
  · rfl
theorem State.giveWords_agents (s : State) (k : Nat) (ws : BitVec 16) (c : Nat) : (s.giveWords k ws c).agents = s.agents := by
  unfold State.giveWords
  grind [State.setHome_agents, State.setL1_agents]
theorem State.dropOthers_agents (s : State) (k : Nat) (keep : Option Nat) : (s.dropOthers k keep).agents = s.agents := by
  unfold State.dropOthers
  grind [State.setHome_agents, State.dropL1_agents, foldl_agents]
theorem State.writeBack_agents (s : State) (k : Nat) (t : Tgt) : (s.writeBack k t).agents = s.agents := by
  unfold State.writeBack
  grind [State.setHome_agents, State.storeMem_agents]
theorem State.evictL2_agents (s : State) (k : Nat) : (s.evictL2 k).agents = s.agents := by
  unfold State.evictL2
  grind [State.dropOthers_agents, State.setHome_agents, State.pick_agents, State.giveWords_agents, State.writeBack_agents, State.emit_agents, foldl_agents, State.agents]
theorem State.roomL2_agents (s : State) (k : Nat) : (s.roomL2 k).agents = s.agents := by
  unfold State.roomL2
  grind [State.evictL2_agents, State.pick_agents, foldl_agents, State.agents]
theorem State.recallFrom_agents (s : State) (k : Nat) (ws : BitVec 16) (c : Nat) : (s.recallFrom k ws c).agents = s.agents := by
  unfold State.recallFrom
  grind [State.roomL2_agents, State.giveWords_agents]
theorem State.recall_agents (s : State) (k : Nat) (ws : BitVec 16) : (s.recall k ws).agents = s.agents :=
  foldl_agents _ s fun t c => State.recallFrom_agents t k ws c
theorem State.evictL1_agents (s : State) (c k : Nat) : (s.evictL1 c k).agents = s.agents :=
  (State.dropL1_agents ..).trans (State.recallFrom_agents ..)
theorem State.roomL1_agents (s : State) (c k : Nat) : (s.roomL1 c k).agents = s.agents := by
  unfold State.roomL1
  grind [State.evictL1_agents, State.pick_agents, foldl_agents]
theorem State.fillHome_agents (s : State) (k : Nat) (t : Tgt) (coh : Bool) : (s.fillHome k t coh).agents = s.agents := by
  unfold State.fillHome
  grind [State.fetchMem_agents, State.setHome_agents, State.roomL2_agents]
theorem State.unanswered_agents (s : State) (k : Nat) (t : Tgt) : (s.unanswered k t).agents = s.agents := by
  unfold State.unanswered
  grind [State.setHome_agents, State.fillHome_agents, State.agents]
theorem State.readyHome_leaves (s : State) (func sec : Nat) (rd wr excl full : Bool) : (s.readyHome func sec rd wr excl full).Leaves s.agents := by
  unfold State.readyHome
  grind [State.unanswered_agents, Acc.Leaves]
theorem State.ownRemote_agents (s : State) (k : Nat) (t : Tgt) : (s.ownRemote k t).agents = s.agents := by
  unfold State.ownRemote
  grind [State.setHome_agents, State.emit_agents]
theorem State.updateOwn_agents (s : State) (c k : Nat) (data : BitVec 512) (mask : BitVec 64) : (s.updateOwn c k data mask).agents = s.agents := by
  unfold State.updateOwn
  grind [State.setL1_agents]
theorem State.writeCopy_agents (s : State) (c : Option Nat) (k : Nat) (coh : Bool) (data : BitVec 512) (mask : BitVec 64) (psn : BitVec 16) :
    (s.writeCopy c k coh data mask psn).agents = s.agents := by
  unfold State.writeCopy
  grind [State.updateOwn_agents, State.dropOthers_agents, State.recall_agents, State.setHome_agents, State.roomL2_agents]
theorem State.writeAtHome_leaves (s : State) (c : Option Nat) (func sec : Nat) (rd cls : Bool) (data : BitVec 512) (mask : BitVec 64) (psn : BitVec 16) :
    (s.writeAtHome c func sec rd cls data mask psn).Leaves s.agents := by
  unfold State.writeAtHome
  grind [State.ownRemote_agents, State.writeCopy_agents, State.fillHome_agents, State.readyHome_leaves, Acc.Leaves, Acc.leaves_bind]
theorem State.writeAtCtl_leaves (s : State) (c : Option Nat) (func sec : Nat) (rd cls : Bool) (data : BitVec 512) (mask : BitVec 64) (psn : BitVec 16) :
    (s.writeAtCtl c func sec rd cls data mask psn).Leaves s.agents := by
  unfold State.writeAtCtl
  grind [State.updateOwn_agents, State.dropOthers_agents, State.recall_agents, State.setHome_agents, State.writeBack_agents, State.readyHome_leaves,
    State.writeAtHome_leaves, State.storeMem_agents, Acc.Leaves, Acc.leaves_bind]
theorem State.writeAtL1_leaves (s : State) (c h func sec : Nat) (rd : Bool) (data : BitVec 512) (mask : BitVec 64) :
    (s.writeAtL1 c h func sec rd data mask).Leaves s.agents := by
  unfold State.writeAtL1
  grind [State.updateOwn_agents, State.recallFrom_agents, State.setHome_agents, State.setL1_agents, State.fillHome_agents, State.readyHome_leaves,
    State.roomL1_agents, State.writeAtHome_leaves, Acc.Leaves, Acc.leaves_bind, foldl_agents]
theorem State.writeSec_leaves (s : State) (c : Nat) (site : Site) (func sec : Nat) (rd cls : Bool) (data : BitVec 512) (mask : BitVec 64) :
    (s.writeSec c site func sec rd cls data mask).Leaves s.agents := by
  unfold State.writeSec
  grind [State.writeAtL1_leaves, State.writeAtCtl_leaves, State.writeAtHome_leaves]
theorem State.writeN_leaves (s : State) (c : Nat) (site : Site) (func gpa : Nat) (cls : Bool) (n x : Nat) :
    (s.writeN c site func gpa cls n x).Leaves s.agents := State.writeSec_leaves ..
theorem State.lookSec_leaves (s : State) (func sec : Nat) : (s.lookSec func sec).Leaves s.agents := by
  unfold State.lookSec
  grind [State.fillHome_agents, State.readyHome_leaves, Acc.Leaves, Acc.leaves_bind]
theorem State.drainEntry_leaves (s : State) (c : Nat) (w : Wcb) : (s.drainEntry c w).Leaves s.agents := by
  unfold State.drainEntry
  refine foldl_keeps (Acc.Leaves s.agents) _ _ _ rfl fun x j hx => Acc.leaves_bind hx fun t _ ht => ?_
  grind [State.writeAtCtl_leaves, Acc.Leaves, State.agents]
theorem State.drainFor_leaves (s : State) (c ctx gpa : Nat) : (s.drainFor c ctx gpa).Leaves s.agents := by
  unfold State.drainFor
  split
  · rfl
  · exact Acc.leaves_bind (State.drainEntry_leaves ..) fun t _ ht => (t.setWcb_agents c _).trans ht

-- Translation (Sys2Proof/Machine/Translate.lean)

theorem State.readEntry_agents (s : State) (func a : Nat) : (s.readEntry func a).1.agents = s.agents := by
  have hr := s.lookSec_leaves func (a / 64)
  unfold State.readEntry
  cases e : s.lookSec func (a / 64) with
  | ok t x => exact Acc.leaves_ok hr e
  | bad k st => rfl
  | wait n => rfl
theorem State.walkEntry_agents (s : State) (func ctx : Nat) (va : W64) (lvl a : Nat) (deeper : State → Nat → State × List WalkRes)
    (hd : ∀ t n, (deeper t n).1.agents = t.agents) : (s.walkEntry func ctx va lvl a deeper).1.agents = s.agents := by
  have hr := s.readEntry_agents func a
  unfold State.walkEntry
  grind
theorem State.walk_agents (s : State) (func ctx : Nat) (va : W64) (lvl table : Nat) : (s.walk func ctx va lvl table).1.agents = s.agents := by
  induction lvl generalizing s table with
  | zero => exact State.walkEntry_agents s func ctx va _ _ _ fun _ _ => rfl
  | succ lvl ih => exact State.walkEntry_agents s func ctx va _ _ _ ih
theorem State.translate_agents (s : State) (c ctx : Nat) (va : W64) (acc : Access) : (s.translate c ctx va acc).1.agents = s.agents := by
  have hw : (if (s.ctx ctx).ptroot = 0 then (s, [WalkRes.fault 0 false 1 0])
      else s.walk (s.funcOf ctx) ctx va 4 ((s.ctx ctx).ptroot.toNat % 2 ^ 57)).1.agents = s.agents := by
    split
    · rfl
    · exact State.walk_agents ..
  unfold State.translate
  dsimp only
  generalize (if (s.ctx ctx).ptroot = 0 then _ else s.walk _ _ _ _ _) = walked at hw ⊢
  grind [State.pick_agents, State.setTlb_agents]

-- Routes (Sys2Proof/Machine/Routes.lean)

theorem State.dieTranslate_agents (s : State) (ctx : Nat) (va : W64) (acc : Access) : (s.dieTranslate ctx va acc).1.agents = s.agents := by
  have ht := s.translate_agents 1000 ctx va acc
  unfold State.dieTranslate
  dsimp only
  split
  · exact ht
  · rename_i hc
    have hb := bareCores_erase ((congrFun (congrArg Agents.cores ht) 1000).trans (bareCores_absent (Bool.eq_false_iff.mpr hc)))
    simp only [State.agents, hb]
    exact ht
theorem State.readGpa_agents (s : State) (func gpa n : Nat) : (s.readGpa func gpa n).1.agents = s.agents := by
  unfold State.readGpa
  grind [State.lookSec_leaves, Acc.leaves_ok]
theorem State.readVa_agents (s : State) (ctx fuel : Nat) (va : W64) (n : Nat) : (s.readVa ctx fuel va n).1.agents = s.agents := by
  induction fuel generalizing s va n with
  | zero => rfl
  | succ fuel ih =>
    unfold State.readVa
    grind [State.dieTranslate_agents, State.readGpa_agents]
theorem State.readPgt_agents (s : State) (ctx : Nat) (va : W64) : (s.readPgt ctx va).1.agents = s.agents := by
  have hb (t : State) (va : W64) (n : Nat) : (t.readBytes ctx va n).1.agents = t.agents := State.readVa_agents ..
  unfold State.readPgt
  grind
theorem State.takeRoute_leaves (s : State) (ctx : Nat) (pgt : W64) (gpa : Nat) : (s.takeRoute ctx pgt gpa).Leaves s.agents := by
  unfold State.takeRoute
  grind [State.readPgt_agents, Acc.Leaves, State.agents]

-- Stack and frame accesses (Sys2Proof/Machine/Ops.lean)

theorem State.transWords_leaves (s : State) (c ctx : Nat) (va : W64) (acc : Access) (n : Nat) : (s.transWords c ctx va acc n).Leaves s.agents := by
  induction n generalizing s va with
  | zero => rfl
  | succ n ih =>
    unfold State.transWords
    grind [State.translate_agents, Frame.Leaves]
/-- One word of a stack or frame store. -/
theorem State.storeWord_leaves (s : State) (c ctx func gpa x : Nat) (cls : Bool) :
    ((s.routeHere ctx gpa).bind fun s _ => (s.drainFor c ctx gpa).bind fun s _ => s.writeN c .own func gpa cls 8 x).Leaves s.agents :=
  Acc.leaves_bind (State.takeRoute_leaves ..) fun _ _ ht => ht ▸ Acc.leaves_bind (State.drainFor_leaves ..) fun _ _ hu => hu ▸ State.writeN_leaves ..
/-- A stack or frame store leaves the agents as they were, done or failed. -/
theorem State.storeWords_leaves (s : State) (c ctx : Nat) (va : W64) (xs : List Nat) : (s.storeWords c ctx va xs).Leaves s.agents := by
  have ht := s.transWords_leaves c ctx va .write xs.length
  unfold State.storeWords
  split
  · exact Frame.leaves_fail ht ‹_›
  · trivial
  · refine foldl_keeps (Frame.Leaves s.agents) _ _ _ (Frame.leaves_ok ht ‹_›) fun r e hr => ?_
    cases r with
    | ok t x =>
      have he : t.agents = s.agents := hr
      dsimp only
      split
      · exact Acc.leaves_ok (he ▸ t.storeWord_leaves c ctx ..) ‹_›
      · exact he
      · trivial
    | fail t k m st g => exact hr
    | wait n => trivial

-- ---------------------------------------------------------------------------------------------
-- Taking a trap

variable {c fid l : Nat} {restart : W57} {cause : W32} {addr : W64} {tok : W32}

/-- Where the frame of a thread lies: in the 32 bytes below its aligned stack pointer (R105). -/
def Thread.frameAt (t : Thread) : W64 := (t.sp &&& ~~~15#64) - 32

/-- A thread that has entered its handler (R105). -/
def Thread.entered (t : Thread) (tvec : W64) (cause : W32) (addr : W64) (tok : W32) : Thread :=
  { t with
    sp := t.frameAt, depth := t.depth + 1, trapcause := cause, trapaddr := addr, poisontok := tok
    pc := tvec.setWidth 57, hold := .none, entering := some tvec }

theorem Thread.entered_v (t : Thread) (tvec : W64) (cause : W32) (addr : W64) (tok : W32) : (t.entered tvec cause addr tok).v = t.v := rfl
theorem Thread.entered_preds (t : Thread) (tvec : W64) (cause : W32) (addr : W64) (tok : W32) : (t.entered tvec cause addr tok).preds = t.preds := rfl

/-- At a depth of 7 no frame is stored (R109). -/
theorem State.takeTrap_of_deep {f : Flight} (hf : s.flight? c fid = some f) (hd : 7 ≤ (f.thread l).depth) :
    s.takeTrap c fid l restart cause addr tok = .ok (s.trapContext f.ctx 1 (f.thread l).trapaddr) () := by
  simp only [State.takeTrap, hf, ge_iff_le, if_pos hd, causeTrapDepth]

/-- Below that depth the outcome is that of storing the frame. The flight is the same after the store as before it. -/
theorem State.takeTrap_of_shallow {f : Flight} (hf : s.flight? c fid = some f) (hd : (f.thread l).depth < 7) :
    s.takeTrap c fid l restart cause addr tok = match s.storeWords c f.ctx (f.thread l).frameAt (Spec.frame (f.thread l) restart) with
      | .ok t _ => .ok (t.setFlight c fid (f.setThread l ((f.thread l).entered (t.ctx f.ctx).tvec cause addr tok))) ()
      | .fail t _ _ _ _ => .ok (t.trapContext f.ctx 2 (f.thread l).trapaddr) ()
      | .wait n => .wait n := by
  have hw : Spec.frame (f.thread l) restart =
      [restart.toNat, (f.thread l).trapaddr.toNat, (f.thread l).trapcause.toNat + (f.thread l).poisontok.toNat * 2 ^ 32, (f.thread l).sp.toNat] := by
    rw [Spec.frame, Nat.mul_comm]
  have hl := s.storeWords_leaves c f.ctx (f.thread l).frameAt (Spec.frame (f.thread l) restart)
  rw [hw] at hl ⊢
  simp only [State.takeTrap, hf, ge_iff_le, if_neg (Nat.not_le.mpr hd), ← Thread.frameAt.eq_def, causeTrapFrame]
  split
  next e => rw [e]
  next e => rw [e]
  next t _ e =>
    have hs : t.flight? c fid = some f := (State.flight?_eq_of_agents (Frame.leaves_ok hl e) c fid).trans hf
    simp only [e, hs, Thread.entered]

/-- A thread that changes in neither its v registers nor its predicates: no register but a stack pointer changes. -/
theorem Flight.holds_setThread (f : Flight) {u : Thread} (hv : u.v = (f.thread l).v) (hp : u.preds = (f.thread l).preds) {x : Loc} (hx : ∀ m, x ≠ .sp m) :
    (f.setThread l u).holds x = f.holds x := by
  have keeps {γ : Type} (p : Thread → γ) (h : p u = p (f.thread l)) (m : Nat) : p ((f.setThread l u).thread m) = p (f.thread m) := by
    rw [Flight.thread_setThread]
    split
    · rename_i e
      exact e ▸ h
    · rfl
  cases x with
  | v m i => simp only [Flight.holds, Thread.vreg, keeps Thread.v hv m]
  | p m i => simp only [Flight.holds, keeps Thread.preds hp m]
  | sp m => exact absurd rfl (hx m)
  | s i => rfl
  | k i => rfl

/-- Settles O17: an access to memory leaves the flights as they were, so what the trap changes is its one thread. -/
theorem takingATrap : Obligations.TakingATrap := by
  unfold Obligations.TakingATrap
  intro s c fid l f restart cause addr tok hf
  refine ⟨State.takeTrap_of_deep hf, fun hd => ⟨fun s' k m st g e => ?_, fun s' e => ?_⟩⟩
  · rw [State.takeTrap_of_shallow hf hd, Thread.frameAt, e]
  · refine ⟨f.setThread l ((f.thread l).entered (s'.ctx f.ctx).tvec cause addr tok), ?_, ?_⟩
    · rw [State.takeTrap_of_shallow hf hd, Thread.frameAt, e]
    · have keeps {x : Loc} (hx : ∀ m, x ≠ .sp m) := f.holds_setThread (Thread.entered_v (f.thread l) (s'.ctx f.ctx).tvec cause addr tok) (Thread.entered_preds ..) hx
      rw [Flight.thread_setThread, if_pos rfl]
      exact ⟨rfl, rfl, rfl, rfl, rfl, rfl, rfl, fun m i => ⟨keeps nofun, keeps nofun, keeps nofun, keeps nofun⟩,
        fun m hm => by rw [Flight.thread_setThread, if_neg hm.symm]⟩

end Sys2Proof.Machine
end
